-- ==== Sys2Proof/Word.lean ====
section
/-! DEFINITION. Words, bytes and the sparse maps that hold numbered things: registers, tiles, memory. -/
namespace Sys2Proof

/-- A byte of memory or of a message. -/
abbrev Byte := BitVec 8
/-- A 64-bit word: a scalar register, a register of the register region, an instruction. -/
abbrev Word := BitVec 64
/-- A vector register (03 R86): 64 lanes of 16 bits. -/
abbrev VReg := BitVec 1024
/-- Things held by number. An unlisted number has the default its reader names. -/
abbrev Map (α : Type) := List (Nat × α)

namespace Map

/-- What number `k` holds, if it is listed. -/
def look {α : Type} : Map α → Nat → Option α
  | [], _ => none
  | (a, b) :: t, k => if k = a then some b else look t k

/-- Let number `k` hold `v`; keeps a rising list rising. -/
def put {α : Type} : Map α → Nat → α → Map α
  | [], k, v => [(k, v)]
  | (a, b) :: t, k, v =>
    if k < a then (k, v) :: (a, b) :: t
    else if k = a then (k, v) :: t
    else (a, b) :: put t k v

/-- Unlist number `k`. -/
def del {α : Type} : Map α → Nat → Map α
  | [], _ => []
  | (a, b) :: t, k => if k = a then del t k else (a, b) :: del t k

/-- Apply `f` to everything listed. -/
def mapVals {α : Type} (f : α → α) (m : Map α) : Map α := m.map fun kv => (kv.1, f kv.2)

/-- What number `k` holds, with the default `d` for an unlisted number. -/
def getD {α : Type} (m : Map α) (k : Nat) (d : α) : α := (m.look k).getD d

/-- The canonical form: numbers strictly rising. -/
def wf {α : Type} : Map α → Bool
  | [] => true
  | [_] => true
  | (a, _) :: (b, y) :: t => decide (a < b) && wf ((b, y) :: t)

end Map

/-- Replace position `i` of a list; a list too short stays as it is. -/
def setAt {α : Type} : List α → Nat → α → List α
  | [], _, _ => []
  | _ :: t, 0, v => v :: t
  | h :: t, i + 1, v => h :: setAt t i v

/-- Remove position `i` of a list. -/
def dropAt {α : Type} : List α → Nat → List α
  | [], _ => []
  | _ :: t, 0 => t
  | h :: t, i + 1 => h :: dropAt t i

end Sys2Proof
end

