-- ==== Sys2Proof/Syntax.lean ====
section
/-! DEFINITION. The commands of the block: one constructor of `Instr` per row of the operation table, and the
plain data their operands are made of. -/
namespace Sys2Proof

/-- Where a tile instruction issues and the fields every instruction word has (04 R112): the tile, the thread,
the predicate selector and negation, the value of the word's reserved bits (zero in a legal word, R106) and the
word's bits [63:32], which a class 1 fault records (03 R110).
`tile` is a logical tile number, or 4096 plus it for the shadow of that tile (14 R442). -/
structure Site where
  tile : Nat
  thr  : Fin 8
  ps   : Fin 8
  pn   : Bool
  res  : Nat
  hi   : BitVec 32
  deriving DecidableEq, Repr

/-- What silicon does to an 80-bit codeword (10 R302): one, two or three bits in error, or four and more, which the
decoder passes as, or corrects to, the value `v`. -/
inductive Flaw
  | one | two | three
  | more (v : BitVec 64)
  deriving DecidableEq, Repr

/-- Where silicon changed a codeword before a command read it (10 R302, R317, 14 R427): the word at a byte offset of the
SRAM of a tile (its key), the word at a device address of GDDR7 or the CXL tier, the instruction word at a pc of a tile,
word 32·index + k of its descriptor store, the word at a device address as the shared fetch cache holds it, the word that
next travels to a device address over a mesh, a bridge or X; a word whose expander answers with CXL poison; `k` link-level
retries of CXL link `l` (10 R323); and the word at a byte offset of the retained memory (17 R518). -/
inductive Upset
  | sram (tile off : Nat) (f : Flaw)
  | tier (a : Nat) (f : Flaw)
  | instr (tile pc : Nat) (f : Flaw)
  | desc (tile word : Nat) (f : Flaw)
  | cache (a : Nat) (f : Flaw)
  | wire (a : Nat) (f : Flaw)
  | poison (a : Nat)
  | retry (l k : Nat)
  | retained (off : Nat) (f : Flaw)
  deriving DecidableEq, Repr

/-- What POWER_ON says of the always-on supply (15 R502): it is valid, with the strap pins `straps` as they then stand. -/
structure AuxSupply where
  valid  : Bool
  straps : Nat
  deriving DecidableEq, Repr

/-- How a GDDR7 transfer that failed its link CRC ended (10 R310): it was repeated `repeats` times; the fifth failure stands
for all four repeats' failing and the retraining, which leaves the channel sound or not. -/
structure CrcRepeats where
  repeats : Nat
  ok      : Bool
  deriving DecidableEq, Repr

/-- The fields T, RM and OV of a vector instruction (05 R174). -/
structure VOpts where
  t  : BitVec 3
  rm : BitVec 3
  ov : Bool
  deriving DecidableEq, Repr

/-- The link header of a frame on a direct port (11 R347). -/
structure LinkHdr where
  lseq  : Nat
  lackv : Bool
  rreq  : Bool
  lack  : Nat
  deriving DecidableEq, Repr

/-- The frame that carries a Weavo message (11 R332): the sub-port, the VLAN ID (0 where untagged), the source address, the
UDP destination port and the bytes of UDP payload; whether the UDP checksum holds, and whether the packet is free of IPv4
options, IPv6 extension headers and fragmentation. -/
structure Frame where
  port    : Nat
  sub     : Nat
  vlan    : Nat
  src     : Nat
  udpPort : Nat
  udpLen  : Nat
  sumOk   : Bool
  plain   : Bool
  link    : Option LinkHdr
  deriving DecidableEq, Repr

/-- Fields of the Weavo base header that differ from message to message (11 R336), with the CE mark of R333 and the frame.
`odd` says that the message's TYPE, or its STREAM SUB, REDUCE SUB, CTRL KIND or VOILE OPC, is one that version 1 does not
know, so that it is not the message that the command names. -/
structure Header where
  ver    : Nat
  odd    : Bool
  vc     : Nat
  src    : Nat
  dst    : Nat
  len    : Nat
  seq    : Nat
  jobtag : Nat
  ctx    : Nat
  res    : Option Nat            -- the residue, when RES is 1
  mc     : Bool
  retx   : Bool
  grant  : Option (Nat × Nat)    -- CVC and CGRANT, when CGV is 1
  ce     : Bool
  frame  : Frame
  deriving DecidableEq, Repr

/-- One entry of an ACCW payload: a record's device address and a 96-byte cell record (11 R338). -/
structure AccEntry where
  addr : Nat
  cell : List Byte
  deriving DecidableEq, Repr

/-- A transit block (12 R374) with its elements decoded: G values of a GI or CE form, bit patterns of NARROW. -/
structure TBlock where
  form : Nat
  esc  : Bool
  nl   : Nat
  lsb8 : Nat
  side : Nat
  els  : List Int
  deriving DecidableEq, Repr

/-- The Voile header (09 R296). -/
structure VoileHdr where
  len   : Nat     -- bytes moved, LEN_M1 + 1
  srcLt : Nat
  thr   : Fin 8
  ctr   : Fin 8
  epoch : Nat
  tag   : Nat
  addr  : Nat
  deriving DecidableEq, Repr

/-- The commit record a SEAL or a REND carries (13 R418). -/
structure SealRec where
  job    : Nat
  step   : Nat
  skips  : Nat
  cursor : Nat
  deriving DecidableEq, Repr

/-- The HELLO payload (11 R353). -/
structure HelloBody where
  vermask : Nat
  reply   : Bool
  direct  : Bool
  llr     : Bool
  pfc     : Bool
  node    : Nat
  port    : Nat
  sub     : Nat
  lanes   : Nat
  serial  : Nat
  session : Nat
  deriving DecidableEq, Repr

/-- What the sender of a HELLO can take, at the end of its payload (11 R345, R353): CREDIT of each channel, and MAXPAY. -/
structure HelloRoom where
  credits : List Nat
  maxpay  : Nat
  deriving DecidableEq, Repr

/-- A Weavo message that takes a sequence number (11 R337, R338), with the fields of its TSPEC and payload. -/
inductive Msg
  | streamData (addr epoch fbit lbit : Nat) (data : List Byte)
  | accw (epoch : Nat) (entries : List AccEntry)
  | doneReq (addr epoch : Nat) (cthr cctr : Fin 8) (token : Bool)
  | done (addr epoch : Nat)
  | pre (first epoch : Nat) (entries : List (BitVec 16))
  | grid (first epoch : Nat) (entries : List (BitVec 16))
  | part (first epoch : Nat) (blocks : List TBlock)
  | report (first epoch : Nat) (entries : List (BitVec 16))
  | result (first epoch : Nat) (blocks : List TBlock)
  | token (lt : Nat) (thr ctr : Fin 8) (count epoch : Nat)
  | verdict (epoch v : Nat) (nf : Bool)
  | outcome (epoch o : Nat)
  | mready (epoch count : Nat)
  | mrelease (epoch count : Nat)
  | retract (lt srcLt reason : Nat) (hw : Bool) (epoch : Nat)
  | start (count epoch : Nat)
  | mirrorData (slot offset : Nat) (data : List Byte)
  | seal (slot : Nat) (r : SealRec)
  | sealAck (slot : Nat)
  | rdata (slot offset : Nat) (data : List Byte)
  | rend (slot : Nat) (r : SealRec)
  | rendAck (slot : Nat)
  | put (v : VoileHdr) (data : List Byte)
  | get (v : VoileHdr)
  | getData (v : VoileHdr) (data : List Byte)
  | putDone (v : VoileHdr)
  /-- a CTRL KIND, STREAM SUB, VOILE OPC, REDUCE SUB or TYPE that version 1 does not know -/
  | unknown
  deriving DecidableEq, Repr

/-- One fragment of a LAUNCH (11 R352). -/
structure Fragment where
  h      : Header
  offset : Nat
  last   : Bool
  data   : List Byte
  deriving DecidableEq, Repr

/-- The host that sent a fragment: its source address. -/
def Fragment.host (f : Fragment) : Nat := f.h.frame.src

/-- The path a management request came by (19 R557). -/
inductive MPath
  | weavo | copper | i3c
  deriving DecidableEq, Repr

/-- A signed command envelope (19 R562) without its opcode and arguments, and the message and the frame that carry it; over I3C
those mean nothing but CTX. `odd` is the OPCODE where it is a reserved one, so that it is not the command's; `resv` is what the
reserved bytes 40-47 hold; `signer` is the key under which SIG verifies, if any, and `digest` the digest that it signs (log entry
5). -/
structure Envelope where
  odd     : Option Nat
  path    : MPath
  h       : Header
  version : Nat
  keyidx  : Nat
  arglen  : Nat
  resv    : Nat
  signer  : Option Nat
  digest  : BitVec 384
  serial  : Nat
  session : Nat
  seq     : Nat
  job     : Nat
  deriving DecidableEq, Repr

/-- The host that sent a command: the source address of its packet. -/
def Envelope.host (e : Envelope) : Nat := e.h.frame.src

/-- The host tag of a command (19 R558). -/
def Envelope.ctx (e : Envelope) : Nat := e.h.ctx

/-- Who asks an unsigned management question, by which path, and the message and the frame that carry it; `odd` says that the
MGMT message's KIND is none that a host may send (19 R558), so that it is not the question. -/
structure Asker where
  odd  : Bool
  path : MPath
  h    : Header
  deriving DecidableEq, Repr

/-- The host that asks. -/
def Asker.host (a : Asker) : Nat := a.h.frame.src

/-- The host tag of a question. -/
def Asker.ctx (a : Asker) : Nat := a.h.ctx

/-- One route of a node-table entry (11 R361, 20 R591). The first byte of an address in transmission order is the lowest
of the number. -/
structure Route where
  port   : Nat
  sub    : Nat
  mac    : Nat
  ip     : Nat
  deriving DecidableEq, Repr

/-- The expected role of a sub-port (18 Topology). -/
inductive SubRole
  | unused | switched | direct
  deriving DecidableEq, Repr

/-- One sub-port of the base configuration (19 R576, tag 0x0003). -/
structure SubPortCfg where
  role    : SubRole
  mac     : Nat
  ip      : Nat
  vlan    : Nat
  lanes   : Nat
  partner : Nat
  pport   : Nat
  psub    : Nat
  pcp     : List Nat
  deriving DecidableEq, Repr

/-- One entry of the HOSTS list (tag 0x000D). -/
structure HostCfg where
  addr   : Nat
  launch : Bool
  events : Bool
  deriving DecidableEq, Repr

/-- One key of the configuration key list (19 R561). -/
structure CfgKey where
  key     : Nat
  command : Bool
  plan    : Bool
  overlay : Bool
  deriving DecidableEq, Repr

/-- What a base configuration carries (19 R576). -/
structure BaseCfg where
  node        : Nat
  nodes       : Map (List Route)
  modes       : List Nat
  subs        : Map SubPortCfg
  udpPort     : Nat
  ipv6        : Bool
  ecn         : Bool
  pfc         : Bool
  shRead      : Nat
  shWrite     : Nat
  shRemote    : Nat
  cxlMembers  : List Nat
  cxlLeastRm  : Nat
  serials     : Map Nat
  leastBacked : Nat × Nat
  gngEn       : Bool
  gngPartner  : Nat
  slotMib     : Nat
  inbase      : Nat
  policies    : List Nat
  topoWaitMs  : Nat
  digestBase  : Nat
  keys        : List CfgKey
  hosts       : List HostCfg
  copper      : Nat × Nat × Nat
  deriving DecidableEq, Repr

/-- What an overlay carries (19 R576); an omitted field takes its default. -/
structure Overlay where
  xtgt : Option Nat
  ttgt : Option Nat
  starveUs : Option Nat
  vmax : Option Nat
  shadowEvery : Option Nat
  redMode : Option Nat
  capMib : Option Nat
  capN : Option Nat
  nrec : Option Nat
  slotLog2 : Option Nat
  tpsEn : Option Bool
  recBase : Option Nat
  capBase : Option Nat
  stragUs : Option Nat
  rtoUs : Option Nat
  nonexact : Option Bool
  debug : Option Bool
  deriving DecidableEq, Repr

/-- What the body of a store slot spells (19 R575, R576 give no byte layout of the tag values). `none` is a body
that meets no kind. -/
inductive ImageBody
  | none
  | firmware
  | base (b : BaseCfg)
  | overlay (o : Overlay)
  deriving DecidableEq, Repr

/-- What the phase-3 tests found (18 R530, R532, R533). Tiles are (die, column, row); `oneBit` counts the GDDR7 words with one
failing bit. -/
structure TestReport where
  badTiles  : List (Nat × Nat × Nat)
  badDamask : List (Nat × Nat × Nat)
  badDie    : Option Nat
  badGddr   : Option Nat
  oneBit    : Nat
  badCxl    : List Nat
  deriving DecidableEq, Repr

/-- What link training reached (18 R542): a channel that did not train, which lanes of each sub-port (port × 4 + sub)
trained, bit i for its lane i, and for each trained CXL link its capacity in 256 MiB units. -/
structure TrainReport where
  badGddr : Option Nat
  lanes   : Map Nat
  cxl     : Map Nat
  deriving DecidableEq, Repr

/-- A temperature sensor (15 R467): A or B of a tile group, or one of the sixteen of X. -/
inductive Sensor
  | tg (g : Nat) (b : Bool)
  | x (n : Nat)
  deriving DecidableEq, Repr

/-- What a reading interval measured (16 R490, R492), and, for the commands of the test receptacle, whether VTEST is there
(R498). -/
structure MeterMeas where
  vtest   : Bool
  durMs   : Nat
  mainMj  : Nat
  auxMj   : Nat
  range   : Bool
  checkOk : Bool
  deriving DecidableEq, Repr

/-- The commands. Tile instructions first (04, 05), then the events of the tile's units, streams and Voile, the
commit unit, messages and timers of the network, signed commands and management requests, register accesses,
pins, reset, bring-up, memory, power and the meter. -/
inductive Instr
  /-- NOP; with `bad` the word at this issue opportunity is one no row names (unassigned opcode, reserved FN, SEL
  or CHUNK, or the filler of an unloaded word): R66, R106, R114, R117. -/
  | nop (x : Site) (bad : Bool)
  | add (x : Site) (rd ra rb : Fin 32)
  | sub (x : Site) (rd ra rb : Fin 32)
  | and (x : Site) (rd ra rb : Fin 32)
  | or (x : Site) (rd ra rb : Fin 32)
  | xor (x : Site) (rd ra rb : Fin 32)
  | shl (x : Site) (rd ra rb : Fin 32)
  | shr (x : Site) (rd ra rb : Fin 32)
  | sra (x : Site) (rd ra rb : Fin 32)
  | mul (x : Site) (rd ra rb : Fin 32)
  | mulhu (x : Site) (rd ra rb : Fin 32)
  | min (x : Site) (rd ra rb : Fin 32)
  | max (x : Site) (rd ra rb : Fin 32)
  | minu (x : Site) (rd ra rb : Fin 32)
  | maxu (x : Site) (rd ra rb : Fin 32)
  | clz (x : Site) (rd ra : Fin 32)
  | popc (x : Site) (rd ra : Fin 32)
  | addi (x : Site) (rd ra : Fin 32) (imm : BitVec 32)
  | subi (x : Site) (rd ra : Fin 32) (imm : BitVec 32)
  | andi (x : Site) (rd ra : Fin 32) (imm : BitVec 32)
  | ori (x : Site) (rd ra : Fin 32) (imm : BitVec 32)
  | xori (x : Site) (rd ra : Fin 32) (imm : BitVec 32)
  | shli (x : Site) (rd ra : Fin 32) (imm : BitVec 32)
  | shri (x : Site) (rd ra : Fin 32) (imm : BitVec 32)
  | srai (x : Site) (rd ra : Fin 32) (imm : BitVec 32)
  | muli (x : Site) (rd ra : Fin 32) (imm : BitVec 32)
  | mini (x : Site) (rd ra : Fin 32) (imm : BitVec 32)
  | maxi (x : Site) (rd ra : Fin 32) (imm : BitVec 32)
  | minui (x : Site) (rd ra : Fin 32) (imm : BitVec 32)
  | maxui (x : Site) (rd ra : Fin 32) (imm : BitVec 32)
  | lil (x : Site) (rd : Fin 32) (imm : BitVec 32)
  | lih (x : Site) (rd : Fin 32) (imm : BitVec 32)
  | getc (x : Site) (rd : Fin 32) (sel : BitVec 6)
  | ld8u (x : Site) (rd ra : Fin 32) (off : BitVec 32)
  | ld16u (x : Site) (rd ra : Fin 32) (off : BitVec 32)
  | ld32u (x : Site) (rd ra : Fin 32) (off : BitVec 32)
  | ld64 (x : Site) (rd ra : Fin 32) (off : BitVec 32)
  | ld8s (x : Site) (rd ra : Fin 32) (off : BitVec 32)
  | ld16s (x : Site) (rd ra : Fin 32) (off : BitVec 32)
  | ld32s (x : Site) (rd ra : Fin 32) (off : BitVec 32)
  | st8 (x : Site) (rs ra : Fin 32) (off : BitVec 32)
  | st16 (x : Site) (rs ra : Fin 32) (off : BitVec 32)
  | st32 (x : Site) (rs ra : Fin 32) (off : BitVec 32)
  | st64 (x : Site) (rs ra : Fin 32) (off : BitVec 32)
  /-- the load of this thread returns; `up` is what silicon changed before it -/
  | loadComplete (tile : Nat) (thr : Fin 8) (up : List Upset)
  /-- the oldest store of this thread completes at its destination -/
  | storeComplete (tile : Nat) (thr : Fin 8)
  | mfence (x : Site)
  | cmpEq (x : Site) (pd : Fin 8) (ra rb : Fin 32)
  | cmpNe (x : Site) (pd : Fin 8) (ra rb : Fin 32)
  | cmpLt (x : Site) (pd : Fin 8) (ra rb : Fin 32)
  | cmpGe (x : Site) (pd : Fin 8) (ra rb : Fin 32)
  | cmpLtu (x : Site) (pd : Fin 8) (ra rb : Fin 32)
  | cmpGeu (x : Site) (pd : Fin 8) (ra rb : Fin 32)
  | cmpAny (x : Site) (pd : Fin 8) (ra rb : Fin 32)
  | cmpNone (x : Site) (pd : Fin 8) (ra rb : Fin 32)
  | cmpiEq (x : Site) (pd : Fin 8) (ra : Fin 32) (imm : BitVec 32)
  | cmpiNe (x : Site) (pd : Fin 8) (ra : Fin 32) (imm : BitVec 32)
  | cmpiLt (x : Site) (pd : Fin 8) (ra : Fin 32) (imm : BitVec 32)
  | cmpiGe (x : Site) (pd : Fin 8) (ra : Fin 32) (imm : BitVec 32)
  | cmpiLtu (x : Site) (pd : Fin 8) (ra : Fin 32) (imm : BitVec 32)
  | cmpiGeu (x : Site) (pd : Fin 8) (ra : Fin 32) (imm : BitVec 32)
  | cmpiAny (x : Site) (pd : Fin 8) (ra : Fin 32) (imm : BitVec 32)
  | cmpiNone (x : Site) (pd : Fin 8) (ra : Fin 32) (imm : BitVec 32)
  | plogAnd (x : Site) (pd pa : Fin 8) (na : Bool) (pb : Fin 8) (nb : Bool)
  | plogOr (x : Site) (pd pa : Fin 8) (na : Bool) (pb : Fin 8) (nb : Bool)
  | plogXor (x : Site) (pd pa : Fin 8) (na : Bool) (pb : Fin 8) (nb : Bool)
  | br (x : Site) (target : BitVec 12)
  | call (x : Site) (rd : Fin 32) (target : BitVec 12)
  | brr (x : Site) (ra : Fin 32)
  | callr (x : Site) (rd ra : Fin 32)
  | bdec (x : Site) (rd : Fin 32) (target : BitVec 12)
  | exit (x : Site)
  | tsend (x : Site) (node : BitVec 12) (loc : Bool) (lt : BitVec 12) (dthr ctr : Fin 8) (count : BitVec 16)
  | tsendr (x : Site) (ra rb : Fin 32)
  /-- token number `i` of those in flight on this node arrives -/
  | tokenArrival (i : Nat)
  | twait (x : Site) (ctr : Fin 8) (r : Bool) (ra : Fin 32) (count : BitVec 16)
  | bar (x : Site) (mask : BitVec 8) (id : Fin 4)
  | tread (x : Site) (ctr : Fin 8) (rd : Fin 32)
  | pmark (x : Site) (phase : BitVec 8)
  | stend (x : Site) (v : Bool) (pv : Fin 8) (vn : Bool)
  | retract (x : Site) (reason : BitVec 8)
  | dbgrd (x : Site) (rd : Fin 32) (f : Fin 2) (i j : Fin 32) (chunk : BitVec 4)
  | dbgwr (x : Site) (rs : Fin 32) (f : Fin 2) (i j : Fin 32) (chunk : BitVec 4)
  | dbgbrk (x : Site) (code : BitVec 16)
  | falloc (x : Site) (f : Fin 2) (strict : Bool)
  | ffree (x : Site) (f : Fin 2)
  | fstat (x : Site) (f : Fin 2) (pd : Fin 8) (sel : BitVec 4)
  | finv (x : Site) (f : Fin 2) (rd : Fin 32) (sel : BitVec 4)
  | fsumr (x : Site) (f : Fin 2)
  | mma (x : Site) (f : Fin 2) (aa ab : Fin 8) (rk rij : Fin 32)
  | mman (x : Site) (f : Fin 2) (aa ab : Fin 8) (rk rij : Fin 32)
  | fssq (x : Site) (f : Fin 2) (ab : Fin 8) (rk rij : Fin 32)
  | fldx (x : Site) (f : Fin 2) (ra : Fin 32)
  | frdx (x : Site) (f : Fin 2) (clr : Bool) (ra : Fin 32)
  | frd (x : Site) (f : Fin 2) (ad : Fin 8) (rm : BitVec 3) (ov sr clr : Bool) (rij : Fin 32)
  /-- the matrix engine's next instruction on this tile runs and retires -/
  | matrixRetire (tile : Nat)
  /-- the readout unit's next instruction runs and retires; `upset` is a cell bit that silicon changed (14 R427) -/
  | readoutRetire (tile : Nat) (upset : Option (Fin 32 × Fin 32 × Nat))
  /-- Ermine completes the oldest waiting check of this tile -/
  | ermineCheck (tile : Nat)
  | vld (x : Site) (vd ra : Fin 32) (off : BitVec 32)
  | vst (x : Site) (vs ra : Fin 32) (off : BitVec 32)
  | vadd (x : Site) (vd va vb : Fin 32) (o : VOpts)
  | vsub (x : Site) (vd va vb : Fin 32) (o : VOpts)
  | vmul (x : Site) (vd va vb : Fin 32) (o : VOpts)
  | vfma (x : Site) (vd va vb : Fin 32) (o : VOpts)
  | vmax (x : Site) (vd va vb : Fin 32) (o : VOpts)
  | vmin (x : Site) (vd va vb : Fin 32) (o : VOpts)
  | vand (x : Site) (vd va vb : Fin 32) (o : VOpts)
  | vor (x : Site) (vd va vb : Fin 32) (o : VOpts)
  | vxor (x : Site) (vd va vb : Fin 32) (o : VOpts)
  | vshl (x : Site) (vd va vb : Fin 32) (o : VOpts)
  | vshr (x : Site) (vd va vb : Fin 32) (o : VOpts)
  | vsra (x : Site) (vd va vb : Fin 32) (o : VOpts)
  | vcvt (x : Site) (st dt : BitVec 4) (vd vs : Fin 32) (part : BitVec 2) (rm : BitVec 3) (ov : Bool)
      (ra rb rc : Fin 32)
  | topk (x : Site) (vd : Fin 32) (ax : Fin 8) (k : BitVec 3) (dir : Bool)
  /-- the oldest TOPK of this tile finishes -/
  | topkRetire (tile : Nat)
  | topkm (x : Site) (vd va vb : Fin 32) (k : BitVec 3) (dir : Bool)
  | vanynf (x : Site) (pd : Fin 8) (vs : Fin 32) (t : BitVec 3)
  | vmovs (x : Site) (rd vs : Fin 32) (l : BitVec 4)
  | vbcast (x : Site) (vd rs : Fin 32) (t : BitVec 3)
  | vins (x : Site) (vd rs : Fin 32) (l : BitVec 4)
  | sarm (x : Site) (an : Fin 8) (ra : Fin 32)
  | sbind (x : Site) (an : Fin 8) (idx : BitVec 8)
  | sbindr (x : Site) (an : Fin 8) (ra : Fin 32)
  | sstat (x : Site) (rd : Fin 32) (an : Fin 8)
  /-- stream context `ctx` is granted a slot; `up` is what silicon changed before it, `sent` what it will change of the
  words that travel -/
  | streamGrant (ctx : Nat) (up sent : List Upset)
  /-- the last write of context `ctx` is acknowledged -/
  | streamComplete (ctx : Nat)
  | vput (x : Site) (len : BitVec 8) (dthr ctr : Fin 8) (loc : Bool) (rn ra rb : Fin 32)
  | vget (x : Site) (len : BitVec 8) (dthr ctr : Fin 8) (loc : Bool) (rn ra rb : Fin 32)
  /-- the node-local Voile operation in this slot of the tile completes -/
  | voileLocalComplete (tile slot : Nat)
  | tileVerdict (tile : Nat)
  | moduleVerdict
  | shadowCompare (lt : Nat)
  | tapestryRecord
  | hello (h : Header) (b : HelloBody) (room : HelloRoom)
  | launch (f : Fragment)
  | streamData (h : Header) (addr epoch fbit lbit : Nat) (data : List Byte)
  | accw (h : Header) (epoch : Nat) (entries : List AccEntry)
  | doneReq (h : Header) (addr epoch : Nat) (cthr cctr : Fin 8) (token : Bool)
  | done (h : Header) (addr epoch : Nat)
  | pre (h : Header) (first epoch : Nat) (entries : List (BitVec 16))
  | grid (h : Header) (first epoch : Nat) (entries : List (BitVec 16))
  | part (h : Header) (first epoch : Nat) (blocks : List TBlock)
  | report (h : Header) (first epoch : Nat) (entries : List (BitVec 16))
  | result (h : Header) (first epoch : Nat) (blocks : List TBlock)
  | token (h : Header) (lt : Nat) (thr ctr : Fin 8) (count epoch : Nat)
  | verdict (h : Header) (epoch v : Nat) (nf : Bool)
  | outcome (h : Header) (epoch o : Nat)
  | mready (h : Header) (epoch count : Nat)
  | mrelease (h : Header) (epoch count : Nat)
  | retractToken (h : Header) (lt srcLt reason : Nat) (hw : Bool) (epoch : Nat)
  | ctrlStart (h : Header) (count epoch : Nat)
  | mirrorData (h : Header) (slot offset : Nat) (data : List Byte)
  | seal (h : Header) (slot : Nat) (r : SealRec)
  | sealAck (h : Header) (slot : Nat)
  | rdata (h : Header) (slot offset : Nat) (data : List Byte)
  | rend (h : Header) (slot : Nat) (r : SealRec)
  | rendAck (h : Header) (slot : Nat)
  | put (h : Header) (v : VoileHdr) (data : List Byte)
  | get (h : Header) (v : VoileHdr) (up : List Upset)
  | getData (h : Header) (v : VoileHdr) (data : List Byte)
  | putDone (h : Header) (v : VoileHdr)
  | ack (h : Header) (ackseq avc : Nat) (ece : Bool)
  | nak (h : Header) (nseq nvc code detail : Nat)
  | linkControl (port sub lseq lack : Nat) (lackv rreq : Bool)
  | arp (port sub : Nat) (ip : Nat)
  | neighbourDiscovery (port sub : Nat) (ip : Nat)
  | priorityFlowControl (port sub prio : Nat) (pause : Bool)
  | retransmissionTimeout (peer vc seq : Nat)
  | ackDue (peer vc : Nat)
  | helloRepeat (peer route : Nat)
  | linkReplayTimeout (port sub : Nat)
  | lackRefresh (port sub : Nat)
  | ecnRateRaise (peer : Nat)
  | stragglerTimeout (ctx : Nat)
  | hold (e : Envelope)
  | release (e : Envelope)
  | endJob (e : Envelope)
  | setCap (e : Envelope) (capW : Nat)
  | reset (e : Envelope) (source : Nat)
  | tileReset (e : Envelope) (lt : Nat)
  | power (e : Envelope) (target : Nat)
  | coldBoot (e : Envelope)
  | rollback (e : Envelope)
  | push (e : Envelope) (slot : Nat)
  | writeReg (e : Envelope) (addr : Nat) (value mask : Word)
  | activate (e : Envelope) (slot : Nat)
  | selectMode (e : Envelope) (mode : Nat)
  | enrol (e : Envelope) (hash : Nat)
  | revoke (e : Envelope) (slot : Nat)
  | start (e : Envelope)
  | read (a : Asker) (addr count : Nat)
  | image (a : Asker) (slot addr : Nat) (data : List Byte) (signer : Option Nat) (body : ImageBody)
  | getVersion (a : Asker)
  | getCapabilities (a : Asker)
  | negotiateAlgorithms (a : Asker) (ecdsaP384 sha384 : Bool)
  | getDigests (a : Asker)
  | getCertificate (a : Asker) (slot : Nat)
  | challenge (a : Asker) (slot nonce : Nat)
  | getMeasurements (a : Asker) (index : Nat) (signed : Bool) (nonce : Nat)
  | setEndpointId (eid : Nat)
  | getEndpointId
  | getMctpVersionSupport
  | getMessageTypeSupport
  | getTid
  | getPldmVersion
  | getPldmTypes
  | getPldmCommands (type : Nat)
  /-- PDR handles and sensor numbers follow the order of 19 R560's table: 0-63 tile-group temperatures, 64 X, 65 and 66
  main and auxiliary power, 67 power state, 68 bring-up phase -/
  | getPdr (handle : Nat)
  | getSensorReading (id : Nat)
  | getStateSensorReadings (id : Nat)
  | pollForPlatformEventMessage
  | getFruRecordTableMetadata
  | getFruRecordTable
  | entdaa (addr : Nat)
  | setdasa (static addr : Nat)
  | meterI3cRead (offset : Nat)
  /-- `i`: 0 BYPASS, 1 IDCODE, 2 SAMPLE/PRELOAD, 3 EXTEST; every other number is a secure instruction (21 R609) -/
  | tapInstruction (i : Nat)
  | supplyGlitch
  | tlcHoldWrite (lt : Nat) (v : Bool)
  | dbgEnWrite (lt : Nat) (v : Bool)
  | force (lt : Nat) (v : Bool)
  | go
  | fdbgAccessComplete
  | gdrLinkRead
  | cxmLinkerrRead
  | cxmLinkRead (l : Nat)
  | tshPortRead (p : Nat)
  | ermChkCfgRead
  | chrLastTlRead
  | registerWrite (addr width : Nat) (value : Word)
  | powerOn (p : AuxSupply)
  | resetN (ns : Nat)
  | pwrOk (high : Bool)
  | regulatorFault (domain : Nat)
  | refclkFault
  | managementWatchdog
  | blockLockLoss (port sub : Nat)
  | cxlLinkDown (l : Nat)
  | cxlRetrainTimeout (l : Nat)
  | prsntN (l : Nat) (high : Bool)
  | resetHoldEnd
  | resetRelease
  | suppliesAndClock
  | optionLoading (fusesOk : Bool)
  | managementBoot
  | selfTest (r : TestReport)
  | defectMap
  | linkTraining (r : TrainReport)
  | topologyDiscovery
  | topoWaitExpiry
  | firmwareBroadcast (failed : List (Nat × Nat × Nat))
  | ready
  | backgroundFill
  /-- a transfer on channel `ch` failed its link CRC -/
  | channelRetrain (ch : Nat) (r : CrcRepeats)
  | correctionWriteBack (cxl : Bool) (unit : Nat) (up : List Upset)
  | scrub (cxl : Bool) (up : List Upset)
  | regulatorReading (domain deciWatt : Nat)
  | alphaUpdate
  | temperatureEvent (s : Sensor) (c : Nat)
  | thermalLowerTimer (g : Option Nat)
  | starvationAdmission
  | voltageChangeComplete (g : Nat)
  | meterStart
  | readingIntervalEnd (m : MeterMeas)
  | tapUpdate (mainMw auxCw : Nat)
  | delayedTag (m : MeterMeas)
  | sealSwitchOpened (m : MeterMeas)
  | testModeEnter (m : MeterMeas)
  | testModeLeave (m : MeterMeas)
  | refclkRunsAgain
  | regulatorReportsGood
  | resetNReturnsHigh
  | subPortRetrained (port sub : Nat) (lanes : Nat)
  | cxlLinkRetrained (l : Nat)
  | powerTransitionComplete
  | frameDiscarded (port sub reason : Nat)
  | testLogicReset
  deriving DecidableEq, Repr

end Sys2Proof
end

