-- ==== Sys2Proof/Machine/Bits.lean ====
section
/-! DEFINITION. Bit fields, byte order and two's complement: the helpers every other file uses. -/
namespace Sys2Proof.Machine

/-- `len` bits of `w` from bit `lo`. -/
def bits (w lo len : Nat) : Nat := (w >>> lo) % 2 ^ len

/-- `len` bits of a word from bit `lo`. -/
def fld (w : Word) (lo len : Nat) : Nat := bits w.toNat lo len

/-- Bit `i` of a word. -/
def bit (w : Word) (i : Nat) : Bool := fld w i 1 == 1

/-- The word `w` with `v` in its `len` bits from bit `lo`. -/
def setFld (w : Word) (lo len v : Nat) : Word :=
  let m : Word := BitVec.ofNat 64 ((2 ^ len - 1) <<< lo)
  (w &&& ~~~m) ||| (BitVec.ofNat 64 ((v % 2 ^ len) <<< lo))

/-- One where true. -/
def b2n (b : Bool) : Nat := if b then 1 else 0

/-- The number a little-endian byte list spells. -/
def leNat : List Byte → Nat
  | [] => 0
  | b :: t => b.toNat + 256 * leNat t

/-- The `n` little-endian bytes of a number. -/
def leBytes : Nat → Nat → List Byte
  | _, 0 => []
  | v, n + 1 => BitVec.ofNat 8 v :: leBytes (v / 256) n

/-- The `n` bytes of a number, most significant first. -/
def beBytes (v n : Nat) : List Byte := (leBytes v n).reverse

/-- The signed value of the low `w` bits of `v`. -/
def sgn (v w : Nat) : Int :=
  let u := v % 2 ^ w
  if w ≠ 0 ∧ 2 ^ (w - 1) ≤ u then (u : Int) - 2 ^ w else u

/-- The low `w` bits of a signed value. -/
def wrap (x : Int) (w : Nat) : Nat := (x % (2 ^ w : Nat)).toNat

/-- Sign-extended immediate (04 R116). -/
def sext (x : BitVec 32) : Word := x.signExtend 64

/-- Zero-extended immediate. -/
def zext (x : BitVec 32) : Word := x.setWidth 64

/-- Number of one bits. -/
def popCount (w : Nat) : Nat → Nat
  | 0 => 0
  | n + 1 => b2n (w.testBit n) + popCount w n

/-- Number of zero bits above the highest one bit, looking at `n` bits. -/
def leadZeros (w : Nat) : Nat → Nat
  | 0 => 0
  | n + 1 => if w.testBit n then 0 else 1 + leadZeros w n

/-- The lowest set bit of a number, looking at `fuel` bits from `i`. -/
def lowBitFrom (v : Nat) : Nat → Nat → Nat
  | 0, i => i
  | fuel + 1, i => if v.testBit i then i else lowBitFrom v fuel (i + 1)

/-- The lowest set bit of a non-zero image. -/
def lowBit (v : Nat) : Nat := lowBitFrom v 640 0

/-- `n` consecutive numbers from `a`. -/
def span (a n : Nat) : List Nat := (List.range n).map (a + ·)

/-- Ceiling of a quotient. -/
def ceilDiv (a b : Nat) : Nat := if b = 0 then 0 else (a + b - 1) / b

/-- The least of a list, if it has any element. -/
def least : List Nat → Option Nat
  | [] => none
  | a :: t => match least t with
    | none => some a
    | some b => some (if a ≤ b then a else b)

/-- The greatest of a list, zero for none. -/
def greatest : List Nat → Nat
  | [] => 0
  | a :: t => Nat.max a (greatest t)

/-- A sum over a list. -/
def sumOf {α : Type} (f : α → Nat) : List α → Nat
  | [] => 0
  | a :: t => f a + sumOf f t

/-- Add `v` to a list of distinct numbers. -/
def insertNew (v : Nat) (l : List Nat) : List Nat := if l.contains v then l else l ++ [v]

/-- Chop a list into pieces of at most `n`, with `fuel` pieces at most. -/
def chunks {α : Type} (n : Nat) : Nat → List α → List (List α)
  | 0, _ => []
  | _, [] => []
  | fuel + 1, l => l.take n :: chunks n fuel (l.drop n)

end Sys2Proof.Machine
end

