-- ==== Sys2Proof/Decode.lean ====
section
/-! DEFINITION. The table of operations gives bits to no row, so no word spells a command. The instruction words that a
slice loads into a tile (04 R112-R117, 05 R151, R152) are decoded here, for the tile's own sequencer. -/
namespace Sys2Proof

open Machine

/-- The command that a word spells by the table's bits: the table gives bits to no row. -/
def decodeTableWord (_nbits _w : Nat) : Option Instr := none

namespace Tw

/-- A 5-bit register field. -/
def r5 (w : Word) (lo : Nat) : Fin 32 := Fin.ofNat 32 (fld w lo 5)
/-- A 3-bit field. -/
def r3 (w : Word) (lo : Nat) : Fin 8 := Fin.ofNat 8 (fld w lo 3)
/-- A field as a bit vector. -/
def bv (w : Word) (lo n : Nat) : BitVec n := BitVec.ofNat n (fld w lo n)
/-- One bit. -/
def b1 (w : Word) (i : Nat) : Bool := bit w i
/-- The array field F. -/
def f1 (w : Word) (lo : Nat) : Fin 2 := Fin.ofNat 2 (fld w lo 1)
/-- The low 32 bits: IMM or OFF. -/
def imm (w : Word) : BitVec 32 := bv w 0 32
/-- The fields T, RM, OV of format V.R. -/
def vo (w : Word) : VOpts := { t := bv w 30 3, rm := bv w 27 3, ov := b1 w 26 }

end Tw

open Tw

/-- The instruction that thread `thr` of tile `tile` issues when it meets the word `w` (R112-R117, R151, R152): the
fields that the format leaves reserved are gathered into the site's `res`. A word that no row names decodes to NOP's
illegal form. -/
def decodeTile (tile : Nat) (thr : Fin 8) (w : Word) : Instr :=
  let at_ (res : Nat) : Site :=
    { tile := tile, thr := thr, ps := r3 w 55, pn := b1 w 54, res := res, hi := bv w 32 32 }
  let fn := fld w 48 6
  let bad : Instr := .nop (at_ 0) true
  match fld w 58 6 with
  | 0x00 => .nop (at_ (fld w 0 54)) false
  | 0x01 =>
    let x := at_ (fld w 0 33)
    let rd := r5 w 43
    let ra := r5 w 38
    let rb := r5 w 33
    match fn with
    | 0 => .add x rd ra rb
    | 1 => .sub x rd ra rb
    | 2 => .and x rd ra rb
    | 3 => .or x rd ra rb
    | 4 => .xor x rd ra rb
    | 5 => .shl x rd ra rb
    | 6 => .shr x rd ra rb
    | 7 => .sra x rd ra rb
    | 8 => .mul x rd ra rb
    | 9 => .mulhu x rd ra rb
    | 10 => .min x rd ra rb
    | 11 => .max x rd ra rb
    | 12 => .minu x rd ra rb
    | 13 => .maxu x rd ra rb
    | 14 => .clz (at_ (fld w 0 38)) rd ra
    | 15 => .popc (at_ (fld w 0 38)) rd ra
    | _ => bad
  | 0x02 =>
    let x := at_ (fld w 32 6)
    let rd := r5 w 43
    let ra := r5 w 38
    match fn with
    | 0 => .addi x rd ra (imm w)
    | 1 => .subi x rd ra (imm w)
    | 2 => .andi x rd ra (imm w)
    | 3 => .ori x rd ra (imm w)
    | 4 => .xori x rd ra (imm w)
    | 5 => .shli x rd ra (imm w)
    | 6 => .shri x rd ra (imm w)
    | 7 => .srai x rd ra (imm w)
    | 8 => .muli x rd ra (imm w)
    | 10 => .mini x rd ra (imm w)
    | 11 => .maxi x rd ra (imm w)
    | 12 => .minui x rd ra (imm w)
    | 13 => .maxui x rd ra (imm w)
    | _ => bad
  | 0x03 =>
    let x := at_ (fld w 32 11)
    match fn with
    | 0 => .lil x (r5 w 43) (imm w)
    | 1 => .lih x (r5 w 43) (imm w)
    | _ => bad
  | 0x04 =>
    let x := at_ (fld w 32 6)
    let rd := r5 w 43
    let ra := r5 w 38
    match fn with
    | 0 => .ld8u x rd ra (imm w)
    | 1 => .ld16u x rd ra (imm w)
    | 2 => .ld32u x rd ra (imm w)
    | 3 => .ld64 x rd ra (imm w)
    | 4 => .ld8s x rd ra (imm w)
    | 5 => .ld16s x rd ra (imm w)
    | 6 => .ld32s x rd ra (imm w)
    | _ => bad
  | 0x05 =>
    let x := at_ (fld w 32 6)
    let rs := r5 w 43
    let ra := r5 w 38
    match fn with
    | 0 => .st8 x rs ra (imm w)
    | 1 => .st16 x rs ra (imm w)
    | 2 => .st32 x rs ra (imm w)
    | 3 => .st64 x rs ra (imm w)
    | _ => bad
  | 0x06 =>
    let x := at_ (fld w 43 2 + fld w 0 33)
    let pd := r3 w 45
    let ra := r5 w 38
    let rb := r5 w 33
    match fn with
    | 0 => .cmpEq x pd ra rb
    | 1 => .cmpNe x pd ra rb
    | 2 => .cmpLt x pd ra rb
    | 3 => .cmpGe x pd ra rb
    | 4 => .cmpLtu x pd ra rb
    | 5 => .cmpGeu x pd ra rb
    | 6 => .cmpAny x pd ra rb
    | 7 => .cmpNone x pd ra rb
    | _ => bad
  | 0x07 =>
    let x := at_ (fld w 43 2 + fld w 32 6)
    let pd := r3 w 45
    let ra := r5 w 38
    match fn with
    | 0 => .cmpiEq x pd ra (imm w)
    | 1 => .cmpiNe x pd ra (imm w)
    | 2 => .cmpiLt x pd ra (imm w)
    | 3 => .cmpiGe x pd ra (imm w)
    | 4 => .cmpiLtu x pd ra (imm w)
    | 5 => .cmpiGeu x pd ra (imm w)
    | 6 => .cmpiAny x pd ra (imm w)
    | 7 => .cmpiNone x pd ra (imm w)
    | _ => bad
  | 0x08 =>
    let x := at_ (fld w 0 37)
    let pd := r3 w 45
    let pa := r3 w 42
    let na := b1 w 41
    let pb := r3 w 38
    let nb := b1 w 37
    match fn with
    | 0 => .plogAnd x pd pa na pb nb
    | 1 => .plogOr x pd pa na pb nb
    | 2 => .plogXor x pd pa na pb nb
    | _ => bad
  | 0x09 =>
    match fn with
    | 0 => .br (at_ (fld w 43 5 + fld w 12 31)) (bv w 0 12)
    | 1 => .call (at_ (fld w 12 31)) (r5 w 43) (bv w 0 12)
    | _ => bad
  | 0x0A =>
    match fn with
    | 0 => .brr (at_ (fld w 43 5 + fld w 0 38)) (r5 w 38)
    | 1 => .callr (at_ (fld w 0 38)) (r5 w 43) (r5 w 38)
    | _ => bad
  | 0x0B => if fn = 0 then .bdec (at_ (fld w 12 31)) (r5 w 43) (bv w 0 12) else bad
  | 0x0C => .getc (at_ (fld w 0 43)) (r5 w 43) (bv w 48 6)
  | 0x0D => .mfence (at_ (fld w 0 54))
  | 0x0E => .exit (at_ (fld w 0 54))
  | 0x10 =>
    let f := f1 w 47
    match fn with
    | 0 => .falloc (at_ (fld w 0 46)) f (b1 w 46)
    | 1 => .ffree (at_ (fld w 0 47)) f
    | 2 => .fstat (at_ (fld w 46 1 + fld w 38 5 + fld w 0 34)) f (r3 w 43) (bv w 34 4)
    | 3 => .finv (at_ (fld w 43 4 + fld w 0 34)) f (r5 w 38) (bv w 34 4)
    | 4 => .fsumr (at_ (fld w 0 47)) f
    | _ => bad
  | 0x11 =>
    let x := at_ (fld w 0 31)
    match fn with
    | 0 => .mma x (f1 w 47) (r3 w 44) (r3 w 41) (r5 w 36) (r5 w 31)
    | 1 => .mman x (f1 w 47) (r3 w 44) (r3 w 41) (r5 w 36) (r5 w 31)
    | _ => bad
  | 0x12 =>
    if fn = 0 then .fssq (at_ (fld w 44 3 + fld w 0 31)) (f1 w 47) (r3 w 41) (r5 w 36) (r5 w 31) else bad
  | 0x13 =>
    match fn with
    | 0 => .fldx (at_ (fld w 46 1 + fld w 0 41)) (f1 w 47) (r5 w 41)
    | 1 => .frdx (at_ (fld w 0 41)) (f1 w 47) (b1 w 46) (r5 w 41)
    | _ => bad
  | 0x14 =>
    if fn = 0 then
      .frd (at_ (fld w 0 33)) (f1 w 47) (r3 w 44) (bv w 41 3) (b1 w 40) (b1 w 39) (b1 w 38) (r5 w 33)
    else bad
  | 0x20 =>
    let x := at_ (fld w 32 6)
    match fn with
    | 0 => .vld x (r5 w 43) (r5 w 38) (imm w)
    | 1 => .vst x (r5 w 43) (r5 w 38) (imm w)
    | _ => bad
  | 0x21 =>
    let x := at_ (fld w 0 26)
    let vd := r5 w 43
    let va := r5 w 38
    let vb := r5 w 33
    match fn with
    | 0 => .vadd x vd va vb (vo w)
    | 1 => .vsub x vd va vb (vo w)
    | 2 => .vmul x vd va vb (vo w)
    | 3 => .vfma x vd va vb (vo w)
    | 4 => .vmax x vd va vb (vo w)
    | 5 => .vmin x vd va vb (vo w)
    | 6 => .vand x vd va vb (vo w)
    | 7 => .vor x vd va vb (vo w)
    | 8 => .vxor x vd va vb (vo w)
    | 9 => .vshl x vd va vb (vo w)
    | 10 => .vshr x vd va vb (vo w)
    | 11 => .vsra x vd va vb (vo w)
    | _ => bad
  | 0x22 =>
    .vcvt (at_ (fld w 0 15)) (bv w 50 4) (bv w 46 4) (r5 w 41) (r5 w 36) (bv w 34 2) (bv w 31 3) (b1 w 30)
      (r5 w 25) (r5 w 20) (r5 w 15)
  | 0x24 =>
    match fn with
    | 0 => .topk (at_ (fld w 33 10 + fld w 0 26)) (r5 w 43) (r3 w 30) (bv w 27 3) (b1 w 26)
    | 1 => .topkm (at_ (fld w 30 3 + fld w 0 26)) (r5 w 43) (r5 w 38) (r5 w 33) (bv w 27 3) (b1 w 26)
    | _ => bad
  | 0x25 =>
    let a := r5 w 43
    let b := r5 w 38
    match fn with
    | 0 => .vanynf (at_ (fld w 38 5 + fld w 0 32)) (r3 w 35) a (bv w 32 3)
    | 1 => .vmovs (at_ (fld w 32 6 + fld w 0 28)) b a (bv w 28 4)
    | 2 => .vbcast (at_ (fld w 35 3 + fld w 0 32)) a b (bv w 32 3)
    | 3 => .vins (at_ (fld w 32 6 + fld w 0 28)) a b (bv w 28 4)
    | _ => bad
  | 0x30 =>
    .tsend (at_ (fld w 16 7)) (bv w 42 12) (b1 w 41) (bv w 29 12) (r3 w 26) (r3 w 23) (bv w 0 16)
  | 0x31 => .tsendr (at_ (fld w 43 11 + fld w 0 33)) (r5 w 38) (r5 w 33)
  | 0x32 => .twait (at_ (fld w 43 7 + fld w 16 22)) (r3 w 51) (b1 w 50) (r5 w 38) (bv w 0 16)
  | 0x33 => .bar (at_ (fld w 0 44)) (bv w 46 8) (Fin.ofNat 4 (fld w 44 2))
  | 0x34 => .tread (at_ (fld w 48 3 + fld w 0 43)) (r3 w 51) (r5 w 43)
  | 0x35 => .sarm (at_ (fld w 0 46)) (r3 w 51) (r5 w 46)
  | 0x36 =>
    match fn with
    | 0 => .sbind (at_ (fld w 40 5 + fld w 0 32)) (r3 w 45) (bv w 32 8)
    | 1 => .sbindr (at_ (fld w 0 40)) (r3 w 45) (r5 w 40)
    | 2 => .sstat (at_ (fld w 0 40)) (r5 w 40) (r3 w 45)
    | _ => bad
  | 0x38 => .pmark (at_ (fld w 0 46)) (bv w 46 8)
  | 0x39 => .stend (at_ (fld w 0 49)) (b1 w 53) (r3 w 50) (b1 w 49)
  | 0x3A => .retract (at_ (fld w 0 46)) (bv w 46 8)
  | 0x3B =>
    match fn with
    | 0 => .dbgrd (at_ (fld w 0 28)) (r5 w 43) (f1 w 42) (r5 w 37) (r5 w 32) (bv w 28 4)
    | 1 => .dbgwr (at_ (fld w 0 28)) (r5 w 43) (f1 w 42) (r5 w 37) (r5 w 32) (bv w 28 4)
    | 2 => .dbgbrk (at_ (fld w 16 32)) (bv w 0 16)
    | _ => bad
  | 0x3C =>
    .vput (at_ (fld w 0 24)) (bv w 46 8) (r3 w 43) (r3 w 40) (b1 w 39) (r5 w 34) (r5 w 29) (r5 w 24)
  | 0x3D =>
    .vget (at_ (fld w 0 24)) (bv w 46 8) (r3 w 43) (r3 w 40) (b1 w 39) (r5 w 34) (r5 w 29) (r5 w 24)
  | _ => bad

end Sys2Proof
end

