-- ==== Sys2Proof/Machine/Ecdsa.lean ====
section
/-! DEFINITION. Verification of an ECDSA P-384 signature over a SHA-384 digest (FIPS 186), which the spec names for plan slices
and overlays (03 R65, R69, 19 R561, R567). The curve is the one that the standard gives under that name. -/
namespace Sys2Proof.Machine

/-- The field's prime. -/
def p384P : Nat := 2 ^ 384 - 2 ^ 128 - 2 ^ 96 + 2 ^ 32 - 1
/-- The order of the base point. -/
def p384N : Nat := 0xFFFFFFFFFFFFFFFFFFFFFFFFFFFFFFFFFFFFFFFFFFFFFFFFC7634D81F4372DDF581A0DB248B0A77AECEC196ACCC52973
/-- The curve's coefficient b; a is -3. -/
def p384B : Nat := 0xB3312FA7E23EE7E4988E056BE3F82D19181D9C6EFE8141120314088F5013875AC656398D8A2ED19D2A85C8EDD3EC2AEF
/-- The base point. -/
def p384Gx : Nat := 0xAA87CA22BE8B05378EB1C71EF320AD746E1D3B628BA79B9859F741E082542A385502F25DBF55296C3A545E3872760AB7
/-- The base point. -/
def p384Gy : Nat := 0x3617DE4A96262C6F5D9E98BF9292DC29F8F41DBD289A147CE9DA3113B5F0B8C00A60B1CE1D7E819D7A431D7C90EA0E5F

/-- A point in Jacobian coordinates; z is zero at infinity. -/
structure EcPoint where
  x : Nat
  y : Nat
  z : Nat
  deriving DecidableEq, Repr

/-- The difference of two residues. -/
def ecSub (a b : Nat) : Nat := (a + (p384P - b)) % p384P

/-- Hand a number on as its value. -/
def withNat {α : Type} (n : Nat) (f : Nat → α) : α :=
  match n with
  | 0 => f 0
  | k + 1 => f (k + 1)

/-- The double of a point. -/
def EcPoint.double (a : EcPoint) : EcPoint :=
  withNat (a.z * a.z % p384P) fun d =>
  withNat (a.y * a.y % p384P) fun g =>
  withNat (a.x * g % p384P) fun b =>
  withNat (3 * (ecSub a.x d * ((a.x + d) % p384P)) % p384P) fun al =>
  withNat (ecSub (al * al % p384P) (8 * b % p384P)) fun x =>
  withNat (ecSub (al * ecSub (4 * b % p384P) x % p384P) (8 * (g * g) % p384P)) fun y =>
  withNat (2 * (a.y * a.z) % p384P) fun z => { x := x, y := y, z := z }

/-- The sum of two points. -/
def EcPoint.add (a b : EcPoint) : EcPoint :=
  if a.z = 0 then b
  else if b.z = 0 then a
  else
    withNat (a.z * a.z % p384P) fun za =>
    withNat (b.z * b.z % p384P) fun zb =>
    withNat (a.x * zb % p384P) fun u =>
    withNat (ecSub (b.x * za % p384P) u) fun h =>
    withNat (a.y * (b.z * zb % p384P) % p384P) fun s =>
    withNat (ecSub (b.y * (a.z * za % p384P) % p384P) s) fun r =>
    if h = 0 then (if r = 0 then a.double else { x := 1, y := 1, z := 0 })
    else
      withNat (h * h % p384P) fun hh =>
      withNat (h * hh % p384P) fun hhh =>
      withNat (u * hh % p384P) fun v =>
      withNat (ecSub (ecSub (r * r % p384P) hhh) (2 * v % p384P)) fun x =>
      withNat (ecSub (r * ecSub v x % p384P) (s * hhh % p384P)) fun y =>
      withNat (h * (a.z * b.z % p384P) % p384P) fun z => { x := x, y := y, z := z }

/-- u·g + v·q from bit `i` of both numbers downward, with s = g + q. -/
def ecSum (g q s : EcPoint) (u v : Nat) : Nat → EcPoint → EcPoint
  | 0, a => a
  | i + 1, a =>
    let d := a.double
    ecSum g q s u v i (match u.testBit i, v.testBit i with
      | false, false => d
      | true, false => d.add g
      | false, true => d.add q
      | true, true => d.add s)

/-- A power modulo `m`, from bit `i` of the exponent downward. -/
def ecPow (m b e : Nat) : Nat → Nat → Nat
  | 0, a => a
  | i + 1, a => withNat (if e.testBit i then a * a % m * b % m else a * a % m) fun c => ecPow m b e i c

/-- The base point. -/
def ecBase : EcPoint := { x := p384Gx, y := p384Gy, z := 1 }

/-- The public key of a private scalar: its multiple of the base point, x above the 384 bits of y. -/
def ecPublic (d : Nat) : Nat :=
  let a := ecSum ecBase ecBase ecBase d 0 384 { x := 1, y := 1, z := 0 }
  withNat (ecPow p384P a.z (p384P - 2) 384 1) fun i =>
  withNat (i * i % p384P) fun ii => a.x * ii % p384P * 2 ^ 384 + a.y * (ii * i % p384P) % p384P

/-- Whether `r` and `s` are a signature of digest number `z` under the key (x, y). -/
def ecdsaHolds (x y z r s : Nat) : Bool :=
  if decide (0 < r ∧ r < p384N ∧ 0 < s ∧ s < p384N ∧ x < p384P ∧ y < p384P) &&
      y * y % p384P == ecSub ((x * x % p384P * x + p384B) % p384P) (3 * x % p384P) then
    withNat (ecPow p384N s (p384N - 2) 384 1) fun w =>
    withNat (z * w % p384N) fun u =>
    withNat (r * w % p384N) fun v =>
      let q : EcPoint := { x := x, y := y, z := 1 }
      let a := ecSum ecBase q (ecBase.add q) u v 384 { x := 1, y := 1, z := 0 }
      withNat (a.z * a.z % p384P) fun zz =>
        a.z != 0 && (a.x == r * zz % p384P || (decide (r + p384N < p384P) && a.x == (r + p384N) * zz % p384P))
  else false

/-- Whether a signature of 96 bytes, r then s, most significant byte first (03 R69), verifies over `m` under a public key, its x
coordinate above the 384 bits of y. -/
def ecdsaVerify (key : Nat) (m sig : List Byte) : Bool :=
  withNat (leNat (sha384Bytes m).reverse) fun z =>
  withNat (leNat (sig.take 48).reverse) fun r =>
  withNat (leNat ((sig.drop 48).take 48).reverse) fun s =>
  withNat (key / 2 ^ 384) fun x =>
  withNat (key % 2 ^ 384) fun y => ecdsaHolds x y z r s

end Sys2Proof.Machine
end

