-- ==== Sys2Proof/Machine/Numeric.lean ====
section
/-! DEFINITION. Number formats and rounding (06): values, the element formats, the one rounding function, overflow,
integer conversion, block scales, exact arithmetic on values and the SR hash. -/
namespace Sys2Proof.Machine

/-! ### Values and formats -/

/-- A value: NaN, an infinity, or the signed dyadic number ±m · 2^e (a zero keeps its sign). -/
inductive Val
  | nan
  | inf (neg : Bool)
  | fin (neg : Bool) (m : Nat) (e : Int)
  deriving DecidableEq, Repr

/-- A floating-point element format (R189): width, fraction width, bias, magnitude code of the largest finite value,
of infinity and of the canonical NaN where the format has them. -/
structure FloatFmt where
  w    : Nat
  mb   : Nat
  bias : Nat
  top  : Nat
  inf  : Option Nat
  nan  : Option Nat
  deriving DecidableEq, Repr

/-- binary32. -/
def fp32 : FloatFmt := ⟨32, 23, 127, 0x7F7FFFFF, some 0x7F800000, some 0x7FC00000⟩
/-- binary16. -/
def fp16 : FloatFmt := ⟨16, 10, 15, 0x7BFF, some 0x7C00, some 0x7E00⟩
/-- BF16. -/
def bf16 : FloatFmt := ⟨16, 7, 127, 0x7F7F, some 0x7F80, some 0x7FC0⟩
/-- OCP FP8 E5M2. -/
def e5m2 : FloatFmt := ⟨8, 2, 15, 0x7B, some 0x7C, some 0x7E⟩
/-- OCP FP8 E4M3: no infinity, one NaN code of each sign. -/
def e4m3 : FloatFmt := ⟨8, 3, 7, 0x7E, none, some 0x7F⟩
/-- MXFP6 element E3M2. -/
def e3m2 : FloatFmt := ⟨6, 2, 3, 0x1F, none, none⟩
/-- MXFP6 element E2M3. -/
def e2m3 : FloatFmt := ⟨6, 3, 1, 0x1F, none, none⟩
/-- MXFP4 element E2M1. -/
def e2m1 : FloatFmt := ⟨4, 1, 1, 0x7, none, none⟩

/-- An element type: floating point; an integer of width `w`; the INT8 element with its weight 2^-6. -/
inductive Elem
  | fp (f : FloatFmt)
  | int (w : Nat)
  | blk8
  deriving DecidableEq, Repr

/-- Width of an element in bits. -/
def Elem.width : Elem → Nat
  | .fp f => f.w
  | .int w => w
  | .blk8 => 8

/-- Element type of a tensor format code (R187); none for a reserved code. -/
def elemOf : Nat → Option Elem
  | 0 => some (.fp fp32)
  | 1 => some (.fp fp16)
  | 2 => some (.fp bf16)
  | 3 => some (.fp e4m3)
  | 4 => some (.fp e5m2)
  | 5 => some (.int 8)
  | 6 => some (.int 4)
  | 7 => some (.int 16)
  | 8 => some (.int 32)
  | 16 | 24 => some (.fp e4m3)
  | 17 | 25 => some (.fp e5m2)
  | 18 | 26 => some (.fp e3m2)
  | 19 | 27 => some (.fp e2m3)
  | 20 | 28 => some (.fp e2m1)
  | 21 | 29 => some .blk8
  | _ => none

/-- Whether a tensor format code is an MX block format. -/
def isMx (c : Nat) : Bool := decide (16 ≤ c ∧ c ≤ 21)
/-- Whether a tensor format code is an IBF block format. -/
def isIbf (c : Nat) : Bool := decide (24 ≤ c ∧ c ≤ 29)
/-- Whether a tensor format code is a block format. -/
def isBlock (c : Nat) : Bool := isMx c || isIbf c

/-- Elements of a block (R188). -/
def blockElems (bsz : Nat) : Nat := 16 * 2 ^ bsz

/-- Bytes of an IBF block (R196). -/
def blockBytes (w bsz : Nat) : Nat := 1 + blockElems bsz * w / 8

/-! ### Decoding -/

/-- The value of a floating-point encoding (R189, R190). -/
def FloatFmt.decode (f : FloatFmt) (b : Nat) : Val :=
  let neg := b.testBit (f.w - 1)
  let c := b % 2 ^ (f.w - 1)
  if f.top < c then
    if f.inf = some c then .inf neg else .nan
  else
    let e := c / 2 ^ f.mb
    let m := c % 2 ^ f.mb
    if e = 0 then .fin neg m (1 - (f.bias : Int) - f.mb)
    else .fin neg (m + 2 ^ f.mb) ((e : Int) - f.bias - f.mb)

/-- The value of an integer × 2^e. -/
def ofInt (x : Int) (e : Int) : Val := .fin (decide (x < 0)) x.natAbs e

/-- The value of an element's bits (R192). -/
def Elem.decode (t : Elem) (b : Nat) : Val :=
  match t with
  | .fp f => f.decode b
  | .int w => ofInt (sgn b w) 0
  | .blk8 => ofInt (sgn b 8) (-6)

/-- A value times the block scale of byte `sc` (R193). -/
def scaled (sc : Nat) (v : Val) : Val :=
  if sc = 255 then .nan
  else match v with
    | .fin n m e => .fin n m (e + sc - 127)
    | w => w

/-! ### Rounding (R200, R201) -/

/-- Whether the value between neighbours goes to the one farther from zero. `odd` says that the encoding of the nearer
one to zero is odd; `rem` out of `2^sh` is the distance from it. -/
def goesUp (rm : Nat) (neg odd : Bool) (rem sh u : Nat) : Bool :=
  if rem = 0 then false
  else match rm with
    | 0 => decide (2 ^ sh < 2 * rem) || (decide (2 ^ sh = 2 * rem) && odd)
    | 1 => false
    | 2 => !neg
    | 3 => neg
    | 4 => !odd
    | _ => decide (u < (rem * 2 ^ 32) / 2 ^ sh)

/-- m · 2^e rounded onto the multiples of 2^q by magnitude; `base` is added to the quotient for the parity of the
encoding. -/
def roundTo (rm : Nat) (neg : Bool) (u m : Nat) (e q : Int) (base : Nat) : Nat :=
  if q ≤ e then m * 2 ^ (e - q).toNat
  else
    let sh := (q - e).toNat
    let lo := m / 2 ^ sh
    lo + b2n (goesUp rm neg ((lo + base) % 2 == 1) (m % 2 ^ sh) sh u)

/-- Floor of the base-2 logarithm of m · 2^e for m ≠ 0. -/
def topExp (m : Nat) (e : Int) : Int := (Nat.log2 m : Int) + e

/-- The magnitude code of ±m · 2^e rounded to a floating-point grid; a code above `top` lies beyond the largest finite
value. -/
def FloatFmt.code (f : FloatFmt) (rm : Nat) (neg : Bool) (u m : Nat) (e : Int) : Nat :=
  if m = 0 then 0
  else
    let qmin : Int := 1 - (f.bias : Int) - f.mb
    let q0 : Int := topExp m e - f.mb
    let q := if q0 < qmin then qmin else q0
    let base := (q - qmin).toNat * 2 ^ f.mb
    roundTo rm neg u m e q base + base

/-- A result as it is written, with what it sets: a finite overflow, an invalid conversion. -/
structure Enc where
  bits : Nat
  ovf : Bool
  inv  : Bool
  deriving DecidableEq, Repr

/-- Put a sign bit before a magnitude code. -/
def FloatFmt.signed (f : FloatFmt) (neg : Bool) (c : Nat) : Nat := c + b2n neg * 2 ^ (f.w - 1)

/-- Whether OV = 0 writes a finite overflow as an infinity under rounding mode `rm` (R202). -/
def toInf (rm : Nat) (neg : Bool) : Bool :=
  match rm with
  | 0 | 5 => true
  | 2 => !neg
  | 3 => neg
  | _ => false

/-- A value written in a floating-point format (R200-R203). -/
def FloatFmt.encode (f : FloatFmt) (rm : Nat) (ov : Bool) (u : Nat) (v : Val) : Enc :=
  let special (neg : Bool) : Nat := match f.inf, f.nan with
    | some i, _ => f.signed neg i
    | none, some k => f.signed neg (if ov then f.top else k)
    | none, none => f.signed neg f.top
  match v with
  | .nan => ⟨f.nan.getD 0, false, false⟩
  | .inf neg => ⟨special neg, false, false⟩
  | .fin neg m e =>
    let c := f.code rm neg u m e
    if c ≤ f.top then ⟨f.signed neg c, false, false⟩
    else if !ov && toInf rm neg then ⟨special neg, true, false⟩
    else ⟨f.signed neg f.top, true, false⟩

/-- Greatest and least value of a two's-complement width. -/
def intMax (w : Nat) : Int := 2 ^ (w - 1) - 1
/-- Least value of a two's-complement width. -/
def intMin (w : Nat) : Int := -(2 ^ (w - 1))

/-- A value rounded onto the multiples of 2^q. -/
def roundInt (rm : Nat) (neg : Bool) (u m : Nat) (e q : Int) : Int :=
  let r : Int := roundTo rm neg u m e q 0
  if neg then -r else r

/-- A value held in a two's-complement range. -/
def clampInt (w : Nat) (x : Int) : Int := if x < intMin w then intMin w else if intMax w < x then intMax w else x

/-- A value written as an integer (R206). -/
def encodeInt (w rm u : Nat) (v : Val) : Enc :=
  match v with
  | .nan => ⟨0, false, true⟩
  | .inf neg => ⟨wrap (if neg then intMin w else intMax w) w, true, false⟩
  | .fin neg m e =>
    let x := roundInt rm neg u m e 0
    ⟨wrap (clampInt w x) w, decide (clampInt w x ≠ x), false⟩

/-- A value written in an element type outside a block. -/
def Elem.encode (t : Elem) (rm : Nat) (ov : Bool) (u : Nat) (v : Val) : Enc :=
  match t with
  | .fp f => f.encode rm ov u v
  | .int w => encodeInt w rm u v
  | .blk8 => encodeInt 8 rm u v

/-! ### Block scales (R199, R202) -/

/-- emax of an element type. -/
def Elem.emax : Elem → Int
  | .fp f => ((f.top / 2 ^ f.mb : Nat) : Int) - f.bias
  | _ => 0

/-- Largest finite element value as an integer and its weight exponent; of the INT8 element the positive one. -/
def Elem.maxVal : Elem → Nat × Int
  | .fp f => (f.top % 2 ^ f.mb + 2 ^ f.mb, ((f.top / 2 ^ f.mb : Nat) : Int) - f.bias - f.mb)
  | _ => (127, -6)

/-- Whether m · 2^e ≤ n · 2^g. -/
def leDy (m : Nat) (e : Int) (n : Nat) (g : Int) : Bool :=
  if g ≤ e then decide (m * 2 ^ (e - g).toNat ≤ n) else decide (m ≤ n * 2 ^ (g - e).toNat)

/-- Magnitude of a finite value; zero otherwise. -/
def Val.mag : Val → Nat × Int
  | .fin _ m e => (m, e)
  | _ => (0, 0)

/-- The greater of two magnitudes. -/
def maxDy (a b : Nat × Int) : Nat × Int := if leDy a.1 a.2 b.1 b.2 then b else a

/-- The largest magnitude among a block's finite values. -/
def amax (vs : List Val) : Nat × Int := vs.foldl (fun a v => maxDy a v.mag) (0, 0)

/-- The scale exponent before clamping; a block without a non-zero finite value has -127. -/
def scaleExp (t : Elem) (sr : Bool) (vs : List Val) : Int :=
  let a := amax vs
  if a.1 = 0 then -127
  else
    let s0 := topExp a.1 a.2 - t.emax
    if sr then
      let m := t.maxVal
      if leDy a.1 a.2 m.1 (m.2 + s0) then s0 else s0 + 1
    else s0

/-- One element of a block with scale exponent `s`, saturated at the largest finite value (R199). -/
def blockElem (t : Elem) (rm u : Nat) (s : Int) (v : Val) : Nat :=
  match t, v with
  | _, .nan => 0
  | .fp f, .inf neg => f.signed neg f.top
  | .fp f, .fin neg m e => f.signed neg (Nat.min (f.code rm neg u m (e - s)) f.top)
  | _, .inf neg => wrap (if neg then -128 else 127) 8
  | _, .fin neg m e => wrap (clampInt 8 (roundInt rm neg u m (e - s) (-6))) 8

/-- A block as it is written: its scale byte, its element codes and whether it sets ROVF (R199, R202). -/
def encodeBlock (t : Elem) (rm : Nat) (ov sr : Bool) (us : List Nat) (vs : List Val) : Nat × List Nat × Bool :=
  let s := scaleExp t sr vs
  let ovf := decide (127 < s)
  let nan := vs.any fun v => v == .nan
  let inf := vs.any fun v => match v with
    | .inf _ => true
    | _ => false
  if nan || (!ov && (ovf || inf)) then (255, vs.map fun _ => 0, ovf)
  else
    let s1 : Int := if ovf then 127 else if s < -127 then -127 else s
    ((s1 + 127).toNat, (vs.zip us).map fun vu => blockElem t rm vu.2 s1 vu.1, ovf)

/-! ### Exact arithmetic on values (R203-R205) -/

/-- A value with its sign reversed. -/
def Val.neg : Val → Val
  | .nan => .nan
  | .inf n => .inf (!n)
  | .fin n m e => .fin (!n) m e

/-- Whether a value is zero. -/
def Val.isZero : Val → Bool
  | .fin _ m _ => m == 0
  | _ => false

/-- The signed integer of a finite value in units of 2^q, for q at most its exponent. -/
def Val.units (q : Int) : Val → Int
  | .fin n m e => let x : Int := m * 2 ^ (e - q).toNat; if n then -x else x
  | _ => 0

/-- Exponent of a finite value. -/
def Val.exp : Val → Int
  | .fin _ _ e => e
  | _ => 0

/-- An exact sum with its invalid flag: a zero sum is −0 only if both terms are −0 (R204). -/
def Val.add (a b : Val) : Val × Bool :=
  match a, b with
  | .nan, _ | _, .nan => (.nan, false)
  | .inf x, .inf y => if x = y then (.inf x, false) else (.nan, true)
  | .inf x, _ => (.inf x, false)
  | _, .inf y => (.inf y, false)
  | .fin n m e, .fin k p g =>
    let q := if e ≤ g then e else g
    let x := Val.units q (.fin n m e) + Val.units q (.fin k p g)
    if x = 0 then (.fin (n && k && m == 0 && p == 0) 0 0, false) else (ofInt x q, false)

/-- An exact product with its invalid flag (R203). -/
def Val.mul (a b : Val) : Val × Bool :=
  match a, b with
  | .nan, _ | _, .nan => (.nan, false)
  | .inf x, .inf y => (.inf (x ^^ y), false)
  | .inf x, .fin k p _ => if p = 0 then (.nan, true) else (.inf (x ^^ k), false)
  | .fin n m _, .inf y => if m = 0 then (.nan, true) else (.inf (n ^^ y), false)
  | .fin n m e, .fin k p g => (.fin (n ^^ k) (m * p) (e + g), false)

/-- a × b + d, exact. A NaN operand gives NaN and is no invalid operation (R203). -/
def Val.fma (a b d : Val) : Val × Bool :=
  if a = .nan ∨ b = .nan ∨ d = .nan then (.nan, false)
  else
    let p := a.mul b
    if p.2 then p else p.1.add d

/-- The place of a value in the order of R205: −∞ < negative < −0 < +0 < positive < +∞. -/
def Val.lt (a b : Val) : Bool :=
  match a, b with
  | .nan, _ | _, .nan => false
  | .inf x, .inf y => x && !y
  | .inf x, _ => x
  | _, .inf y => !y
  | .fin n m e, .fin k p g =>
    let q := if e ≤ g then e else g
    let x := Val.units q (.fin n m e)
    let y := Val.units q (.fin k p g)
    decide (x < y) || (decide (x = y) && decide (x = 0) && n && !k)

/-- Whether a value is an infinity or NaN. -/
def Val.special : Val → Bool
  | .fin .. => false
  | _ => true

/-! ### The SR hash (R211) -/

/-- One round. -/
def srRound (k : BitVec 32) (ab : BitVec 32 × BitVec 32) : BitVec 32 × BitVec 32 :=
  let a := ab.1 + (ab.2.rotateLeft 5 ^^^ k)
  (a, ab.2 ^^^ a.rotateLeft 13)

/-- sr_hash(seed, step, tensor, index). -/
def srHash (seed step : Word) (tensor : BitVec 32) (index : Word) : BitVec 32 :=
  let k0 := seed.setWidth 32 ^^^ tensor
  let k1 := (seed >>> 32).setWidth 32 ^^^ step.setWidth 32
  let r := srRound (k1 ^^^ 0x9E3779B9) (srRound (k0 ^^^ 0x9E3779B9) (srRound k1 (srRound k0
    (index.setWidth 32, (index >>> 32).setWidth 32))))
  r.1 + r.2

end Sys2Proof.Machine
end

