-- ==== Sys2Proof/Config.lean ====
section
/-! DEFINITION. What an implementation fixes and the spec leaves open: constants without a body, so that no proof
can see a value of theirs, and the few figures that the spec does give as constants. -/
namespace Sys2Proof.Config

/-- FREE VALUE: what a read of a byte that nothing has written returns (08 R261): for the `n`-th such read, at
address `a`. -/
opaque freeByte : Nat → Nat → Byte
/-- FREE VALUE: the session taken from the hardware random source after a Full reset (11 R355). -/
opaque freeSession : Nat → Nat
/-- FREE VALUE: whether the filter takes a RESET_N pulse between 200 ns and 1 µs (17 R511). -/
opaque pulseTaken : Nat → Bool
/-- FREE VALUE: whether the meter's check of its constants and of its converter succeeds at its `n`-th start (16 R488); a
reading's own check is an operand of the command that closes the interval. -/
opaque meterSound : Nat → Bool
/-- FREE VALUE: the meter's ECDSA P-384 signature over a reading's bytes 0-127 (16 R493); the key is the meter's own. -/
opaque meterSignature : List Byte → List Byte
/-- FREE VALUE: word `w` of the meter's public key (16 R497). -/
opaque meterPubKey : Nat → Word
/-- FREE VALUE: always-on time in µs since the end of phase 2 (20 R594), for the `n`-th event; the model has no clock. -/
opaque freeTime : Nat → Nat
/-- FREE VALUE: m ÷ e of 15 R477 where the estimate e is zero, for the `n`-th such update. -/
opaque freeRatio : Nat → Rat
/-- FREE VALUE: the measurement of the boot ROM (19 R572 block 1). -/
opaque romDigest : BitVec 384
/-- FREE VALUE: the content of training records, byte `i` (18 R540: a Dolrel-internal format). -/
opaque trainingByte : Nat → Byte

/-- FREE VALUE: DETAIL of a descriptor-invalid fault whose handle is unbound, so that no index exists (05 R153,
03 R110), for the `n`-th event. -/
opaque freeDetail : Nat → Nat

/-- FREE VALUE: what the comparison of a persistent side on another node finds (14 R452): the global index of the lowest element
that differs, if any; for the `n`-th such question. No message of version 1 carries the answer. -/
opaque freeDiff : Nat → Option Nat

/-- FREE VALUE: what the spec does not state of a register read (the rotation of a die without spares, the place of a tile
that nothing backs, the last digit of a rounded figure, 14 R457, 15 R481, R484, 18 R552): for the `n`-th value taken, in
the register at address `a`. -/
opaque freeField : Nat → Nat → Nat

/-- FREE VALUE: by which sub-port, 0 to 31, or the copper port, 32, of the values mod 33, an event reaches the host with this address
(19 R559 names none). -/
opaque hostPort : Nat → Nat
/-- FREE VALUE: the opcode-specific detail of a RESPONSE (19 R564), by OPCODE, STATUS and SEQ. -/
opaque responseDetail : Nat → Nat → Nat → Nat
/-- FREE VALUE: the payload bytes of an SPDM response of a code (19 R571: the format is SPDM's own). -/
opaque spdmBytes : Nat → Nat

/-- FREE VALUE: whether the boot ROM passes its integrity check in the `n`-th bring-up (19 R580 kind 3). -/
opaque romSound : Nat → Bool
/-- FREE VALUE: whether the key derivation engine passes its self-test in the `n`-th bring-up (19 R580 kind 4). -/
opaque kdfSound : Nat → Bool
/-- FREE VALUE: an ECDSA P-384 signature under a private scalar; the signer's nonce is its own (19 R574). -/
opaque signatureBy : Nat → List Byte → List Byte
/-- FREE VALUE: Dolrel's root certificate, which begins the slot-0 chain (19 R574). -/
opaque rootCert : List Byte
/-- FREE VALUE: the certificate that Dolrel issued for a device identity key, naming a serial number (19 R573). -/
opaque deviceCert : List Byte → Nat → List Byte
/-- FREE VALUE: what an alias certificate says, before its signature, of a public key and measurement blocks 1 to 5 (19 R574: the
format is that of certificates). -/
opaque aliasBody : List Byte → List (BitVec 384) → List Byte
/-- FREE VALUE: certificates, as SPDM puts them into a chain (19 R571: the format is SPDM's own). -/
opaque spdmChain : List (List Byte) → List Byte
/-- FREE VALUE: the age in ms of the meter's interval when a job tag arrives, for the `n`-th one (16 R491); the model has no clock. -/
opaque tagAge : Nat → Nat
/-- FREE VALUE: what the meter measured of the interval that the `n`-th job tag or the `n`-th entry into test mode closes: main and
auxiliary energy in mJ (16 R490). -/
opaque cutMain : Nat → Nat
/-- FREE VALUE: the auxiliary energy of that interval in mJ. -/
opaque cutAux : Nat → Nat
/-- FREE VALUE: whether a measurement left its range in that interval (16 R492). -/
opaque cutRange : Nat → Bool
/-- FREE VALUE: whether the meter's check succeeds at its end (16 R488). -/
opaque cutSound : Nat → Bool

/-- FREE VALUE: the sixteen check bits of a data word; the code's generator is Dolrel's own (10 R302). -/
opaque checkBits : Word → BitVec 16
/-- FREE VALUE: the fixed pattern that marks a word as poisoned (10 R305). -/
opaque poisonBits : BitVec 16

/-- Bytes of the configuration store (19 R566). -/
def storeBytes : Nat := 2 ^ 28
/-- Logical tiles per die (18 R550). -/
def ltPerDie : Nat := 1152
/-- Logical tiles of the module (01, 03). -/
def ltCount : Nat := 2304
/-- Physical tiles per die: 32 columns by 38 rows (02). -/
def physPerDie : Nat := 1216
/-- Bytes of one tile's SRAM (02 R57). -/
def sramBytes : Nat := 0x80000
/-- First device address of the tile SRAM region (02 R57). -/
def sramBase : Nat := 0x020000000000
/-- First address above the usable GDDR7 range (02 R57). -/
def gddrEnd : Nat := 0x002580000000
/-- First device address of the CXL tier (02 R57). -/
def cxlBase : Nat := 0x100000000000
/-- First address above the CXL-tier window. -/
def cxlEnd : Nat := 0x200000000000
/-- First address of the register region (02 R57). -/
def regBase : Nat := 0x030000000000
/-- First address above the register region. -/
def regEnd : Nat := 0x030100000000
/-- First address of the TLC block (03). -/
def tlcBase : Nat := 0x030010000000
/-- The modulus of every residue (12 R390, 14 R430). -/
def p61 : Nat := 2 ^ 61 - 1

end Sys2Proof.Config
end

