-- ==== Sys2Proof/Machine/State.lean ====
section
/-! DEFINITION. The state of one QJ1 module as plain data, why a command can stop, and the state right after reset.
`Node` is what the compute dies and X hold; `Chip` is what the always-on domain and the meter hold. -/
namespace Sys2Proof.Machine

/-! ### Tiles -/

/-- What a thread waits on (03 R83, R109). -/
inductive Wait
  | idle | ready
  | tokens (ctr n : Nat)
  | load            -- a scalar load (R127)
  | stores          -- MFENCE (R129)
  | bound           -- an in-flight bound (09 R300) or a free stream context (R277)
  | reg             -- a register or matrix-queue place that an earlier instruction must give (R83, 05 R154, R159)
  | check           -- a held readout's check (14 R434)
  | felt (f : Nat)
  | admission (phase : Nat)
  | outcome
  | halted | exited
  | barrier (id : Nat)
  deriving DecidableEq, Repr

/-- A scalar load that has issued (04 R124, R127). -/
structure Load where
  rd     : Nat
  addr   : Nat
  size   : Nat
  signed : Bool
  deriving DecidableEq, Repr

/-- One hardware thread (03 R86). Unlisted scalar and vector registers are zero, predicates false, counters zero,
handles unbound. -/
structure Thread where
  hasCode : Bool
  entry   : Nat
  pc      : Nat
  wait    : Wait
  s       : Map Word
  p       : Map Bool
  v       : Map VReg
  a       : Map Nat
  k       : Map Nat
  mark    : Option Nat       -- last phase marked in this step (R97)
  vote    : Bool             -- voted non-finite in this step (04 R142)
  exited  : Bool             -- issued EXIT, not STEND, in this step (04 R143)
  load    : Option Load
  stores  : List Nat         -- addresses of stores issued and not complete, oldest first (04 R129)
  vbusy   : List Nat         -- vector registers a TOPK has yet to write (05 R181)
  deriving DecidableEq, Repr

/-- Zero state of a cell (07 R232). -/
inductive ZeroSt
  | empty | neg | other
  deriving DecidableEq, Repr

/-- A Felt cell (07 R215, R220, R228): the exact value in units of 2^-298, the side-state bits in the order of R171
byte 80, the zero state, and whether it is widened or at which byte offset its window lies. -/
structure FCell where
  val  : Int
  side : Nat
  zst  : ZeroSt
  wide : Bool
  off  : Nat
  deriving DecidableEq, Repr

/-- An invalid-operation record: global (k, i, j) (07 R230). -/
structure InvRec where
  k : Nat
  i : Nat
  j : Nat
  deriving DecidableEq, Repr

/-- One Felt array. `alloc` is what an issuing instruction finds; `held` stays set after an FFREE until earlier
instructions naming the array retire (05 R158). Cells are listed by 32·i + j; `e` holds Ermine's expected column
residues (14 R431); `tampered` marks a debug write (R433) and `turned` an operand of the reversed or transposed
class since the last clear (R438). -/
structure Felt where
  alloc    : Bool
  held     : Bool
  strict   : Bool
  cells    : Map FCell
  f32      : Map (BitVec 32)
  inv      : Option InvRec
  sat      : Bool
  e        : Map Nat
  tampered : Bool
  turned   : Bool
  deriving DecidableEq, Repr

/-- An instruction of the matrix queue, with the handle bindings and register values it issued with (05 R154),
and the debug accesses that are ordered with them (04 R149, 07 R244). -/
inductive MOp
  | mma (neg : Bool) (a b : Option Nat) (rk rij : Word)
  | fssq (b : Option Nat) (rk rij : Word)
  | fsumr
  | fldx (off : Nat)
  | frdx (off : Nat) (clr : Bool)
  | frd (d : Option Nat) (rm : Nat) (ov sr clr : Bool) (rij : Word)
  | ffree
  | dbgrd (rd i j chunk : Nat)
  | dbgwr (v : Word) (i j chunk : Nat)
  | fdbg (cell chunk : Nat) (wr : Bool)
  deriving DecidableEq, Repr

/-- A matrix-queue entry; `id` is its place in the tile's issue order. -/
structure MEntry where
  op  : MOp
  f   : Nat
  thr : Nat
  pc  : Nat
  id  : Nat
  deriving DecidableEq, Repr

/-- A readout that Ermine has yet to check (14 R432): `bad` is the lowest column whose residue differed. -/
structure Check where
  f      : Nat
  thr    : Nat
  pc     : Nat
  bad    : Option Nat
  turned : Bool
  deriving DecidableEq, Repr

/-- A TOPK in the top-k unit (05 R181). -/
structure TopkOp where
  thr  : Nat
  pc   : Nat
  vd   : Nat
  desc : Option Nat
  k    : Nat
  dir  : Bool
  deriving DecidableEq, Repr

/-- A Voile operation from issue to retirement (05 R184, 09 R300). `node` is none for the issuing node. -/
structure VoileOp where
  put   : Bool
  local_ : Nat
  len   : Nat
  addr  : Nat
  node  : Option Nat
  thr   : Nat
  ctr   : Nat
  epoch : Nat
  by_   : Nat
  pc    : Nat
  id    : Nat
  data  : List Byte
  poison : Bool               -- the bytes were read with an uncorrectable error (10 R305)
  arrived : Bool              -- its write is held for the destination's next epoch (09 R282)
  deriving DecidableEq, Repr

/-- TLC_FAULT and TLC_FAULT_ADDR (03 R110, R111). -/
structure FaultRec where
  valid  : Bool
  more   : Bool
  cls    : Nat
  thr    : Nat
  pc     : Nat
  detail : BitVec 32
  addr   : Nat
  deriving DecidableEq, Repr

/-- A communication-schedule entry (03 R71). -/
structure Comm where
  kind     : Nat
  thr      : Nat
  ctr      : Nat
  peerLt   : Nat
  loc      : Bool
  peerNode : Nat
  mc       : Bool
  idx      : Nat
  perStep  : Nat
  deriving DecidableEq, Repr

/-- A phase-table entry (15 R468). -/
structure PhaseEnt where
  phase  : Nat
  energy : Nat
  cycles : Nat
  deriving DecidableEq, Repr

/-- A tile-local barrier that has not completed (04 R139). -/
structure Barrier where
  mask    : Nat
  arrived : List Nat
  deriving DecidableEq, Repr

/-- A fault, or a RETRACT, seen in the current step (03 R105, 04 R146): in how many of its attempts. -/
structure Recur where
  retract : Bool
  cls     : Nat
  thr     : Nat
  pc      : Nat
  times   : Nat
  epoch   : Nat           -- epoch of the latest such attempt
  deriving DecidableEq, Repr

/-- One logical tile, or the shadow of one (14 R442). -/
structure Tile where
  -- what the slice loads (03 R64, R70)
  used      : Bool
  imem      : Map Word            -- an unlisted word is all ones (R66)
  descs     : Map (List Word)     -- the descriptor store (09 R270)
  bind      : Map Nat             -- step-entry binding 8·t + h (R87)
  comm      : List Comm
  phases    : List PhaseEnt
  allow     : Nat × Nat           -- entry allowance: ENERGY, CYCLES
  shadowOk  : Bool                -- CHECK header bit SHADOW (R72)
  heldReads : List (Nat × Nat)    -- held readouts: thread, pc
  -- threads and units
  thr       : Map Thread
  felt      : Map Felt
  queue     : List MEntry
  topk      : List TopkOp
  checks    : List Check
  voile     : Map VoileOp         -- by slot 0-15
  bars      : Map Barrier
  rr        : Nat                 -- where the search for a ready thread begins (R81)
  opSeq     : Nat                 -- issue order of long-running operations
  -- memory
  sram      : Map Byte
  bad       : List Nat            -- words that the decoder reports uncorrectable, by word index (10 R302, R305)
  soft      : Map Bool            -- words with one bit (false) or two bits (true) in error
  ibad      : List Nat            -- the same of the instruction store, by pc
  isoft     : Map Bool
  dbad      : List Nat            -- the same of the descriptor store, by 32 × index + word
  dsoft     : Map Bool
  -- the attempt (03 R98-R105)
  epoch     : Nat
  tainted   : Bool
  taintNext : Bool                -- a RETRACT token of the next epoch is held (14 R437)
  verdict   : Option Nat          -- sent: 0 clean, 1 tainted
  nf        : Bool
  recur     : List Recur
  fences    : Nat                 -- physical tiles fenced under this logical tile in the step (14 R438)
  restart   : Bool                -- an outcome waits for streams and Voile to clear before restart (09 R281)
  parked    : Bool                -- reset: threads idle until the next outcome (17 R508)
  inRst     : Bool                -- a Tile reset holds it: arrivals wait (17 R508)
  sameIv    : Bool                -- a further fault is of the same interval as the record (03 R110)
  heldAt    : Option Nat          -- the physical tile fenced under it in this attempt, on which it still counts (02 R54)
  digest    : Nat                 -- output digest of the step (14 R443)
  -- TLC registers
  hold      : Bool
  dbgEn     : Bool
  force     : Bool
  flags     : BitVec 6
  fault     : FaultRec
  hsk       : Word
  issued    : Word
  deriving DecidableEq, Repr

/-! ### Streams, tokens -/

/-- One element write of a stream: bit address, width, value, and whether it carries poison (10 R305). -/
structure EWrite where
  bit    : Nat
  w      : Nat
  v      : Nat
  poison : Bool
  deriving DecidableEq, Repr

/-- An arming (09 R277): offset along dimension 4, epoch and count parity at issue, and who issued it. -/
structure Arm where
  off   : Int
  epoch : Nat
  par   : Nat
  thr   : Nat
  pc    : Nat
  id    : Nat
  deriving DecidableEq, Repr

/-- A live stream context (09 R275, R276). States: 1 QUEUED, 2 ACTIVE, 3 DRAINING, 4 ERROR. `acked` lists, per
remote node that side 1 is written on, the DATA bytes it has acknowledged; `todo` the nodes whose DONE is missing. -/
structure Ctx where
  lt      : Nat
  idx     : Nat
  gen     : Nat
  state   : Nat
  arm     : Arm
  shadow  : Option Arm
  writes  : List EWrite
  cells   : List (Nat × FCell)
  sent    : Nat
  pieces  : List (Nat × Msg)  -- messages of a remote side 1 in order, each with the bytes sent up to its end
  acked   : Map Nat
  asked   : List Nat          -- nodes that have been sent DONE_REQ
  todo    : List Nat
  here    : Bool              -- writes of this node's own copy have yet to land
  dest    : List Nat          -- the other nodes on which side 1 is written
  fails   : Bool              -- the beat after the last piece was read uncorrectable: ERROR once every piece has gone out
  dead    : Bool              -- belongs to an abandoned attempt: completes without a token (09 R281)
  strag   : Bool
  own     : Bool            -- counts against the writes bound: side 0 in the arming tile's SRAM, or a fill (09 R300)
  deriving DecidableEq, Repr

/-- A token on its way (03 R89-R93). It may arrive once no readout, Voile put or store of its sender with a place
in the issue order below `after` is outstanding. -/
structure Flight where
  lt    : Nat
  thr   : Nat
  ctr   : Nat
  count : Nat
  epoch : Nat
  node  : Option Nat
  by_   : Option (Nat × Nat)
  after : Nat
  deriving DecidableEq, Repr

/-! ### Network -/

/-- What a frame that the module sends carries around its Weavo message (11 R332, R336): the sub-port, the tag, the DSCP,
whether it is marked ECT(0), the UDP ports, the link header on a direct port, and the Weavo header with the residue. -/
structure Packet where
  port   : Nat
  sub    : Nat
  vlan   : Nat
  pcp    : Nat
  dscp   : Nat
  ect    : Bool
  ip     : Nat                    -- source address
  sport  : Nat
  dport  : Nat
  link   : Option LinkHdr
  header : List Byte
  deriving DecidableEq, Repr

/-- A message kept until an ACK covers it (11 R349). -/
structure OutMsg where
  dst   : Nat
  vc    : Nat
  seq   : Nat
  ctx   : Nat
  mc    : Bool
  res   : Option Nat
  msg   : Msg
  jobtag : Nat              -- of the job that it was sent for (11 R336)
  tries : Nat
  deriving DecidableEq, Repr

/-- What the node keeps for a peer (11 R340-R355). -/
structure Peer where
  session  : Option Nat
  reqSeen  : List Nat        -- routes that carried a request in
  repSeen  : List Nat        -- routes that carried a reply in
  usable   : List Nat
  sendSeq  : Map Nat
  limit    : Map Nat
  nextAcc  : Map Nat
  granted  : Map Nat
  unacked  : List OutMsg
  waiting  : List OutMsg     -- no credit yet
  early    : List (Header × Msg)
  ackDue   : List Nat
  eceDue   : List Nat
  rate     : Rat             -- share of the port rate (R333)
  cut      : Bool            -- an ECE cut the rate in the present 50 µs
  unreach  : Bool
  deriving DecidableEq, Repr

/-- An event record (20 R594). -/
structure Evt where
  code   : Nat
  lt     : Nat
  node   : Nat
  detail : Word
  time   : Nat
  seq    : Nat
  deriving DecidableEq, Repr

/-- What the module has sent, oldest first: the model's own record of what the outside sees. A message to a host has no packet
where I3C carries it. -/
inductive Out
  | msg (m : OutMsg) (retx : Bool) (f : Packet)
  | ack (peer vc ackseq grant : Nat) (ece : Bool) (f : Packet)
  | launchAck (host ctx bytes : Nat) (f : Option Packet)
  | nak (peer vc nseq code detail : Nat) (f : Packet)
  | hostNak (host ctx code : Nat) (f : Option Packet)
  | hello (peer route : Nat) (b : HelloBody) (room : HelloRoom) (f : Packet)
  | link (port sub : Nat) (l : LinkHdr)
  | resend (port sub fromSeq : Nat)
  | pfc (port sub prio : Nat) (pause : Bool)
  | arp (port sub ip mac : Nat)
  | neighbour (port sub ip mac : Nat)
  | response (path : MPath) (host ctx version opcode status seq detail : Nat) (f : Option Packet)
  | readData (path : MPath) (host ctx : Nat) (words : List Word) (f : Option Packet)
  | event (host : Nat) (e : Evt) (f : Packet)
  | spdm (a : Asker) (kind : Nat) (content : List (BitVec 384)) (signed : Bool) (f : Option Packet)
  | mctp (kind : Nat) (content : List Nat)
  | meterWord (w : Word)
  | regWord (addr : Nat) (w : Word)     -- what a read of one register by itself returned
  | serial (peer route : Nat)
  deriving DecidableEq, Repr

/-- An Ethernet sub-port (11 R329-R334, R347, R348). -/
structure Sub where
  up       : Bool
  lanes    : Nat
  first    : Nat                  -- lowest lane in use, within the sub-port
  trained  : Nat                  -- lanes that trained, bit i for lane i of the sub-port
  fenced   : Bool
  lseq     : Nat
  expect   : Nat
  lackOut  : Nat
  replay   : List (Nat × Out)     -- frames with their LSEQ that no LACK has freed
  waitOut  : List (Nat × Out)     -- frames that wait for room there or for their priority, each with its channel (11 R334, R348)
  resends  : Nat
  rreqDue  : Bool
  paused   : List Nat             -- priorities that the partner has paused
  pausing  : List Nat             -- priorities that this module has paused
  turn     : Nat                  -- deficit round robin: the channel served (R342)
  deficit  : Map Nat              -- and what each has left of its quanta, in bytes
  discards : Nat
  resetting : Bool
  deriving DecidableEq, Repr

/-! ### Reduction -/

/-- A reduction-table entry (12 R368) with its member list. -/
structure RedEnt where
  kind    : Nat
  direct  : Bool
  transit : Nat
  nfmt    : Nat
  thin    : Nat
  notok   : Bool
  tokLt   : Nat
  tokThr  : Nat
  tokCtr  : Nat
  fills   : Nat
  nblk    : Nat
  members : List Nat
  localB  : Nat
  residB  : Nat
  predB   : Nat
  thinB   : Nat
  deriving DecidableEq, Repr

/-- A reduction context (12 R373-R397). Blocks are named by their index in the bucket. -/
structure RedCtx where
  filled   : Nat
  started  : Bool
  folded   : Bool
  preIn    : List (Nat × Nat × List (BitVec 16))     -- PRE entries held: member index, first block, entries
  gridIn   : List (Nat × List (BitVec 16))           -- GRID entries held: first block, entries
  preSent  : Bool
  combined : Bool                                    -- this owner has combined the entries of its shard
  entries  : Map (BitVec 16)                         -- the pre-pass or predicted entry in force, per block
  inForm   : Map (Nat × Bool)                        -- form rank and ESC of the block received
  inNf     : Map Nat                                 -- combined SIDE of NF blocks received
  got      : Map Nat                                 -- contributions added, per block
  sent     : List Nat                                -- blocks sent on
  acked    : List Nat                                -- blocks whose PART an ACK covers
  done     : List Nat                                -- blocks complete at this owner
  repSent  : Bool
  repIn    : List (Nat × Nat)                        -- REPORT entries written: first block, count
  complete : Bool
  esc      : Nat
  pvalid   : Bool
  pnext    : Bool                                    -- completed in predicted or pre-pass mode in this attempt
  sat      : Bool
  resfail  : Bool
  nf       : Bool
  hurt     : Bool                                    -- a word that its engine read was uncorrectable: it sends no more (10 R321)
  deriving DecidableEq, Repr

/-! ### Job and commit -/

/-- The loaded job (03 R65, R76-R80). -/
structure Job where
  loaded    : Bool
  id        : Nat
  node      : Nat
  nnodes    : Nat
  highLt    : Nat
  planHash  : BitVec 384
  seed      : Word
  started   : Bool
  held      : Bool
  holdNext  : Bool
  fresh     : Bool           -- a LAUNCH set the count since the last outcome (13 R419)
  replay    : Bool           -- this LAUNCH is a replay (14 R452)
  mcast     : Map (List Nat)
  mirror    : List (Nat × Nat × Nat × Nat)           -- BASE0, BASE1, LEN, MOFF
  release   : List (Nat × Nat × Nat)                 -- LT, THR, CTR
  recorder  : List (Nat × Nat)                       -- LT, descriptor index
  red       : Map RedEnt
  deriving DecidableEq, Repr

/-- The three counts of a commit record (13 R409). -/
structure Counts where
  step   : Word
  skips  : Word
  cursor : Word
  deriving DecidableEq, Repr

/-- The commit unit (13 R404-R424). -/
structure Commit where
  now       : Counts          -- TSH_JOB_STEP, TSH_JOB_SKIPS, TSH_JOB_CURSOR
  cur       : Counts          -- current commit record (backup registers 2-4)
  prev      : Counts          -- previous commit record (5-7)
  recJob    : Nat             -- job identity of both records (8)
  epoch     : Nat
  running   : Bool            -- an attempt runs
  tainted   : Bool            -- module-level taint of this attempt, or of the next
  abort     : Bool            -- the management plane requests Abort
  sent      : Option (Nat × Bool)                    -- module verdict of the attempt: code, NF
  fwd       : Option (Nat × Bool)                    -- sent to the parent, or decided at the root
  kids      : Map (Nat × Bool)
  last      : Nat
  pwritten  : Bool
  sealed    : Bool
  kidsReady : List Nat
  readySent : Bool
  released  : Bool
  ended     : Bool            -- every thread of every used tile exited in this execution (04 R143)
  deriving DecidableEq, Repr

/-- Gingham (13 R415-R426). -/
structure Gng where
  cfg    : Word
  inbase : Word
  slot   : Nat
  state  : Nat
  fresh  : List Nat           -- inbound slots whose seal record the present mirror has cleared
  deriving DecidableEq, Repr

/-! ### Checks and recording -/

/-- A physical tile (14 R438-R445, 18 R540): state 0 healthy, 1 defective and fused, 2 defective and recorded only
in the retained map. -/
structure Phys where
  state   : Nat
  damask  : Bool
  chk     : Nat
  turned  : Bool             -- every check failure counted had a turned array (R438)
  mism    : Nat
  deriving DecidableEq, Repr

/-- Maps, checks and shadowing. `lmap` lists the logical tiles whose physical index differs from the factory map. -/
structure Guard where
  lmap     : Map Nat
  backed0  : Nat
  backed1  : Nat
  phys     : Map Phys         -- by die × 1216 + column × 38 + row
  ptr0     : Nat
  ptr1     : Nat
  shadows  : List (Nat × Nat) -- logical tile, physical spare, of this attempt
  matched  : List Nat         -- shadowed tiles whose comparison of the attempt matched
  keep     : List (Nat × Nat) -- assignments to use again after a mismatch (R445)
  tx       : Map Nat          -- t_x (R447)
  wmark    : Nat
  late     : Nat
  kept     : Option Word      -- ERM_SHADOW as it stood at a Warm reset, until phase 4 makes the maps again (R457)
  chkCfg   : Word
  chkEvt   : Word
  deriving DecidableEq, Repr

/-- An input digest of the attempt (14 R449, R450). -/
structure InDig where
  lt    : Nat
  idx   : Nat
  gen   : Nat
  len   : Nat
  dig   : BitVec 384
  deriving DecidableEq, Repr

/-- Where the capture ring holds the hashed bytes of an arming (14 R451): the committed step count, the descriptor, the
place of the arming among those of its descriptor in the attempt, and the bytes' address and length (the spec gives the
ring no layout). -/
structure Capture where
  step  : Nat
  lt    : Nat
  idx   : Nat
  nth   : Nat
  addr  : Nat
  len   : Nat
  att   : Nat
  deriving DecidableEq, Repr

/-- What the record of an attempt holds (14 R450), kept from the outcome until the record is written. -/
structure Due where
  outcome  : Nat
  captured : Bool
  job      : Nat
  counts   : Counts
  seed     : Word
  wmark    : Nat
  node     : Nat
  epoch    : Nat
  plan     : BitVec 384
  inputs   : List InDig
  events   : List (Nat × Nat × Word × Word)
  deriving DecidableEq, Repr

/-- Tapestry (14 R449-R461). -/
structure Tps where
  cfg      : Word
  recBase  : Word
  capBase  : Word
  stat     : Word
  ctl      : Word
  resReg   : Word
  idx      : Word
  inputs   : List InDig
  armed    : Map Nat                                 -- armings granted in the attempt, by 256 × tile key + descriptor (14 R453)
  events   : List (Nat × Nat × Word × Word)          -- kind, LT, detail, second detail
  captured : Bool
  capPos   : Nat
  capAtt   : Nat                                     -- attempts since captures began
  dir      : List Capture                            -- oldest first
  due      : List Due                                -- records still to be written
  diff     : Option (Nat × Nat)                      -- replay: lowest differing (tensor, global index)
  deriving DecidableEq, Repr

/-! ### Governor -/

/-- A phase request, or an entry allowance when `phase` is none (15 R469, R470). -/
structure Req where
  g        : Nat
  phase    : Option Nat
  admitted : Bool
  v        : Nat
  deriving DecidableEq, Repr

/-- A tile group (15 R464-R484). -/
structure Tg where
  vset     : Nat
  target   : Nat
  powered  : Bool
  gated    : Bool
  tempA    : Nat
  tempB    : Nat
  throttle : Bool
  power    : Nat              -- measured, units of 0.1 W
  alpha    : Rat
  deriving DecidableEq, Repr

/-- The governor's moving state. -/
structure Gov where
  tgs    : Map Tg
  reqs   : List Req
  xtemps : Map Nat
  xhot   : Bool
  u      : Rat                -- U of R471, W
  samples : List Rat          -- what U averages (15 R471), W: by tap update of the last 1 ms, newest first
  dpower : Map Nat            -- last reported power of each domain, units of 0.1 W (R463)
  deriving DecidableEq, Repr

/-! ### The shared fetch cache -/

/-- A line of the shared fetch cache (09 R292): 256 bytes of GDDR7. Its bytes are those of GDDR7 (R294); `soft` and `bad`
name words (0-31) whose codeword in the cache is not sound (R295). -/
structure CLine where
  tag  : Nat
  soft : Map Bool
  bad  : List Nat
  deriving DecidableEq, Repr

/-- A set of the cache: its lines by way, and the fifteen bits of its pseudo-LRU tree. -/
structure CSet where
  ways : Map CLine
  plru : Nat
  deriving DecidableEq, Repr

/-! ### Memory tiers -/

/-- Decoder 0 of an expander (10 R314). -/
structure Hdm where
  base        : Nat
  size        : Nat
  ways        : Nat
  granularity : Nat
  position    : Nat
  locked      : Bool
  deriving DecidableEq, Repr

/-- GDDR7 and the CXL tier (10): bytes by device address, words whose codeword is not sound by address / 8, and the tier
registers. -/
structure Mems where
  data     : Map Byte
  zero     : List (Nat × Nat) -- ranges (first address, length) that the QJ1 zeroed: an unlisted byte there reads zero
  bad      : List Nat         -- words that the decoder reports uncorrectable (R302, R305)
  soft     : Map Bool         -- words with one bit (false) or two bits (true) in error
  rx       : List Nat         -- words of the CXL tier whose response carries CXL poison (R313, R317)
  hdm      : Map Hdm          -- decoder 0 of each member's expander, by link (R314)
  gScrub   : Word
  cScrub   : Word
  gLink    : Word
  cLink    : Word
  gLast    : Word
  cLast    : Word
  link     : Map Word         -- CXM_LINK(l)
  cxmCfg   : Word
  linkUp   : List Nat         -- CXL links up
  stalled  : List Nat         -- CXL links down whose requests stall
  wbq      : Map (List Nat)   -- write-back queues: GDDR7 channel, or 128 + link; line addresses
  gPos     : Nat              -- scrubber positions: line numbers
  cPos     : Nat
  filled   : Option (List Nat) -- CXL regions initialised, when the map is in force (18 R534)
  ue       : Word             -- ERM_MEM_UE
  deriving DecidableEq, Repr

/-! ### The node -/

/-- A LAUNCH assembly (11 R352): its job tag, its bytes, and where the LAST fragment ended. -/
structure Asm where
  tag   : Nat
  bytes : Map Byte
  stop  : Option Nat
  deriving DecidableEq, Repr

/-- What waits for the exit to Active (15 R479): a complete LAUNCH assembly of a host, or a START; and the verdicts and outcomes that come behind a START that waits (11 R340). -/
inductive Later
  | launch (h : Header)
  | start (src count epoch : Nat)
  | verdict (src epoch v : Nat) (nf : Bool)
  | outcome (src epoch o : Nat)
  deriving DecidableEq, Repr

/-- Everything the compute dies, X and its engines hold. -/
structure Node where
  on       : Bool             -- out of reset, with management served and the network up
  free     : Nat              -- MODEL: how many free values have been taken
  cfg      : Option BaseCfg
  tiles    : Map Tile
  ctxs     : Map Ctx
  fills    : Map Nat          -- completed armings of group fills in the step, by 256·tile + index (08 R258)
  flight   : List Flight
  held     : List (Header × Msg)
  strStat  : BitVec 3         -- OVERRUN, STALE, CACHE_UE (09 R301)
  overruns : List Nat         -- contexts whose OVERRUN bit is set (09 R276)
  split    : Word             -- STR_SPLIT
  mems     : Mems
  fcache   : Map CSet         -- the shared fetch cache, by 512 × slice + set (09 R292)
  fcAlt    : Map Byte         -- bytes that the cache holds otherwise than GDDR7, since the code took a changed word of one of them for another (10 R302)
  fcLog    : Nat              -- errors of one and two bits corrected in the cache's words (09 R295)
  wire     : Map Flaw         -- what befalls the word that next travels to word number a / 8 (14 R427)
  peers    : Map Peer
  subs     : Map Sub
  ports    : Map Nat          -- REPLAYS of TSH_PORT(p)
  told     : List (Nat × HelloBody)  -- what the last HELLO said, by sub-port (port × 4 + sub) and node
  bycode   : Nat              -- frames discarded
  session  : Nat
  serial   : Word             -- the module's serial number, as HELLO gives it (11 R353)
  tshCfg   : Word
  timers   : Word
  peerEvt  : Word
  redCfg   : Word
  redEvt   : Word
  red      : Map RedCtx
  job      : Job
  commit   : Commit
  gng      : Gng
  guard    : Guard
  tps      : Tps
  gov      : Gov
  fdbgCtl  : Word
  fdbgData : Word
  fdbgAt   : Option (Nat × Bool) -- an access that took no place in a queue at GO: its tile, and whether its selection is bad
  ermLog   : Word
  asm      : Map Asm          -- LAUNCH assemblies, by host address (11 R352)
  asleep   : Bool             -- the module is not in Active, so that no job work starts (15 R479)
  later    : List Later
  events   : Map Evt
  evHead   : Nat
  evSeq    : Nat
  out      : List Out
  assert   : List (Nat × Nat) -- reset sources asked for, with their targets, applied by the step that asked
  jobTag   : Option Nat       -- job tag to pass to the meter (16 R491)
  retUps   : List (Nat × Flaw) -- MODEL: what silicon did to words of the retained memory (17 R518)
  govEvt   : List Word        -- HWK_EVT records to write
  therm    : Bool             -- thermal trip asked for
  retain   : Bool             -- the retained map must be written (18 R538)
  shift    : Nat              -- MODEL: which tile the sequencer turns to next on an empty queue
  deriving DecidableEq, Repr

/-! ### The always-on domain and the meter -/

/-- A slot of the configuration store (19 R566). -/
structure Slot where
  bytes  : Map Byte
  signer : Option Nat
  body   : ImageBody
  active : Bool
  next   : Bool               -- activation awaiting the next sequence
  deriving DecidableEq, Repr

/-- A copy of the retained map (18 R540), in decoded form. -/
structure Retained where
  valid  : Bool
  seq    : Nat
  serial : Nat
  phys   : Map Phys
  lmap   : Map Nat
  backed0 : Nat
  backed1 : Nat
  deriving DecidableEq, Repr

/-- Fuses (17 R503, 18 R535, 19 R561, R570). -/
structure Fuses where
  srcMap   : Word
  serial   : Word
  uds      : BitVec 384       -- unique device secret, in the SEC block (19 R573)
  copperMac : Nat             -- MAC address of the copper port (21 R614)
  dieId    : Map Word
  factory  : Map Nat          -- logical tiles whose factory position is not the default of log entry 10
  defects  : List Nat         -- factory and field defect lists, physical indices
  field    : List Nat
  fwKeys   : List (Nat × Bool)
  provKey  : Nat
  owners   : List (Option Nat × Bool)
  fwSvn    : Nat
  cfgSvn   : Nat
  vlog     : List Nat
  deriving DecidableEq, Repr

/-- Chrysalis (17). -/
structure Chrys where
  asserted : List (Nat × Nat) -- asserted sources of Warm or deeper with the level applied
  targets  : List (Nat × Nat) -- asserted Tile and Link sources with their targets
  minHeld  : List Nat         -- sources whose minimum hold runs
  held     : Option Nat
  seqOn    : Bool
  seqLevel : Nat
  seqSrcs  : List Nat
  seqPh1   : Bool
  seqRef   : Bool
  fromDorm : Bool
  clksel   : Bool
  refOk    : Bool
  stopped  : Bool             -- the always-on clock does not run
  ran      : Bool             -- it has run since power-on (17 R515)
  last     : Word             -- CHR_LAST
  lastTl   : Word             -- CHR_LAST_TL
  bkpSession : Word
  bkpBoots : Word
  bkpSw    : Map Word
  retMem   : Map Byte         -- firmware area of retained memory
  retBad   : List Nat         -- words of retained memory that the decoder reports uncorrectable, by word index (17 R518)
  retSoft  : Map Bool         -- words of it with one bit (false) or two bits (true) in error
  copyA    : Retained
  copyB    : Retained
  deriving DecidableEq, Repr

/-- Bring-up (18). -/
structure Boot where
  phase   : Nat
  exit_   : Nat               -- MODEL: phase that an exit from Standby runs next (R526); 8 when all are done, 0 for none
  running : Bool              -- bring-up runs
  err     : Nat
  detail  : Nat
  recov   : Bool
  ready   : Bool
  locked  : Bool              -- RWL locks
  policy  : Word
  topo    : Word
  failed  : List Nat          -- physical tiles that failed phase 3 or 7
  dmsk    : List Nat          -- physical tiles whose Damask failed phase 3
  cxlBad  : Bool              -- a CXL member failed its memory test
  again   : Bool              -- phase 7 has been repeated
  refused : Bool
  gddrOne : Nat               -- GDDR7 words with one failing bit that the test accepted (18 R532)
  noted   : List (Nat × Nat × Nat) -- class, sub-port and node of each mismatch that this bring-up has recorded (18 R544)
  deriving DecidableEq, Repr

/-- SEC and Luna (19). -/
structure Sec where
  slots    : Map Slot
  modeSel  : Nat
  modeNext : Option Nat
  mode     : Nat
  fallback : Bool
  debug    : Bool
  nonexact : Bool
  lastSeq  : Word
  overlay  : Option Overlay
  fwSvnRun : Nat
  cfgSvnRun : Nat
  meas     : List (BitVec 384) -- blocks 1-5
  inForce  : List Nat          -- store slots in force: firmware, base configuration, overlay
  spdm     : Nat              -- 0 nothing, 1 version given, 2 capabilities, 3 algorithms
  eid      : Nat
  dynAddr  : Option Nat
  tapReset : Bool
  tapInstr : Nat
  scan     : List (Option Bool) -- boundary-scan register (21 R609); none is high impedance
  deriving DecidableEq, Repr

/-- The sealed energy meter (16). -/
structure Meter where
  running : Bool
  test    : Bool
  testReq : Bool
  vtest   : Bool              -- VTEST feeds the meter (16 R498)
  fault   : Bool
  sealCnt : Nat
  lastSeal : Nat
  seq     : Nat
  tms     : Nat
  tag     : Nat
  waitTag : Option Nat
  eMain   : Nat
  eAux    : Nat
  ring    : Map (List Byte)
  head    : Nat
  any     : Bool
  tick    : Nat
  pMain   : Nat
  pAux    : Nat
  id      : Word
  deriving DecidableEq, Repr

/-- Pins and power (15 R478, 21). -/
structure Pins where
  aux     : Bool
  pwrOk   : Bool
  resetN  : Bool
  regBad  : List Nat          -- domains whose regulator reports a fault
  prsntN  : Map Bool          -- per CXL link: true is high
  straps  : Nat               -- ADDR1, ADDR0 as sampled at power-on (21 R607)
  alertN  : Bool              -- false: driven low
  thermN  : Bool
  pairOn  : Bool              -- PAIR_SYNC driven
  copper  : Bool              -- copper link up
  domains : List Nat          -- domains 64-69 that are on
  pstate  : Nat               -- 0 Active, 1 Idle, 2 Standby, 3 Dormant
  trans   : Option Nat        -- transition in progress, to this state
  hot     : List Nat          -- sensors whose latest reading is 105 °C or above: 2 × group, plus 1 for B; 128 + n for X
  deriving DecidableEq, Repr

/-- HWK registers of the always-on domain and the governor limits (15 R481, R482, R485). -/
structure Hwk where
  cap    : Nat
  limits : Word
  evt    : Word
  deriving DecidableEq, Repr

/-- Everything the always-on domain and the meter hold. -/
structure Chip where
  fuses : Fuses
  chr   : Chrys
  boot  : Boot
  sec   : Sec
  meter : Meter
  pins  : Pins
  hwk   : Hwk
  deriving DecidableEq, Repr

/-- The state of one module, with the queue of commands that wait, first in, first out. -/
structure State where
  pending : List Instr
  node    : Node
  chip    : Chip
  deriving DecidableEq, Repr

/-! ### How a command can stop -/

/-- No command of this block ends in a fault of the machine: tile faults (03 R103) are effects on the state. -/
inductive Fault
  /-- Raised by nothing; kept so that the outcome type names a fault. Safe. -/
  | none
  deriving DecidableEq, Repr

/-- Why a command is refused. -/
inductive Refusal
  /-- No meaning yet for this mnemonic: raised by its arm of `exec` alone. Safe. -/
  | notModelled (mnemonic : String)
  deriving DecidableEq, Repr

/-! ### Reset values -/

/-- A thread without code (03: stays idle). -/
def Thread.idle : Thread where
  hasCode := false
  entry := 0
  pc := 0
  wait := .idle
  s := []
  p := []
  v := []
  a := []
  k := []
  mark := none
  vote := false
  exited := false
  load := none
  stores := []
  vbusy := []

/-- A released array (03 R96). -/
def Felt.released : Felt where
  alloc := false
  held := false
  strict := false
  cells := []
  f32 := []
  inv := none
  sat := false
  e := []
  tampered := false
  turned := false

/-- A cell just after FALLOC (07 R215, R224, R232). -/
def FCell.zero : FCell where
  val := 0
  side := 0
  zst := .empty
  wide := false
  off := 0

/-- No fault recorded. -/
def FaultRec.clear : FaultRec where
  valid := false
  more := false
  cls := 0
  thr := 0
  pc := 0
  detail := 0
  addr := 0

/-- A tile that no slice uses, at its reset values. -/
def Tile.idle : Tile where
  used := false
  imem := []
  descs := []
  bind := []
  comm := []
  phases := []
  allow := (0, 1)
  shadowOk := false
  heldReads := []
  thr := []
  felt := []
  queue := []
  topk := []
  checks := []
  voile := []
  bars := []
  rr := 0
  opSeq := 0
  sram := []
  bad := []
  soft := []
  ibad := []
  isoft := []
  dbad := []
  dsoft := []
  epoch := 0
  tainted := false
  taintNext := false
  verdict := none
  nf := false
  recur := []
  fences := 0
  restart := false
  parked := false
  inRst := false
  sameIv := false
  heldAt := none
  digest := 0
  hold := false
  dbgEn := false
  force := false
  flags := 0
  fault := .clear
  hsk := 0
  issued := 0

/-- A peer before any HELLO (11 R340, R354). -/
def Peer.fresh : Peer where
  session := none
  reqSeen := []
  repSeen := []
  usable := []
  sendSeq := []
  limit := []
  nextAcc := []
  granted := []
  unacked := []
  waiting := []
  early := []
  ackDue := []
  eceDue := []
  rate := 1
  cut := false
  unreach := false

/-- A sub-port that has not trained. -/
def Sub.down : Sub where
  up := false
  lanes := 0
  first := 0
  trained := 0
  fenced := false
  lseq := 0
  expect := 0
  lackOut := 0
  replay := []
  waitOut := []
  resends := 0
  rreqDue := false
  paused := []
  pausing := []
  turn := 2
  deficit := []
  discards := 0
  resetting := false

/-- A reduction context at rest. -/
def RedCtx.idle : RedCtx where
  filled := 0
  started := false
  folded := false
  preIn := []
  gridIn := []
  preSent := false
  combined := false
  entries := []
  inForm := []
  inNf := []
  got := []
  sent := []
  acked := []
  done := []
  repSent := false
  repIn := []
  complete := false
  esc := 0
  pvalid := false
  pnext := false
  sat := false
  resfail := false
  nf := false
  hurt := false

/-- No job loaded (03 R79). -/
def Job.none : Job where
  loaded := false
  id := 0
  node := 0
  nnodes := 0
  highLt := 0
  planHash := 0
  seed := 0
  started := false
  held := false
  holdNext := false
  fresh := false
  replay := false
  mcast := []
  mirror := []
  release := []
  recorder := []
  red := []

/-- Counts of zero. -/
def Counts.zero : Counts where
  step := 0
  skips := 0
  cursor := 0

/-- The commit unit with no job. -/
def Commit.idle : Commit where
  now := .zero
  cur := .zero
  prev := .zero
  recJob := 0
  epoch := 0
  running := false
  tainted := false
  abort := false
  sent := .none
  fwd := .none
  kids := []
  last := 0
  pwritten := false
  sealed := false
  kidsReady := []
  readySent := false
  released := false
  ended := false

/-- A healthy physical tile. -/
def Phys.healthy : Phys where
  state := 0
  damask := false
  chk := 0
  turned := true
  mism := 0

/-- A tile group at its reset values, powered off. -/
def Tg.off : Tg where
  vset := 0
  target := 0
  powered := false
  gated := false
  tempA := 0
  tempB := 0
  throttle := false
  power := 0
  alpha := 1

/-- The tiers at their reset values: nothing stored, scrubbers at 24 h (10 R322). -/
def Mems.reset : Mems where
  data := []
  zero := []
  bad := []
  soft := []
  rx := []
  hdm := []
  gScrub := 24
  cScrub := 24
  gLink := 0
  cLink := 0
  gLast := 0
  cLast := 0
  link := []
  cxmCfg := 3
  linkUp := []
  stalled := []
  wbq := []
  gPos := 0
  cPos := 0
  filled := .none
  ue := 0

/-- Checks at their reset values: all 1,152 tiles of each die backed by the factory map. -/
def Guard.reset : Guard where
  lmap := []
  backed0 := Config.ltPerDie
  backed1 := Config.ltPerDie
  phys := []
  ptr0 := 0
  ptr1 := 0
  shadows := []
  matched := []
  keep := []
  tx := []
  wmark := 0
  late := 0
  kept := none
  chkCfg := 1
  chkEvt := 0

/-- The recorder at its reset values. -/
def Tps.reset : Tps where
  cfg := 0
  recBase := 0
  capBase := 0
  stat := 0
  ctl := 0
  resReg := 0
  idx := 0
  inputs := []
  armed := []
  events := []
  captured := false
  capPos := 0
  capAtt := 0
  dir := []
  due := []
  diff := .none

/-- The governor at its reset values. -/
def Gov.reset : Gov where
  tgs := []
  reqs := []
  xtemps := []
  xhot := false
  u := 0
  samples := []
  dpower := []

/-- Gingham at its reset values. -/
def Gng.reset : Gng where
  cfg := 0
  inbase := 0
  slot := 0
  state := 0
  fresh := []

/-- The node after a Full reset. -/
def Node.reset : Node where
  on := false
  free := 0
  cfg := .none
  tiles := []
  ctxs := []
  fills := []
  flight := []
  held := []
  strStat := 0
  overruns := []
  split := 0
  mems := .reset
  fcache := []
  fcAlt := []
  fcLog := 0
  wire := []
  peers := []
  subs := []
  ports := []
  told := []
  bycode := 0
  session := 0
  serial := 0
  tshCfg := 0xBDEC0000
  timers := 0
  peerEvt := 0
  redCfg := 0
  redEvt := 0
  red := []
  job := .none
  commit := .idle
  gng := .reset
  guard := .reset
  tps := .reset
  gov := .reset
  fdbgCtl := 0
  fdbgData := 0
  fdbgAt := none
  ermLog := 0
  asm := []
  asleep := false
  later := []
  events := []
  evHead := 0
  evSeq := 0
  out := []
  assert := []
  jobTag := .none
  retUps := []
  govEvt := []
  therm := false
  retain := false
  shift := 0

/-- A retained map copy that Full reset has zeroed (17 R516). -/
def Retained.blank : Retained where
  valid := false
  seq := 0
  serial := 0
  phys := []
  lmap := []
  backed0 := 0
  backed1 := 0

/-- The fuses of the module modelled (17 R503; the rest DESIGN CHOICE, log entries 3 and 10). -/
def Fuses.shipped : Fuses where
  srcMap := 0x1443012112121110
  serial := 0
  uds := 0
  copperMac := 0
  dieId := [(0, 0x01000000), (1, 0x01000000), (2, 0x01000000)]
  factory := []
  defects := []
  field := []
  fwKeys := [(1, false), (2, false)]
  provKey := 3
  owners := [(.none, false), (.none, false), (.none, false), (.none, false)]
  fwSvn := 0
  cfgSvn := 0
  vlog := []

/-- Chrysalis while source 0 is asserted (17 R500, R502, R504, R521): the always-on supply is not valid, so that its clock does
not run, and the module is held at Full, in the sequence that source 0 began. -/
def Chrys.reset : Chrys where
  asserted := [(0, 0)]
  targets := []
  minHeld := []
  held := some 0
  seqOn := true
  seqLevel := 0
  seqSrcs := [0]
  seqPh1 := false
  seqRef := false
  fromDorm := false
  clksel := false
  refOk := true
  stopped := true
  ran := false
  last := 0x0001000100000000
  lastTl := 0
  bkpSession := 0
  bkpBoots := 0
  bkpSw := []
  retMem := []
  retBad := []
  retSoft := []
  copyA := .blank
  copyB := .blank

/-- Bring-up before phase 0. -/
def Boot.reset : Boot where
  phase := 0
  exit_ := 0
  running := false
  err := 0
  detail := 0
  recov := false
  ready := false
  locked := false
  policy := 0x00000DAC00002260
  topo := 0
  failed := []
  dmsk := []
  cxlBad := false
  again := false
  refused := false
  gddrOne := 0
  noted := []

/-- An empty slot of the configuration store, the active one of its pair (19 R566). -/
def Slot.empty : Slot where
  bytes := []
  signer := none
  body := .firmware
  active := true
  next := false

/-- SEC with an empty store, of whose pairs the first slot is active, and mode 0 selected (19 R566, R577); the test access port is
in Test-Logic-Reset, where IEEE 1149.1 loads IDCODE (21 R609). -/
def Sec.reset : Sec where
  slots := (List.range 6).map fun p => (2 * p, Slot.empty)
  modeSel := 0
  modeNext := .none
  mode := 0
  fallback := false
  debug := false
  nonexact := false
  lastSeq := 0
  overlay := .none
  fwSvnRun := 0
  cfgSvnRun := 0
  meas := []
  inForce := []
  spdm := 0
  eid := 0
  dynAddr := .none
  tapReset := true
  tapInstr := 1
  scan := []

/-- The meter before it starts (16 R495). -/
def Meter.reset : Meter where
  running := false
  test := false
  testReq := false
  vtest := false
  fault := false
  sealCnt := 0
  lastSeal := 0
  seq := 0
  tms := 0
  tag := 0
  waitTag := .none
  eMain := 0
  eAux := 0
  ring := []
  head := 0
  any := false
  tick := 0
  pMain := 0
  pAux := 0
  id := 0

/-- The pins while source 0 holds the module (17 R515, 21). -/
def Pins.reset : Pins where
  aux := false
  pwrOk := false
  resetN := true
  regBad := []
  prsntN := []
  straps := 0
  alertN := false
  thermN := true
  pairOn := false
  copper := false
  domains := []
  pstate := 0
  trans := .none
  hot := []

/-- HWK registers after Full (15 R481). -/
def Hwk.reset : Hwk where
  cap := 1600
  limits := 0
  evt := 0

/-- The always-on domain after a Full reset. -/
def Chip.reset : Chip where
  fuses := .shipped
  chr := .reset
  boot := .reset
  sec := .reset
  meter := .reset
  pins := .reset
  hwk := .reset

/-- The machine right after reset: power-on asserts source 0 and the module is held at Full (17 R502, R504). -/
def State.reset : State where
  pending := []
  node := .reset
  chip := .reset

end Sys2Proof.Machine
end

