-- ==== Sys2Proof/Machine/Felt.lean ====
section
/-! DEFINITION. Felt arrays (07): entries, windows and widening, special values, zero states, saturation, strict cells,
exact records, readout values and Ermine's column residues (14 R430-R432). -/
namespace Sys2Proof.Machine

/-! ### Cells (R215, R220-R224, R228-R234) -/

/-- The greatest magnitude of a cell, 2^639 − 1. -/
def feltTop : Int := 2 ^ 639 - 1

/-- Whether a cell's invalid-operation bit reads 1 (R229). -/
def FCell.invalid (c : FCell) : Bool := c.side.testBit 3 || (c.side.testBit 0 && c.side.testBit 1)

/-- The four side-state bits as they read. -/
def FCell.sideRead (c : FCell) : Nat := c.side % 8 + 8 * b2n c.invalid

/-- What one entry brings to a cell: its value in units of 2^-298, whether it is a −0 term (R232), the side-state bits it
sets and its 0 × ∞ candidates (R230). -/
structure Entry where
  v    : Int
  neg0 : Bool
  side : Nat
  cand : List InvRec
  deriving DecidableEq, Repr

/-- Whether a value is representable in the window at byte offset `o` (R220). -/
def fitsAt (v : Int) (o : Nat) : Bool :=
  decide (v % 2 ^ (8 * o) = 0) && decide (-(2 ^ 127) ≤ v / 2 ^ (8 * o)) && decide (v / 2 ^ (8 * o) < 2 ^ 127)

/-- The placement of a non-zero value (R221). -/
def placeOf (v : Int) : Nat := Nat.min 64 (lowBit v.natAbs / 8)

/-- Bring a value into the range of R215; the flag says that it saturated (R234). -/
def clampFelt (v : Int) : Int × Bool :=
  if feltTop < v then (feltTop, true) else if v < -feltTop then (-feltTop, true) else (v, false)

/-- The window after entry `t` makes the value `v` (R222). A widened cell and one whose value is zero keep the last offset, which
R221 places for other values only (DESIGN CHOICE, log entry 99). -/
def FCell.window (c : FCell) (t v : Int) : Bool × Nat :=
  if c.wide then (true, c.off)
  else if c.val = 0 then
    if v = 0 then (false, c.off)
    else if fitsAt v (placeOf v) then (false, placeOf v) else (true, c.off)
  else if t % 2 ^ (8 * c.off) = 0 ∧ fitsAt v c.off then (false, c.off)
  else (true, c.off)

/-- A cell takes an entry; the flag says that it saturated. -/
def FCell.take (c : FCell) (e : Entry) : FCell × Bool :=
  let (v, sat) := clampFelt (c.val + e.v)
  let (wide, off) := c.window e.v v
  let z : ZeroSt := match c.zst with
    | .other => .other
    | _ => if e.neg0 && !sat then .neg else .other
  ({ val := v, side := c.side ||| e.side, zst := z, wide := wide, off := off }, sat)

/-- At the end of an instruction a widened cell that fits a window, or is zero, is windowed again (R224). -/
def FCell.narrow (c : FCell) : FCell :=
  if !c.wide then c
  else if c.val = 0 then { c with wide := false }
  else if fitsAt c.val (placeOf c.val) then { c with wide := false, off := placeOf c.val }
  else c

/-- The 640-bit image of a cell (R215, R236). -/
def FCell.image (c : FCell) : Nat := if c.val = 0 ∧ c.zst = .neg then 2 ^ 639 else wrap c.val 640

/-- A cell whose image is `m`, with the zero state that a debug write leaves (R244). -/
def FCell.ofImage (c : FCell) (m : Nat) : FCell :=
  if m % 2 ^ 640 = 2 ^ 639 then { c with val := 0, zst := .neg } else { c with val := sgn m 640, zst := .other }

/-- The cell whose image became `m` by a debug write: a value that its window cannot hold widens it (04 R149). -/
def FCell.debugImage (c : FCell) (m : Nat) : FCell :=
  let d := c.ofImage m
  if c.wide ∨ d.val = 0 then d
  else if c.val = 0 then
    if fitsAt d.val (placeOf d.val) then { d with off := placeOf d.val } else { d with wide := true }
  else if fitsAt d.val c.off then d else { d with wide := true }

/-- A cell's result at readout (R231, R233). -/
def FCell.result (c : FCell) : Val :=
  if c.side.testBit 2 || c.invalid then .nan
  else if c.side.testBit 0 then .inf false
  else if c.side.testBit 1 then .inf true
  else if c.val = 0 then .fin (c.zst == .neg) 0 0
  else ofInt c.val (-298)

/-- The image value that Ermine reads of a cell (14 R432): a cell in negative zero contributes zero. -/
def FCell.resid (c : FCell) : Nat := (c.val % Config.p61).toNat

/-! ### Arrays -/

/-- Cell number 32 i + j. -/
def Felt.cell (a : Felt) (k : Nat) : FCell := Map.getD a.cells k .zero

/-- The flags that an instruction on an array sets: FSAT, FINV, FSPILL (05 R157). -/
structure Marks where
  sat   : Bool
  inv   : Bool
  spill : Bool
  deriving DecidableEq, Repr

/-- Whether record `a` lies below `b` in the order of 01 R24. -/
def InvRec.lt (a b : InvRec) : Bool :=
  decide (a.k < b.k ∨ (a.k = b.k ∧ (a.i < b.i ∨ (a.i = b.i ∧ a.j < b.j))))

/-- The lower of the records held and offered (R230). -/
def lowerRec (r : Option InvRec) (c : InvRec) : Option InvRec :=
  match r with
  | none => some c
  | some o => if c.lt o then some c else some o

/-- Feed a cell its entries in order. -/
def feed (c : FCell) (es : List Entry) : FCell × Bool :=
  es.foldl (fun (s : FCell × Bool) e => let r := s.1.take e; (r.1, s.2 || r.2)) (c, false)

/-- Give every cell named in `ents` its entries, as one instruction (R222-R225, R230, R234): the array and what it
marks. -/
def Felt.apply (a : Felt) (ents : List (Nat × List Entry)) : Felt × Marks :=
  let wide0 := (a.cells.filter fun kv => kv.2.wide).map (·.1)
  let done := ents.map fun ke => (ke.1, feed (a.cell ke.1) ke.2)
  let wides := done.foldl (fun l d => if d.2.1.wide then insertNew d.1 l else l) wide0
  let cells := done.foldl (fun m d => Map.put m d.1 d.2.1) a.cells
  let sat := done.any fun d => d.2.2
  let cands := (ents.map fun ke => (ke.2.map (·.cand)).flatten).flatten
  let inv := cands.foldl lowerRec a.inv
  ({ a with cells := Map.mapVals FCell.narrow cells, sat := a.sat || sat, inv := inv },
   { sat := sat, inv := a.inv.isNone && inv.isSome, spill := decide (64 < wides.length) })

/-- The array just after FALLOC (03 R95, 05 R168). The array's saturation indicator is cleared; the tile's FSAT is cleared by software
alone (05 R157 beside R234: DESIGN CHOICE, log entry 100). -/
def Felt.cleared (a : Felt) : Felt :=
  { a with cells := [], f32 := [], inv := none, sat := false, e := [], tampered := false, turned := false }

/-- Column residue `j` of Ermine. -/
def Felt.eOf (a : Felt) (j : Nat) : Nat := Map.getD a.e j 0

/-- Add to column residues, one amount for each column from 0 up (14 R431). -/
def Felt.addE (a : Felt) (neg : Bool) (xs : List Nat) : Felt :=
  { a with e := (xs.zip (List.range xs.length)).foldl (fun m xj =>
      Map.put m xj.2 ((Map.getD m xj.2 0 + (if neg then Config.p61 - xj.1 % Config.p61 else xj.1)) % Config.p61)) a.e }

/-! ### Products and groups (R218, R219, R228, R232) -/

/-- A product as a term: its value in units of 2^-298, whether it is a −0 term, its side bits, and whether it is 0 × ∞.
A product with an element outside an extent is a +0 term (05 R162). -/
def productTerm (neg : Bool) (a b : Option Val) : Int × Bool × Nat × Bool :=
  match a, b with
  | some x, some y =>
    match x, y with
    | .nan, _ | _, .nan => (0, false, 4, false)
    | .fin n m e, .fin k p g =>
      let s := (n ^^ k) ^^ neg
      if m * p = 0 then (0, s, 0, false)
      else
        let u : Int := (m * p : Nat) * 2 ^ (e + g + 298).toNat
        (if s then -u else u, false, 0, false)
    | .inf n, .inf k => (0, false, if (n ^^ k) ^^ neg then 2 else 1, false)
    | .inf n, .fin k p _ => if p = 0 then (0, false, 8, true) else (0, false, if (n ^^ k) ^^ neg then 2 else 1, false)
    | .fin n m _, .inf k => if m = 0 then (0, false, 8, true) else (0, false, if (n ^^ k) ^^ neg then 2 else 1, false)
  | _, _ => (0, false, 0, false)

/-- One entry made of consecutive products (R218): a −0 term only if each product is. `recs` are their coordinates. -/
def entryOf (ts : List (Int × Bool × Nat × Bool)) (recs : List InvRec) : Entry where
  v := ts.foldl (fun s t => s + t.1) 0
  neg0 := ts.all fun t => t.2.1
  side := ts.foldl (fun s t => s ||| t.2.2.1) 0
  cand := ((ts.zip recs).filter fun tr => tr.1.2.2.2).map (·.2)

/-- The entries of a list of operand pairs, grouped by `g`. -/
def entriesOf (neg : Bool) (g : Nat) (ps : List (Option Val × Option Val)) (recs : List InvRec) : List Entry :=
  let ts := ps.map fun p => productTerm neg p.1 p.2
  ((chunks g ts.length ts).zip (chunks g recs.length recs)).map fun x => entryOf x.1 x.2

/-- Residue of a finite element (14 R430); zero for any other. -/
def rho : Option Val → Nat
  | some (.fin n m e) =>
    let u := m * 2 ^ (e + 149).toNat % Config.p61
    if n then (Config.p61 - u) % Config.p61 else u
  | _ => 0

/-- Rows of operand values: for each k of the range the values at 32 positions of the other dimension. -/
abbrev Rows := List (List (Option Val))

/-- Element `i` of each row. -/
def column (r : Rows) (i : Nat) : List (Option Val) := r.map fun x => x.getD i none

/-- MMA or MMAN on an array that is not strict (05 R162, 07 R218): `recs i j` are the global coordinates of the products
of cell (i, j). -/
def Felt.mma (a : Felt) (neg : Bool) (g : Nat) (ra rb : Rows) (recs : Nat → Nat → List InvRec) : Felt × Marks :=
  let ents := (List.range 1024).map fun c =>
    (c, entriesOf neg g ((column ra (c / 32)).zip (column rb (c % 32))) (recs (c / 32) (c % 32)))
  let (a1, m) := a.apply ents
  let e := (List.range 32).map fun j =>
    sumOf (fun (ab : List (Option Val) × List (Option Val)) => sumOf rho ab.1 * rho (ab.2.getD j none)) (ra.zip rb)
  (a1.addE neg e, m)

/-- FSSQ: squares into row 0 (05 R166, 07 R239). A square is never 0 × ∞, so no coordinates are needed (R230). -/
def Felt.fssq (a : Felt) (g : Nat) (rx : Rows) : Felt × Marks :=
  let ents := (List.range 32).map fun j =>
    (j, (chunks g rx.length ((column rx j).map fun x => productTerm false x x)).map fun ts => entryOf ts [])
  let (a1, m) := a.apply ents
  (a1.addE false ((List.range 32).map fun j => sumOf (fun r => rho (r.getD j none) * rho (r.getD j none)) rx), m)

/-- A cell as an entry of another: an empty cell is none (R232). -/
def FCell.asEntry (c : FCell) : List Entry :=
  if c.zst = .empty then []
  else [{ v := c.val, neg0 := c.zst == .neg, side := c.side, cand := [] }]

/-- FSUMR (05 R161). -/
def Felt.fsumr (a : Felt) : Felt × Marks :=
  let ents := (List.range 32).map fun i => (32 * i, ((span 1 31).map fun j => (a.cell (32 * i + j)).asEntry).flatten)
  let (a1, m) := a.apply ents
  let total := sumOf (fun kv => kv.2) a.e % Config.p61
  ({ a1 with cells := a1.cells.filter fun kv => kv.1 % 32 == 0, e := [(0, total)] }, m)

/-! ### Exact records (05 R171, R172) -/

/-- The 96-byte record of a cell. -/
def FCell.record (c : FCell) : List Byte := leBytes c.image 80 ++ leBytes c.sideRead 16

/-- The entry that a record loads (R236). -/
def recordEntry (b : List Byte) : Entry :=
  let m := leNat (b.take 80)
  let side := leNat ((b.drop 80).take 1) % 16
  if m = 2 ^ 639 then { v := 0, neg0 := true, side := side, cand := [] }
  else { v := sgn m 640, neg0 := false, side := side, cand := [] }

/-- The trailer of an array's records. -/
def Felt.trailer (a : Felt) : List Byte :=
  let r := a.inv.getD ⟨0, 0, 0⟩
  leBytes r.k 8 ++ leBytes r.i 4 ++ leBytes r.j 4 ++ leBytes (b2n a.inv.isSome + 2 * b2n a.sat) 16

/-- All 98,336 bytes of FRDX. -/
def Felt.records (a : Felt) : List Byte :=
  ((List.range 1024).map fun k => (a.cell k).record).flatten ++ a.trailer

/-- FLDX: the records and the trailer of `b` enter the array. -/
def Felt.fldx (a : Felt) (b : List Byte) : Felt × Marks :=
  let recs := (chunks 96 1024 b)
  let ents := (recs.zip (List.range 1024)).map fun rk => (rk.2, [recordEntry rk.1])
  let (a1, m) := a.apply ents
  let t := b.drop 98304
  let fl := leNat ((t.drop 16).take 1)
  let inv := if fl.testBit 0 then
      lowerRec a1.inv ⟨leNat (t.take 8), leNat ((t.drop 8).take 4), leNat ((t.drop 12).take 4)⟩
    else a1.inv
  let e := (List.range 32).map fun j =>
    sumOf (fun (r : List Byte) => ((recordEntry r).v % (Config.p61 : Int)).toNat)
      ((List.range 32).map fun i => recs.getD (32 * i + j) [])
  (({ a1 with inv := inv, sat := a1.sat || fl.testBit 1 }).addE false e,
   { m with inv := m.inv || (a1.inv.isNone && inv.isSome), sat := m.sat || fl.testBit 1 })

/-! ### Strict arrays (06 R207, R208, 07 R238) -/

/-- The binary32 value of a strict cell. -/
def Felt.strictCell (a : Felt) (k : Nat) : BitVec 32 := Map.getD a.f32 k 0

/-- c = round32(c ± a × b) for one pair. An element outside an extent adds +0. -/
def strictStep (neg : Bool) (c : BitVec 32) (p : Option Val × Option Val) : BitVec 32 :=
  let d := fp32.decode c.toNat
  let x := match p.1, p.2 with
    | some a, some b => ((if neg then a.neg else a).fma b d).1
    | _, _ => (d.add (.fin false 0 0)).1
  BitVec.ofNat 32 (fp32.encode 0 false 0 x).bits

/-- MMA or MMAN on a strict array: ascending k in each cell. -/
def Felt.strictMma (a : Felt) (neg : Bool) (ra rb : Rows) : Felt :=
  { a with f32 := (List.range 1024).foldl (fun m c =>
      Map.put m c (((column ra (c / 32)).zip (column rb (c % 32))).foldl (strictStep neg) (Map.getD m c 0))) a.f32 }

/-! ### Readout and checks -/

/-- The result of cell `k` at readout. -/
def Felt.result (a : Felt) (k : Nat) : Val :=
  if a.strict then fp32.decode (a.strictCell k).toNat else (a.cell k).result

/-- Whether any cell holds a special value (05 R159 SEL 0, 07 R238). -/
def Felt.anySpecial (a : Felt) : Bool :=
  if a.strict then a.f32.any fun kv => (fp32.decode kv.2.toNat).special
  else a.cells.any fun kv => kv.2.side != 0

/-- The lowest column whose residue differs from Ermine's (14 R432). -/
def Felt.badColumn (a : Felt) : Option Nat :=
  (List.range 32).find? fun j =>
    sumOf (fun i => (a.cell (32 * i + j)).resid) (List.range 32) % Config.p61 != a.eOf j % Config.p61

/-- Whether Ermine does not check a readout of the array (14 R433). -/
def Felt.unchecked (a : Felt) : Bool := a.strict || a.sat || a.tampered

/-- Silicon flips bit `b` of a cell as it is read (14 R427). -/
def Felt.flip (a : Felt) (k b : Nat) : Felt :=
  if a.strict then { a with f32 := Map.put a.f32 k (a.strictCell k ^^^ BitVec.ofNat 32 (2 ^ (b % 32))) }
  else
    let c := a.cell k
    let m := c.image ^^^ 2 ^ (b % 640)
    let v : FCell := if m = 2 ^ 639 then { c with val := 0 } else { c with val := sgn m 640 }
    { a with cells := Map.put a.cells k v }

/-! ### Debug access (04 R148, R149, 07 R238, R243) -/

/-- Chunk 0 to 13 of a cell. OFF of a widened cell and of one with value zero is the last offset (DESIGN CHOICE, log entry 99). -/
def Felt.chunk (a : Felt) (k c : Nat) : Word :=
  if a.strict then (if c = 0 then (a.strictCell k).setWidth 64 else 0)
  else
    let x := a.cell k
    let win := if x.wide ∨ x.val = 0 then 0 else wrap (x.val / 2 ^ (8 * x.off)) 128
    match c with
    | 10 => BitVec.ofNat 64 (x.sideRead + 16 * b2n x.wide)
    | 11 => BitVec.ofNat 64 win
    | 12 => BitVec.ofNat 64 (win / 2 ^ 64)
    | 13 =>
      let z : Nat := match x.zst with
        | .empty => 0
        | .neg => 1
        | .other => 2
      setFld (setFld (setFld (setFld 0 0 7 x.off) 7 1 (b2n x.wide)) 8 4 x.sideRead) 12 2 z
    | _ => BitVec.ofNat 64 (x.image / 2 ^ (64 * c))

/-- Write chunk 0 to 10 of a cell. -/
def Felt.setChunk (a : Felt) (k c : Nat) (w : Word) : Felt :=
  if a.strict then (if c = 0 then { a with f32 := Map.put a.f32 k (w.setWidth 32), tampered := true } else { a with tampered := true })
  else
    let x := a.cell k
    let m := x.image
    let y : FCell := if c = 10 then { x.ofImage m with side := fld w 0 4 }
      else x.debugImage (m - bits m (64 * c) 64 * 2 ^ (64 * c) + w.toNat * 2 ^ (64 * c))
    { a with cells := Map.put a.cells k y, tampered := true }

end Sys2Proof.Machine
end

