-- ==== Sys2Proof/Machine/Wire.lean ====
section
/-! DEFINITION. Messages on the wire (11 R332, R336-R339, 09 R296, 12 R374, R387, 13 R406, R418, 14 R436): TYPE, TSPEC and LEN
of a message, the 32-byte base header as bytes and back, and what a channel's frames carry in their tag and ports. -/
namespace Sys2Proof.Machine

/-- The channel on which a message travels (R337). -/
def vcOf (m : Msg) (vc : Nat) : Nat :=
  match m with
  | .streamData .. | .accw .. => 4
  | .doneReq .. => 2
  | .done .. | .sealAck .. | .rendAck .. | .getData .. | .putDone .. => 3
  | .pre .. | .grid .. | .part .. | .report .. | .result .. => 5
  | .token .. | .verdict .. | .outcome .. | .mready .. | .mrelease .. | .retract .. | .start .. => 1
  | .mirrorData .. | .seal .. | .rdata .. | .rend .. => 6
  | .put .. | .get .. => 7
  | .unknown => vc

/-- Whether a message is one of REDUCE, which alone may carry a residue (R337). -/
def isReduce : Msg → Bool
  | .pre .. | .grid .. | .part .. | .report .. | .result .. => true
  | _ => false

/-- TYPE of a message (R337). -/
def typeOf : Msg → Nat
  | .streamData .. | .accw .. | .doneReq .. | .done .. => 3
  | .pre .. | .grid .. | .part .. | .report .. | .result .. => 4
  | .token .. | .verdict .. | .outcome .. | .mready .. | .mrelease .. | .retract .. | .start .. => 5
  | .mirrorData .. | .seal .. | .sealAck .. | .rdata .. | .rend .. | .rendAck .. => 6
  | .put .. | .get .. | .getData .. | .putDone .. => 7
  | .unknown => 255

/-- Payload bytes of a transit block, header included (12 R374). -/
def blkSize (t : TBlock) : Nat :=
  4 + (match t.form with
    | 1 => 128
    | 2 => 256
    | 3 => 512
    | 4 => 512 * t.nl
    | 6 => if t.nl = 0 then 256 else 128
    | _ => 0)

/-- LEN: payload bytes of a message (R338, 09 R296, 12 R387, 13 R418). -/
def lenOf : Msg → Nat
  | .streamData _ _ _ _ b => b.length
  | .accw _ es => 104 * es.length
  | .doneReq .. => 8
  | .pre _ _ es | .grid _ _ es | .report _ _ es => 2 * es.length
  | .part _ _ ts | .result _ _ ts => sumOf blkSize ts
  | .mirrorData _ _ b | .rdata _ _ b => b.length
  | .seal .. | .rend .. => 32
  | .put _ b | .getData _ b => 16 + b.length
  | .get _ | .putDone _ => 16
  | _ => 0

/-- TSPEC of a STREAM message. -/
def streamSpec (addr epoch sub fbit lbit : Nat) : Word :=
  setFld (setFld (setFld (setFld (setFld 0 0 48 addr) 48 8 epoch) 56 2 sub) 58 3 fbit) 61 3 lbit
/-- TSPEC of a REDUCE message. -/
def redSpec (sub first count epoch : Nat) : Word :=
  setFld (setFld (setFld (setFld 0 0 4 sub) 8 20 first) 28 13 count) 41 8 epoch
/-- TSPEC of a CTRL message that carries a count or nothing. -/
def ctrlSpec (kind lo len x epoch : Nat) : Word := setFld (setFld (setFld 0 0 8 kind) lo len x) 42 8 epoch
/-- TSPEC of a MIRROR message. -/
def mirrorSpec (sub slot off : Nat) : Word := setFld (setFld (setFld 0 0 4 sub) 4 1 slot) 8 40 off

/-- TSPEC of a message (R338, 12 R387, 13 R406, R418, 14 R436, 03 R80). -/
def tspecOf : Msg → Word
  | .streamData a e f l _ => streamSpec a e 0 f l
  | .accw e es => streamSpec (((es.head?).map (·.addr)).getD 0) e 1 0 7
  | .doneReq a e _ _ _ => streamSpec a e 2 0 7
  | .done a e => streamSpec a e 3 0 0
  | .pre f e es => redSpec 1 f es.length e
  | .grid f e es => redSpec 2 f es.length e
  | .part f e ts => redSpec 3 f ts.length e
  | .report f e es => redSpec 4 f es.length e
  | .result f e ts => redSpec 5 f ts.length e
  | .token lt thr ctr c e =>
    setFld (setFld (setFld (setFld (setFld (setFld 0 0 8 1) 8 12 lt) 20 3 thr) 23 3 ctr) 26 16 c) 42 8 e
  | .verdict e v nf => setFld (ctrlSpec 2 8 2 v e) 10 1 (b2n nf)
  | .outcome e o => ctrlSpec 3 8 2 o e
  | .mready e c => ctrlSpec 4 10 32 c e
  | .mrelease e c => ctrlSpec 5 10 32 c e
  | .retract lt s r hw e => setFld (setFld (setFld (setFld (setFld (setFld 0 0 8 6) 8 12 lt) 20 12 s) 32 8 r) 40 1 (b2n hw)) 42 8 e
  | .start c e => ctrlSpec 7 10 32 c e
  | .mirrorData s o _ => mirrorSpec 1 s o
  | .seal s _ => mirrorSpec 2 s 0
  | .sealAck s => mirrorSpec 3 s 0
  | .rdata s o _ => mirrorSpec 4 s o
  | .rend s _ => mirrorSpec 5 s 0
  | .rendAck s => mirrorSpec 6 s 0
  | .put .. | .get .. | .getData .. | .putDone .. | .unknown => 0

/-- The base header with every field (R336); `residue` is what bytes 32-39 hold when RES is 1. -/
structure WireHdr where
  ver    : Nat
  typ    : Nat
  vc     : Nat
  retx   : Bool
  mc     : Bool
  src    : Nat
  dst    : Nat
  ctx    : Nat
  len    : Nat
  seq    : Nat
  grant  : Option (Nat × Nat)
  jobtag : Nat
  tspec  : Nat
  residue : Option Nat
  deriving DecidableEq, Repr

/-- The bytes of a base header, and of the residue behind it (R336). -/
def WireHdr.bytes (h : WireHdr) : List Byte :=
  let g := h.grant.getD (0, 0)
  leBytes h.ver 1 ++ leBytes h.typ 1
    ++ leBytes (h.vc + 8 * b2n h.residue.isSome + 16 * b2n h.retx + 32 * b2n h.mc) 2
    ++ leBytes h.src 2 ++ leBytes h.dst 2 ++ leBytes h.ctx 2 ++ leBytes h.len 2 ++ leBytes h.seq 4
    ++ leBytes g.2 2 ++ leBytes (g.1 + 8 * b2n h.grant.isSome) 2 ++ leBytes h.jobtag 4 ++ leBytes h.tspec 8
    ++ (match h.residue with
      | none => []
      | some r => leBytes r 8)

/-- A base header as a receiver reads it: reserved bits are ignored (R336). -/
def WireHdr.ofBytes (b : List Byte) : WireHdr :=
  let f (off len : Nat) : Nat := leNat ((b.drop off).take len)
  let flags := f 2 1
  { ver := f 0 1 % 16, typ := f 1 1, vc := flags % 8, retx := flags.testBit 4, mc := flags.testBit 5
    src := f 4 2 % 4096, dst := f 6 2 % 4096, ctx := f 8 2 % 4096, len := f 10 2, seq := f 12 4
    grant := if (f 18 1).testBit 3 then some (f 18 1 % 8, f 16 2) else none
    jobtag := f 20 4, tspec := f 24 8
    residue := if flags.testBit 3 then some (f 32 8 % 2 ^ 61) else none }

/-- Whether every field fits its width. -/
def WireHdr.wf (h : WireHdr) : Bool :=
  decide (h.ver < 16 ∧ h.typ < 256 ∧ h.vc < 8 ∧ h.src < 4096 ∧ h.dst < 4096 ∧ h.ctx < 4096 ∧ h.len < 65536 ∧ h.seq < 2 ^ 32
    ∧ h.jobtag < 2 ^ 32 ∧ h.tspec < 2 ^ 64) &&
  h.grant.all (fun g => decide (g.1 < 8 ∧ g.2 < 65536)) && h.residue.all fun r => decide (r < 2 ^ 61)

/-! ### Frames (R332) -/

/-- PCP that a channel's frames carry, unless the base configuration overrides it. -/
def pcpOf : Nat → Nat
  | 0 => 7
  | 1 => 6
  | 4 => 3
  | 5 => 4
  | 6 => 2
  | _ => 5

/-- PCP of a channel on a sub-port. -/
def pcpFor (c : SubPortCfg) (vc : Nat) : Nat := c.pcp.getD vc (pcpOf vc)

/-- UDP source port of a message (R332). -/
def sourcePort (vc ctx : Nat) : Nat := 0xC000 + vc * 2048 + ctx % 2048

/-- The node identifier of the module (19 R576). -/
def Node.self (n : Node) : Nat :=
  match n.cfg with
  | none => 0
  | some c => c.node

/-- TSPEC of a MGMT message (19 R558). -/
def mgmtSpec (kind : Nat) : Word := setFld 0 0 8 kind

/-- The base header of a message to a host. A MGMT message takes no sequence number, and its SRC and DST are reserved (19 R558); CTX
echoes the host's tag. -/
def Node.hostHeader (n : Node) (typ ctx len : Nat) (tspec : Word) : WireHdr :=
  { ver := 1, typ := typ, vc := 0, retx := false, mc := false, src := if typ = 8 then 0 else n.self, dst := 0, ctx := ctx, len := len
    seq := 0, grant := none, jobtag := 0, tspec := tspec.toNat, residue := none }

/-- The frame of a message to a host from the copper port, which stands as port 8 (21 R614); `ip` is the port's address. -/
def Node.copperPacket (n : Node) (ip ctx : Nat) (h : WireHdr) : Packet :=
  { port := 8, sub := 0, vlan := n.cfg.elim 0 (·.copper.2.2), pcp := pcpOf 0, dscp := 8 * pcpOf 0, ect := bit n.tshCfg 2, ip := ip
    sport := sourcePort 0 ctx, dport := fld n.tshCfg 16 16, link := none, header := h.bytes }

/-- The frame of an event to a host, 32 bytes of kind 5 (19 R558, R559). By which of the 32 sub-ports or the copper port a host is
reached the spec does not state: a free value; no pause holds an event (log entry 102). -/
def Node.eventFrame (n : Node) (host : Nat) : Packet :=
  let k := Config.hostPort host % 33
  let h := n.hostHeader 8 0 32 (mgmtSpec 5)
  if k = 32 then n.copperPacket (n.cfg.elim 0 (·.copper.2.1)) 0 h
  else
    let c := n.cfg.bind fun b => Map.look b.subs k
    let pcp := c.elim (pcpOf 0) (pcpFor · 0)
    { port := k / 4, sub := k % 4, vlan := c.elim 0 (·.vlan), pcp := pcp, dscp := 8 * pcp, ect := bit n.tshCfg 2
      ip := c.elim 0 (·.ip), sport := sourcePort 0 0, dport := fld n.tshCfg 16 16, link := none, header := h.bytes }

/-- Bytes of UDP payload that a message with `len` payload bytes takes, the link header apart (R339). -/
def udpBytes (res : Bool) (len : Nat) : Nat := 32 + 8 * b2n res + len

end Sys2Proof.Machine
end

