-- ==== Sys2Proof/Machine/Ops.lean ====
section
/-! DEFINITION. Named operations over registers, tiles, events and taints. -/
namespace Sys2Proof.Machine

/-- The logical tile a tile key stands for; a key from 4096 up is a shadow. -/
def ltOf (t : Nat) : Nat := t % 4096

/-- Whether a tile key names a shadow (14 R442). -/
def isShadow (t : Nat) : Bool := decide (4096 ≤ t)

/-! ### Registers of a thread (03 R86) -/

/-- Read a scalar register; s0 reads as zero. -/
def Thread.getS (th : Thread) (r : Nat) : Word := if r = 0 then 0 else Map.getD th.s r 0

/-- Write a scalar register; a write to s0 is discarded. -/
def Thread.setS (th : Thread) (r : Nat) (v : Word) : Thread :=
  if r = 0 then th else { th with s := Map.put th.s r v }

/-- Read a predicate; p0 reads as true. -/
def Thread.getP (th : Thread) (r : Nat) : Bool := if r = 0 then true else Map.getD th.p r false

/-- Write a predicate; a write to p0 is discarded. -/
def Thread.setP (th : Thread) (r : Nat) (v : Bool) : Thread :=
  if r = 0 then th else { th with p := Map.put th.p r v }

/-- Read a vector register. -/
def Thread.getV (th : Thread) (r : Nat) : VReg := Map.getD th.v r 0

/-- Write a vector register. -/
def Thread.setV (th : Thread) (r : Nat) (v : VReg) : Thread := { th with v := Map.put th.v r v }

/-- Read a token counter. -/
def Thread.getK (th : Thread) (c : Nat) : Nat := Map.getD th.k c 0

/-- Write a token counter. -/
def Thread.setK (th : Thread) (c v : Nat) : Thread := { th with k := Map.put th.k c v }

/-- The pc after the one that stands (04 R132). -/
def Thread.step (th : Thread) : Thread := { th with pc := (th.pc + 1) % 4096 }

/-! ### Tiles -/

/-- Tile `t` of the node. -/
def Node.tile (n : Node) (t : Nat) : Tile := Map.getD n.tiles t .idle

/-- Replace tile `t`. -/
def Node.setTile (n : Node) (t : Nat) (x : Tile) : Node := { n with tiles := Map.put n.tiles t x }

/-- Thread `i` of a tile. -/
def Tile.thread (x : Tile) (i : Nat) : Thread := Map.getD x.thr i .idle

/-- Replace thread `i` of a tile. -/
def Tile.setThread (x : Tile) (i : Nat) (th : Thread) : Tile := { x with thr := Map.put x.thr i th }

/-- Thread `i` of tile `t`. -/
def Node.thread (n : Node) (t i : Nat) : Thread := (n.tile t).thread i

/-- Replace thread `i` of tile `t`. -/
def Node.setThread (n : Node) (t i : Nat) (th : Thread) : Node := n.setTile t ((n.tile t).setThread i th)

/-- Change thread `i` of tile `t`. -/
def Node.modThread (n : Node) (t i : Nat) (f : Thread → Thread) : Node := n.setThread t i (f (n.thread t i))

/-- Change tile `t`. -/
def Node.modTile (n : Node) (t : Nat) (f : Tile → Tile) : Node := n.setTile t (f (n.tile t))

/-- Array `f` of a tile. -/
def Tile.arr (x : Tile) (f : Nat) : Felt := Map.getD x.felt f .released

/-- Replace array `f` of a tile. -/
def Tile.setArr (x : Tile) (f : Nat) (a : Felt) : Tile := { x with felt := Map.put x.felt f a }

/-- The stream context `c`, if live. -/
def Node.ctx (n : Node) (c : Nat) : Option Ctx := Map.look n.ctxs c

/-- The peer `d`. -/
def Node.peer (n : Node) (d : Nat) : Peer := Map.getD n.peers d .fresh

/-- Replace peer `d`. -/
def Node.setPeer (n : Node) (d : Nat) (p : Peer) : Node := { n with peers := Map.put n.peers d p }

/-- Sub-port `s` of port `p`. -/
def Node.sub (n : Node) (p s : Nat) : Sub := Map.getD n.subs (4 * p + s) .down

/-- Replace sub-port `s` of port `p`. -/
def Node.setSub (n : Node) (p s : Nat) (x : Sub) : Node := { n with subs := Map.put n.subs (4 * p + s) x }

/-- Reduction context `i`. -/
def Node.redCtx (n : Node) (i : Nat) : RedCtx := Map.getD n.red i .idle

/-- Replace reduction context `i`. -/
def Node.setRed (n : Node) (i : Nat) (c : RedCtx) : Node := { n with red := Map.put n.red i c }

/-- A reduction context with no reduction: the bits that software clears stay (12 R397). -/
def RedCtx.rest (c : RedCtx) : RedCtx := { RedCtx.idle with sat := c.sat, resfail := c.resfail }

/-- Set one of the sticky arithmetic flags of TLC_FLAGS (05 R157): 0 FSAT, 1 FINV, 2 FSPILL, 3 VOVF, 4 VINV, 5 ROVF. -/
def Tile.setFlag (x : Tile) (i : Nat) : Tile := { x with flags := x.flags ||| BitVec.ofNat 6 (2 ^ i) }

/-- Set a flag when a condition holds. FSAT stays until software writes 1 to it, before or after the array is cleared (log entry
100). -/
def Tile.flagIf (x : Tile) (c : Bool) (i : Nat) : Tile := if c then x.setFlag i else x

/-- The logical tiles that the loaded slice uses. -/
def Node.usedTiles (n : Node) : List Nat := (n.tiles.filter fun kv => kv.2.used && decide (kv.1 < 4096)).map (·.1)

/-- The next free value's number, and the node that has taken it. -/
def Node.takeFree (n : Node) : Node := { n with free := n.free + 1 }

/-! ### Events (19 R559, 20 R594-R596) -/

/-- The hosts whose HOSTS entry has the events bit. -/
def Node.eventHosts (n : Node) : List Nat :=
  match n.cfg with
  | none => []
  | some c => (c.hosts.filter (·.events)).map (·.addr)

/-- The event record of code `code` about tile `lt`. -/
def Node.evtRec (n : Node) (code lt : Nat) (detail : Word) : Evt where
  code := code
  lt := lt
  node := match n.cfg with
    | none => 0xFFFF
    | some c => c.node
  detail := detail
  time := Config.freeTime n.free
  seq := n.evSeq

/-- Send an event to the management plane: into the ring of 1,024 records and to every host that takes events.
While Luna serves no path (19 R557) no event is sent. -/
def Node.event (n : Node) (code lt : Nat) (detail : Word) : Node :=
  if n.on then
    let e := n.evtRec code lt detail
    { n with
      free := n.free + 1
      events := Map.put n.events (n.evSeq % 1024) e
      evHead := n.evSeq % 1024
      evSeq := n.evSeq + 1
      out := n.out ++ n.eventHosts.map fun d => .event d e (n.eventFrame d) }
  else n

/-- Note an event for the Tapestry record of the attempt (14 R450). -/
def Node.noteEvt (n : Node) (kind lt : Nat) (d1 d2 : Word) : Node :=
  if n.job.loaded then { n with tps := { n.tps with events := n.tps.events ++ [(kind, lt, d1, d2)] } } else n

/-- First-event registers (TSH_PEER_EVT, ERM_CHK_EVT and the like): record `v` when VALID is clear, else set MORE. MORE
stays as it is until software clears it. -/
def firstEvt (r v : Word) : Word :=
  if bit r 63 then setFld r 62 1 1 else setFld (setFld v 63 1 1) 62 1 (fld r 62 1)

/-- Write the access log (20 R592). -/
def Node.logAccess (n : Node) (kind addr : Nat) : Node :=
  { n with ermLog := firstEvt n.ermLog (setFld (setFld 0 58 4 kind) 0 48 addr) }

/-- Ask Chrysalis to assert reset source `s` with target `t` (17 R502). -/
def Node.raise (n : Node) (s t : Nat) : Node := { n with assert := n.assert ++ [(s, t)] }

/-- A module-level taint (13 R405): of the running attempt, or of the one that the next START begins. -/
def Node.taint (n : Node) : Node := { n with commit := { n.commit with tainted := true } }

/-- The management plane requests Abort for the attempt (13 R405). -/
def Node.requestAbort (n : Node) : Node := { n with commit := { n.commit with abort := true } }

/-- A tile's verdict becomes tainted and is sent at once (03 R100); the module's verdict is tainted with it. A
shadow reports nothing (14 R443). -/
def Node.taintTile (n : Node) (t : Nat) : Node :=
  let n1 := n.modTile t fun x => { x with tainted := true, verdict := some 1 }
  if isShadow t then n1 else n1.taint

/-- Add to the output digest of a tile or a shadow (14 R443). -/
def Tile.addDigest (x : Tile) (d : Nat) : Tile := { x with digest := (x.digest + d) % Config.p61 }

/-! ### Flaws of a codeword (10 R302) -/

/-- A store's unsound words after `k` more bits of word `w` are in error. -/
def addBits (bad : List Nat) (soft : Map Bool) (w k : Nat) : List Nat × Map Bool :=
  let had := match Map.look soft w with
    | none => 0
    | some false => 1
    | some true => 2
  if bad.contains w then (bad, soft)
  else if 3 ≤ had + k then (insertNew w bad, Map.del soft w)
  else (bad, Map.put soft w (had + k == 2))

/-- Bits in error of a flaw that the decoder sees; none where it passes for another word. -/
def flawBits : Flaw → Option Nat
  | .one => some 1
  | .two => some 2
  | .three => some 3
  | .more _ => none

/-- The value that a flaw of four bits and more leaves. -/
def flawValue : Flaw → Word
  | .more v => v
  | _ => 0

end Sys2Proof.Machine
end

