-- ==== Sys2Proof/Machine/Cache.lean ====
section
/-! DEFINITION. The shared fetch cache (09 R292-R295): which line an address names, presence, the pseudo-LRU tree,
allocation and invalidation. -/
namespace Sys2Proof.Machine

/-- Slice of a GDDR7 address (R292). -/
def cacheSlice (a : Nat) : Nat := bits a 8 5
/-- Set of a GDDR7 address within its slice. -/
def cacheSet (a : Nat) : Nat := bits a 13 9
/-- Tag of a GDDR7 address. -/
def cacheTag (a : Nat) : Nat := bits a 22 16
/-- Key of the set that holds an address. -/
def cacheKey (a : Nat) : Nat := 512 * cacheSlice a + cacheSet a

/-- A set that holds nothing. -/
def CSet.empty : CSet where
  ways := []
  plru := 0

/-- The set of an address. -/
def Node.cset (n : Node) (a : Nat) : CSet := Map.getD n.fcache (cacheKey a) .empty

/-- The way and the line that hold an address, if it is present. -/
def CSet.find (c : CSet) (a : Nat) : Option (Nat × CLine) := c.ways.find? fun kv => kv.2.tag == cacheTag a

/-- Whether the line of an address is present. -/
def Node.cached (n : Node) (a : Nat) : Bool := ((n.cset a).find a).isSome

/-- The tree after a use of way `w`: each of the four nodes on the way's path points to the other half. Node `i` of the
tree is bit `i`; its halves are nodes 2i + 1 and 2i + 2. -/
def plruUse (tree w : Nat) : Nat :=
  ((List.range 4).foldl (fun (r : Nat × Nat) l =>
    let half := w / 2 ^ (3 - l) % 2
    let cleared := r.1 - r.1 / 2 ^ r.2 % 2 * 2 ^ r.2
    (cleared + (1 - half) * 2 ^ r.2, 2 * r.2 + 1 + half)) (tree, 0)).1

/-- The way that the tree points to. -/
def plruVictim (tree : Nat) : Nat :=
  ((List.range 4).foldl (fun (r : Nat × Nat) _ =>
    let half := tree / 2 ^ r.2 % 2
    (2 * r.1 + half, 2 * r.2 + 1 + half)) (0, 0)).1

/-- Replace the set of an address. -/
def Node.setCset (n : Node) (a : Nat) (c : CSet) : Node := { n with fcache := Map.put n.fcache (cacheKey a) c }

/-- A read is served from a present line: the line is the most recently used of its set. -/
def Node.cacheUse (n : Node) (a : Nat) : Node :=
  let c := n.cset a
  match c.find a with
  | none => n
  | some (w, _) => n.setCset a { c with plru := plruUse c.plru w }

/-- The bytes that the cache holds otherwise than GDDR7, of the lines that are present. -/
def Node.trimAlt (n : Node) : Node := { n with fcAlt := n.fcAlt.filter fun kv => n.cached kv.1 }

/-- Allocate the line of an address (R293): in the lowest way that holds none, else in the one that the tree points to. -/
def Node.cacheFill (n : Node) (a : Nat) : Node :=
  let c := n.cset a
  let w := ((List.range 16).find? fun i => (Map.look c.ways i).isNone).getD (plruVictim c.plru)
  (n.setCset a { ways := Map.put c.ways w { tag := cacheTag a, soft := [], bad := [] }, plru := plruUse c.plru w }).trimAlt

/-- Invalidate the line of an address (R295). -/
def Node.cacheDrop (n : Node) (a : Nat) : Node :=
  let c := n.cset a
  ({ n with fcache :=
      let rest := c.ways.filter fun kv => kv.2.tag != cacheTag a
      if rest.isEmpty && c.plru == 0 then Map.del n.fcache (cacheKey a)
      else Map.put n.fcache (cacheKey a) { c with ways := rest } } : Node).trimAlt

/-- The address of the line with tag `t` in the set of key `k`. -/
def lineAddr (k t : Nat) : Nat := t * 2 ^ 22 + k % 512 * 2 ^ 13 + k / 512 * 2 ^ 8

/-- GDDR7 is zeroed outside the bytes for which `out` stands, and so are the present lines (R293): words but those for which `part`
stands are written whole. -/
def Node.cacheZero (n : Node) (out part : Nat → Bool) : Node :=
  { n with
    fcAlt := n.fcAlt.filter fun kv => out kv.1
    fcache := n.fcache.map fun kv => (kv.1, { kv.2 with ways := Map.mapVals (fun l =>
      let w := lineAddr kv.1 l.tag / 8
      { l with soft := l.soft.filter fun e => part (w + e.1), bad := l.bad.filter fun i => part (w + i) }) kv.2.ways }) }

/-- Change the line of an address, if it is present. -/
def Node.modLine (n : Node) (a : Nat) (f : CLine → CLine) : Node :=
  let c := n.cset a
  match c.find a with
  | none => n
  | some (w, l) => n.setCset a { c with ways := Map.put c.ways w (f l) }

/-- A correctable error in the line of an address is corrected and logged (R295): ERM_LOG has no kind for it, so the log is
the count `fcLog` (log entry 86). -/
def Node.cacheFixed (n : Node) (a : Nat) : Node :=
  let m := n.cacheUse a
  { m with fcLog := m.fcLog + 1 }

/-- The word of a cache line that lies at an address. -/
def cacheWord (a : Nat) : Nat := a % 256 / 8

/-- A whole word of a present line is written (R293). -/
def Node.cacheWrite (n : Node) (a : Nat) : Node :=
  n.modLine a fun l => { l with soft := Map.del l.soft (cacheWord a), bad := l.bad.filter (· ≠ cacheWord a) }

/-- An uncorrectable word was found in the line of an address (R295): the line is invalidated, CACHE_UE set and the event
logged with the line's address. -/
def Node.cacheBad (n : Node) (a : Nat) : Node :=
  let m := n.cacheDrop a
  ({ m with strStat := m.strStat ||| 4 } : Node).logAccess 4 (a / 256 * 256)

end Sys2Proof.Machine
end

