-- ==== Sys2Proof/Machine/Memory.lean ====
section
/-! DEFINITION. The device address space (02 R57-R60): what an address names, and the reads and writes of bytes that
every unit uses, with the inline code (10 R302-R305, R309, R318) and uncorrectable words (10 R320, R321). -/
namespace Sys2Proof.Machine

/-- What a device address names. -/
inductive Place
  | gddr
  | sram (lt off : Nat)
  | cxl
  | reg
  | hole
  deriving DecidableEq, Repr

/-- The first device address above the populated CXL tier (10 R326 LIMIT). -/
def Node.cxlLimit (n : Node) : Nat :=
  if fld n.mems.cxmCfg 0 2 = 3 then Config.cxlBase else fld n.mems.cxmCfg 6 42 * 64

/-- Whether a logical tile is backed (14 R440, 18 R551). -/
def Node.backed (n : Node) (lt : Nat) : Bool :=
  if lt < Config.ltPerDie then decide (lt < n.guard.backed0)
  else decide (lt < Config.ltCount ∧ lt - Config.ltPerDie < n.guard.backed1)

/-- What address `a` names (R57); the SRAM of an unbacked logical tile is a hole (14 R440). -/
def Node.place (n : Node) (a : Nat) : Place :=
  if a < Config.gddrEnd then .gddr
  else if Config.sramBase ≤ a ∧ a < Config.sramBase + Config.ltCount * 0x100000 then
    let lt := (a - Config.sramBase) / 0x100000
    let off := (a - Config.sramBase) % 0x100000
    if off < Config.sramBytes ∧ n.backed lt then .sram lt off else .hole
  else if Config.regBase ≤ a ∧ a < Config.regEnd then .reg
  else if Config.cxlBase ≤ a ∧ a < n.cxlLimit then .cxl
  else .hole

/-- Where the stretch of memory that holds address `a` ends; none where `a` is in no memory. -/
def Node.stretchEnd (n : Node) (a : Nat) : Option Nat :=
  match n.place a with
  | .gddr => some Config.gddrEnd
  | .sram lt _ => some (Config.sramBase + lt * 0x100000 + Config.sramBytes)
  | .cxl => some n.cxlLimit
  | .reg | .hole => none

/-- The lowest address of `len` bytes from `a` that is in no memory of this node: a hole, the register region or
beyond the populated capacity (03 R111). -/
def Node.badAddr (n : Node) (a len : Nat) : Option Nat :=
  if len = 0 then none
  else match n.stretchEnd a with
    | none => some a
    | some e => if a + len ≤ e then none else some e

/-- The same test for an address on another node: only the holes and the register region of R57 are known here
(09 R274). -/
def remoteBad (a len : Nat) : Option Nat :=
  if len = 0 then none
  else if a < Config.gddrEnd then if a + len ≤ Config.gddrEnd then none else some Config.gddrEnd
  else if Config.sramBase ≤ a ∧ a < Config.sramBase + Config.ltCount * 0x100000 then
    let off := (a - Config.sramBase) % 0x100000
    if off < Config.sramBytes then
      if off + len ≤ Config.sramBytes then none else some (a - off + Config.sramBytes)
    else some a
  else if Config.cxlBase ≤ a ∧ a < Config.cxlEnd then
    if a + len ≤ Config.cxlEnd then none else some Config.cxlEnd
  else some a

/-- The device address of a tile's SRAM. -/
def sramAddr (lt off : Nat) : Nat := Config.sramBase + lt * 0x100000 + off

/-- Whether a tile is being shadowed in this attempt (14 R441). -/
def Node.shadowed (n : Node) (lt : Nat) : Bool := n.guard.shadows.any (·.1 == lt)

/-- The tile key whose SRAM a reader with view `v` meets in logical tile `lt`: a shadow meets its own (14 R442). -/
def viewKey (v lt : Nat) : Nat := if ltOf v = lt then v else lt

/-- The tile keys whose SRAM a writer with view `v` reaches in logical tile `lt`: a tile its own, a shadow its own,
and every other writer both (14 R442). The view 8192 is that of no tile. -/
def Node.writeKeys (n : Node) (v lt : Nat) : List Nat :=
  if ltOf v = lt ∧ v < 8192 then [v]
  else if n.shadowed lt then [lt, 4096 + lt] else [lt]

/-- The views that between them write every copy of the byte at `a` that a writer with view `v` reaches: one for each
SRAM, each of which writes that SRAM alone. -/
def Node.copies (n : Node) (v a : Nat) : List Nat :=
  match n.place a with
  | .sram lt _ => n.writeKeys v lt
  | _ => [v]

/-- The view of an agent that is no tile of this node. -/
def noView : Nat := 8192 + 4095

/-- Whether the CXL region of an address is initialised (18 R534). -/
def Node.cxlFilled (n : Node) (a : Nat) : Bool :=
  match n.mems.filled with
  | none => true
  | some l => l.contains ((a - Config.cxlBase) / 0x1000000)

/-- Whether the QJ1 zeroed the byte at `a` of a tier. -/
def Node.zeroed (n : Node) (a : Nat) : Bool := n.mems.zero.any fun r => decide (r.1 ≤ a ∧ a < r.1 + r.2)

/-- What a byte of a tier that is not listed reads as. -/
def Node.blank (n : Node) (a : Nat) : Byte := if n.zeroed a then 0 else Config.freeByte n.free a

/-- What the decoder reports of a codeword (R302). -/
inductive Ecc
  | clean | one | two | bad
  deriving DecidableEq, Repr

/-- The report of word `w` of a store whose unsound words are `bad` and `soft`. -/
def eccOf (bad : List Nat) (soft : Map Bool) (w : Nat) : Ecc :=
  if bad.contains w then .bad
  else match Map.look soft w with
    | none => .clean
    | some false => .one
    | some true => .two

/-- What the decoder reports of word number `w` (address / 8) where it is stored, in the SRAM that view `v` meets. A CXL
region not yet initialised holds no codeword (18 R534). -/
def Node.storedEcc (n : Node) (v w : Nat) : Ecc :=
  match n.place (w * 8) with
  | .sram lt off => let x := n.tile (viewKey v lt); eccOf x.bad x.soft (off / 8)
  | .gddr => eccOf n.mems.bad n.mems.soft w
  | .cxl => if !n.cxlFilled (w * 8) then .clean else if n.mems.rx.contains w then .bad else eccOf n.mems.bad n.mems.soft w
  | .reg | .hole => .clean

/-- What the decoder reports of the copy of word `w` in the shared fetch cache, if its line is present. -/
def Node.lineEcc (n : Node) (w : Nat) : Option Ecc :=
  if w * 8 < Config.gddrEnd then
    ((n.cset (w * 8)).find (w * 8)).map fun l => eccOf l.2.bad l.2.soft (cacheWord (w * 8))
  else none

/-- Whether a reader with view `v` finds word number `w` uncorrectable: where it is stored, and in the shared fetch cache if
that holds it (09 R293, R295). -/
def Node.poisoned (n : Node) (v w : Nat) : Bool :=
  n.storedEcc v w == .bad && (match n.lineEcc w with
    | some e => e == .bad
    | none => true)

/-- One byte as a reader with view `v` meets it. A byte that nothing has written reads as a free value (08 R261,
10 R312), and so does a byte of an uncorrectable word (R321); a CXL region not yet initialised reads zero (18 R534). A byte
of GDDR7 whose line the fetch cache holds is the cache's (09 R293). -/
def Node.rd (n : Node) (v a : Nat) : Byte :=
  if n.poisoned v (a / 8) then Config.freeByte n.free a
  else match n.place a with
    | .sram lt off => Map.getD (n.tile (viewKey v lt)).sram off (Config.freeByte n.free a)
    | .gddr => Map.getD n.fcAlt a (Map.getD n.mems.data a (n.blank a))
    | .cxl => if n.cxlFilled a then Map.getD n.mems.data a (n.blank a) else 0
    | .reg | .hole => 0

/-- `len` bytes from `a`. -/
def Node.rdBytes (n : Node) (v a len : Nat) : List Byte := (span a len).map (n.rd v)

/-- The little-endian number in `len` bytes from `a`. -/
def Node.rdNat (n : Node) (v a len : Nat) : Nat := leNat (n.rdBytes v a len)

/-- The tiers' bytes with `b` at `a`: a byte that reads so without being listed is not listed. -/
def Node.setByte (n : Node) (a : Nat) (b : Byte) : Map Byte :=
  if n.zeroed a && b == 0 then Map.del n.mems.data a else Map.put n.mems.data a b

/-- Write one byte, where its address is in memory. -/
def Node.poke (n : Node) (v a : Nat) (b : Byte) : Node :=
  match n.place a with
  | .sram lt off => (n.writeKeys v lt).foldl
      (fun m k => m.modTile k fun x => { x with sram := Map.put x.sram off b }) n
  | .gddr => { n with mems := { n.mems with data := n.setByte a b }, fcAlt := Map.del n.fcAlt a }
  | .cxl => { n with mems := { n.mems with data := n.setByte a b } }
  | .reg | .hole => n

/-- The QJ1 zeroes `len` bytes of a tier from `a`. -/
def Node.zeroRange (n : Node) (a len : Nat) : Node :=
  let m := n.mems
  let out (x : Nat) : Bool := decide (x < a ∨ a + len ≤ x)
  let part (w : Nat) : Bool := decide (w * 8 < a ∨ a + len < w * 8 + 8)
  ({ n with mems := { m with
    data := m.data.filter fun kv => out kv.1
    zero := if m.zero.any fun r => decide (r.1 ≤ a ∧ a + len ≤ r.1 + r.2) then m.zero else m.zero ++ [(a, len)]
    bad := m.bad.filter part
    rx := m.rx.filter part
    soft := m.soft.filter fun kv => part kv.1 } } : Node).cacheZero out part

/-- Zero a CXL region that is not initialised and set its bit, as a write to it does first (18 R534). What an earlier boot
left in the region is dropped. -/
def Node.fillRegion (n : Node) (a : Nat) : Node :=
  match n.mems.filled with
  | none => n
  | some l =>
    let r := (a - Config.cxlBase) / 0x1000000
    if l.contains r then n
    else
      let z := n.zeroRange (Config.cxlBase + r * 0x1000000) 0x1000000
      { z with mems := { z.mems with filled := some (l ++ [r]) } }

/-- What a write to address `a` does first: a region of the CXL tier that is not initialised is (18 R534). -/
def Node.fillFor (n : Node) (a : Nat) : Node :=
  match n.place a with
  | .cxl => n.fillRegion a
  | _ => n

/-- Write bytes from `a` on. -/
def Node.pokes (n : Node) (v a : Nat) : List Byte → Node
  | [] => n
  | b :: t => (n.poke v a b).pokes v (a + 1) t

/-! ### Codewords -/

/-- The word numbers that `len` bytes from `a` touch. -/
def wordsOf (a len : Nat) : List Nat := if len = 0 then [] else span (a / 8) ((a + len - 1) / 8 - a / 8 + 1)

/-- Mark word `w` poisoned: the word in tile SRAM, all eight words of its line elsewhere (R305). An expander is sent the
line with CXL poison set (R313); a line that the fetch cache holds carries the poison too (09 R293). -/
def Node.poison (n : Node) (v w : Nat) : Node :=
  let line := span (w / 8 * 8) 8
  let all (l : List Nat) : List Nat := line.foldl (fun k i => insertNew i k) l
  match n.place (w * 8) with
  | .sram lt off => (n.writeKeys v lt).foldl
      (fun m k => m.modTile k fun x => { x with bad := insertNew (off / 8) x.bad }) n
  | .gddr =>
    line.foldl (fun m i => m.modLine (i * 8) fun l => { l with bad := insertNew (cacheWord (i * 8)) l.bad })
      { n with mems := { n.mems with bad := all n.mems.bad } }
  | .cxl => { n with mems := { n.mems with bad := all n.mems.bad, rx := all n.mems.rx } }
  | .reg | .hole => n

/-- Word `w` is written whole with valid check bits, in the store and where the fetch cache holds it. -/
def Node.mend (n : Node) (v w : Nat) : Node :=
  match n.place (w * 8) with
  | .sram lt off => (n.writeKeys v lt).foldl
      (fun m k => m.modTile k fun x => { x with bad := x.bad.filter (· ≠ off / 8), soft := Map.del x.soft (off / 8) }) n
  | .gddr | .cxl =>
    let m : Node := { n with mems := { n.mems with
      bad := n.mems.bad.filter (· ≠ w), soft := Map.del n.mems.soft w, rx := n.mems.rx.filter (· ≠ w) } }
    if w * 8 < Config.gddrEnd then m.cacheWrite (w * 8) else m
  | .reg | .hole => n

/-! ### Placement (R303, R304, R307, R314, R315) -/

/-- Row segment of GDDR7 that holds an address, over all channels. -/
def gddrSeg (a : Nat) : Nat := a / 64 / 25
/-- Place m of an address's line in its segment: its image lies at bytes 80m to 80m + 79 (R304, R307). -/
def gddrLine (a : Nat) : Nat := a / 64 % 25
/-- GDDR7 channel of an address (R307). -/
def gddrChannel (a : Nat) : Nat := gddrSeg a % 128
/-- Segment of an address within its channel (R307). -/
def gddrCseg (a : Nat) : Nat := gddrSeg a / 128

/-- The 80-byte line image of eight words (R303): the data, then each word's check bits, XORed with the poison pattern where
the word is poisoned (R305). -/
def lineImage (ws : List (Word × Bool)) : List Byte :=
  ws.flatMap (fun w => leBytes w.1.toNat 8) ++ ws.flatMap fun w =>
    leBytes ((if w.2 then Config.checkBits w.1 ^^^ Config.poisonBits else Config.checkBits w.1).toNat) 2

/-- The words of the line at `a` as its tier stores them, each with whether it is stored poisoned. -/
def Node.lineWords (n : Node) (a : Nat) : List (Word × Bool) :=
  let stored : Node := { n with fcAlt := [] }
  (span (a / 64 * 8) 8).map fun w => (BitVec.ofNat 64 (stored.rdNat noView (w * 8) 8), n.mems.bad.contains w)

/-- The 2,048 bytes of the row segment whose first line is at `a` (R304): twenty-five line images, then zeros. -/
def Node.segmentImage (n : Node) (a : Nat) : List Byte :=
  ((List.range 25).flatMap fun m => lineImage (n.lineWords (a + 64 * m))) ++ List.replicate 48 0

/-- Ways of the interleave set (10 R326). -/
def Node.cxlWays (n : Node) : Nat :=
  match fld n.mems.cxmCfg 0 2 with
  | 0 => 1
  | 1 => 2
  | 2 => 4
  | _ => 0

/-- The members of the interleave set. -/
def Node.cxlMembers (n : Node) : List Nat := match n.cfg with
  | none => []
  | some c => c.cxlMembers

/-- Host physical address of a CXL-tier address (R315). -/
def cxlHost (a : Nat) : Nat :=
  let line := (a - Config.cxlBase) / 64
  line / 25 * 2048 + 80 * (line % 25)

/-- The CXL link that serves an address (R315). -/
def Node.cxlLink (n : Node) (a : Nat) : Nat :=
  if n.cxlWays = 0 then 0 else (n.cxlMembers[cxlHost a / 4096 % n.cxlWays]?).getD 0

/-- The address to which the expander's decoder 0 resolves a host physical address (R314, R315). -/
def Hdm.resolve (d : Hdm) (h : Nat) : Nat :=
  h / d.granularity / d.ways * d.granularity + h % d.granularity

/-- The expander's address of a CXL-tier address (R315), as its decoder 0 is programmed. -/
def Node.expanderAddr (n : Node) (a : Nat) : Option Nat := (Map.look n.mems.hdm (n.cxlLink a)).map fun d => d.resolve (cxlHost a)

/-- Physical index of a logical tile: where the factory map puts it, or where MAP says (18 R552). -/
def Node.physOf (n : Node) (lt : Nat) : Nat :=
  Map.getD n.guard.lmap lt (if lt < Config.ltPerDie then lt else Config.physPerDie + (lt - Config.ltPerDie))

/-- The physical tile on which tile key `t` runs: of a shadow, the spare assigned to it (14 R441). -/
def Node.physOfKey (n : Node) (t : Nat) : Nat :=
  if isShadow t then
    match n.guard.shadows.find? (·.1 == ltOf t) with
    | some a => a.2
    | none => n.physOf (ltOf t)
  else n.physOf t

/-- Die, column and row of a physical index (column-major, 38 rows). -/
def physDie (p : Nat) : Nat := p / Config.physPerDie
/-- Column of a physical index. -/
def physCol (p : Nat) : Nat := p % Config.physPerDie / 38
/-- Row of a physical index. -/
def physRow (p : Nat) : Nat := p % Config.physPerDie % 38

/-- Tile group of a physical index: 32 columns of each die, one group per column (02, 15). -/
def groupOf (p : Nat) : Nat := 32 * physDie p + physCol p

/-- Tier and unit of an address as view `v` meets it, as ERM_MEM_UE codes them (10 R327): a shadow's own SRAM is that of its
spare. -/
def Node.tierUnit (n : Node) (v a : Nat) : Nat × Nat :=
  match n.place a with
  | .sram lt _ => (0, groupOf (n.physOfKey (viewKey v lt)))
  | .gddr => (1, gddrChannel a)
  | .cxl => (2, n.cxlLink a)
  | .reg | .hole => (0, 0)

/-- The reset source of an uncorrectable event in a tier (10 R320). -/
def ueSource : Nat → Nat
  | 0 => 9
  | 1 => 7
  | _ => 8

/-- ERM_MEM_UE written with an event, the event noted and sent, and the reset source asserted (10 R321 steps 3
and 4). -/
def Node.ueRecord (n : Node) (kind tier unit a : Nat) : Node :=
  let ue := firstEvt n.mems.ue (setFld (setFld (setFld (setFld 0 54 8 unit) 51 3 kind) 48 3 tier) 0 48 a)
  let n1 := { n with mems := { n.mems with ue := ue } }
  ((n1.noteEvt 6 0xFFFF 0 ue).event 13 0xFFFF ue).raise (ueSource tier) 0

/-- The event of an uncorrectable word at address `a` that view `v` meets, without a taint. A response with CXL poison is of
kind 2 and counts in POISON_RX of its link (R317, R325). -/
def Node.ueAt (n : Node) (v kind a : Nat) : Node :=
  let (tier, unit) := n.tierUnit v a
  if tier = 2 ∧ n.mems.rx.contains (a / 8) then
    let w := Map.getD n.mems.link unit 0
    let m : Node := { n with mems := { n.mems with
      link := Map.put n.mems.link unit (setFld w 16 16 (Nat.min 65535 (fld w 16 16 + 1))) } }
    m.ueRecord 2 tier unit (a / 8 * 8)
  else n.ueRecord kind tier unit (a / 8 * 8)

/-- An uncorrectable word that a requester read (10 R321): the step is tainted first. -/
def Node.uncorrectable (n : Node) (v kind a : Nat) : Node := (n.taint).ueAt v kind a

/-- An uncorrectable word of a tile's instruction or descriptor store was read (R320, 14 R427). Neither store has a device
address, so ADDR of the record is a free value (log entry 69). -/
def Node.innerBad (n : Node) (t : Nat) : Node :=
  ((n.taint).takeFree).ueRecord 0 0 (groupOf (n.physOfKey t)) (Config.freeField n.free 0 % 2 ^ 48)

/-- Whether a word of descriptor `i` of a tile is uncorrectable. -/
def Tile.descHurt (x : Tile) (i : Nat) : Bool := x.dbad.any fun w => w / 32 == i

/-- Record a corrected word (10 R318, R324): the tier's count and last-correction register, and a write-back of the
line queued unless 64 are pending or the line's own is. In tile SRAM a correction leaves no record. -/
def Node.corrected (n : Node) (two : Bool) (a : Nat) : Node :=
  let rec0 (u : Nat) : Word := setFld (setFld (setFld 0 56 1 (b2n two)) 48 8 u) 0 48 (a / 8 * 8)
  let bump (r : Word) : Word := if fld r 0 32 = 2 ^ 32 - 1 then r else setFld r 0 32 (fld r 0 32 + 1)
  let queue (k : Nat) : Map (List Nat) :=
    let q := Map.getD n.mems.wbq k []
    if q.length < 64 ∧ !q.contains (a / 64 * 64) then Map.put n.mems.wbq k (q ++ [a / 64 * 64]) else n.mems.wbq
  match n.place a with
  | .gddr => { n with mems := { n.mems with
      gLink := bump n.mems.gLink, gLast := rec0 (gddrChannel a), wbq := queue (gddrChannel a) } }
  | .cxl => { n with mems := { n.mems with
      cLink := bump n.mems.cLink, cLast := rec0 (n.cxlLink a), wbq := queue (128 + n.cxlLink a) } }
  | _ => n

/-- The decoder reads word `w` where it is stored: whether it is uncorrectable, and the node with a correction recorded. -/
def Node.readStored (n : Node) (v w : Nat) : Bool × Node :=
  match n.storedEcc v w with
  | .clean => (false, n)
  | .one => (false, n.corrected false (w * 8))
  | .two => (false, n.corrected true (w * 8))
  | .bad => (true, n)

/-- A line of the shared fetch cache is read from GDDR7 and allocated (09 R293). A word that is uncorrectable there is so in
the cache; each but word `w` is an event here (10 R320), and the flag says that word `w` is uncorrectable, whose event its
reader takes. -/
def Node.fetchLine (n : Node) (w : Nat) : Bool × Node :=
  let ws := span (w / 32 * 32) 32
  let r := ws.foldl (fun (r : List Nat × Node) x =>
    let s := r.2.readStored noView x
    (if s.1 then r.1 ++ [x] else r.1, s.2)) ([], n)
  let m := (r.1.filter (· ≠ w)).foldl (fun (k : Node) x => k.uncorrectable noView 0 (x * 8)) r.2
  (r.1.contains w, (m.cacheFill (w * 8)).modLine (w * 8) fun l => { l with bad := r.1.map fun x => cacheWord (x * 8) })

/-- One word as a requester reads it (R302, R318, 09 R293, R295): whether it is uncorrectable, and the node with what the
read leaves. `shared` allocates a line of the fetch cache on a miss. -/
def Node.readWord (n : Node) (shared : Bool) (v w : Nat) : Bool × Node :=
  let miss (m : Node) : Bool × Node :=
    if shared && decide (w * 8 < Config.gddrEnd) then m.fetchLine w else m.readStored v w
  match n.lineEcc w with
  | none => miss n
  | some .bad => miss (n.cacheBad (w * 8))
  | some .clean => (false, n.cacheUse (w * 8))
  | some _ => (false, n.cacheFixed (w * 8))

/-- Words as a requester reads them, in order, up to the first that is uncorrectable: that word, and the node. -/
def Node.readWords (n : Node) (shared : Bool) (v : Nat) : List Nat → Option Nat × Node
  | [] => (none, n)
  | w :: rest =>
    match n.readWord shared v w with
    | (true, m) => (some w, m)
    | (false, m) => m.readWords shared v rest

/-- A read of `len` bytes from `a` with what it finds (R318, R320): an uncorrectable word is an event, and the access ends
there. The first component is that word. -/
def Node.readCheck (n : Node) (v a len : Nat) : Option Nat × Node :=
  match n.readWords false v (wordsOf a len) with
  | (some w, m) => (some w, m.uncorrectable v 0 (w * 8))
  | (none, m) => (none, m)

/-- The word numbers that a write of `len` bytes from `a` covers only in part. -/
def partWords (a len : Nat) : List Nat := (wordsOf a len).filter fun w => decide (w * 8 < a ∨ a + len < w * 8 + 8)

/-- Digest a byte write by a shadowed tile or a shadow (14 R443). -/
def writeDigest (a : Nat) : List Byte → Nat
  | [] => 0
  | b :: t => 2 ^ 56 + a * 256 + b.toNat + writeDigest (a + 1) t

/-- What becomes of the codeword of word `w` in one copy that a write reaches (R305, R309): written whole, it is valid;
written in part, its read half corrects it or leaves it poisoned. The flag says that the read half found it uncorrectable.
A word of the fetch cache whose codeword is uncorrectable is invalidated with its line (09 R295). -/
def Node.writeWord (n : Node) (whole : Bool) (v w : Nat) : Bool × Node :=
  if whole then (false, n.mend v w)
  else
    let m := if n.lineEcc w = some .bad then n.cacheBad (w * 8) else n
    let r := m.readStored v w
    if r.1 then r else (false, r.2.mend v w)

/-- The codewords of the words written, copy by copy: the first word that a read half found uncorrectable, and the node. -/
def Node.writeWords (n : Node) (whole : Nat → Bool) (v : Nat) (ws : List Nat) : Option Nat × Node :=
  (ws.flatMap fun w => (n.copies v (w * 8)).map fun k => (k, w)).foldl (fun (r : Option Nat × Node) kw =>
    let s := r.2.writeWord (whole kw.2) kw.1 kw.2
    (r.1 <|> (if s.1 then some kw.2 else none), s.2)) (none, n)

/-- Whether a word that a writer with view `v` writes travels to its destination: a tile's to its own SRAM does not. -/
def Node.travels (n : Node) (v w : Nat) : Bool :=
  match n.place (w * 8) with
  | .sram lt _ => !(ltOf v == lt && decide (v < 8192))
  | _ => true

/-- Words that arrive over a mesh, a bridge or X are decoded where they are stored (14 R427): one that is uncorrectable is
stored poisoned and counts against its destination. -/
def Node.decodeArrivals (n : Node) (v : Nat) (ws : List Nat) : Node :=
  if n.wire.isEmpty then n
  else (ws.filter (n.travels v)).foldl (fun m w =>
    let k : Node := { m with wire := Map.del m.wire w }
    match Map.look m.wire w with
    | some .three => (k.poison v w).uncorrectable v 0 (w * 8)
    | some (.more x) => k.pokes v (w * 8) (leBytes x.toNat 8)
    | some _ => k
    | none => m) n

/-- A write of whole bytes by view `v`: a CXL region is filled first; the bytes land; whole words lose their poison;
a partial write to a poisoned word is an uncorrectable event and leaves it poisoned (R305, R309). -/
def Node.store (n : Node) (v a : Nat) (bs : List Byte) : Node :=
  let n0 := (n.fillFor a).fillFor (a + bs.length - 1)
  let ws := wordsOf a bs.length
  let (hurt, n1) := n0.writeWords (fun w => decide (a ≤ w * 8 ∧ w * 8 + 8 ≤ a + bs.length)) v ws
  let n2 := (n1.pokes v a bs).decodeArrivals v ws
  match hurt with
  | none => n2
  | some w => n2.uncorrectable v 0 (w * 8)

/-- A write of bytes that were read with an uncorrectable error: every word it touches is written poisoned (R305). -/
def Node.storePoison (n : Node) (v a len : Nat) : Node :=
  (wordsOf a len).foldl (fun m w => (m.fillFor (w * 8)).poison v w) n

/-- What a tile with key `t` writes or sends is summed into its digest while its logical tile is shadowed. -/
def Node.digest (n : Node) (t d : Nat) : Node :=
  if n.shadowed (ltOf t) then n.modTile t (·.addDigest d) else n

/-- What arrives for a shadow with what its logical tile asked for goes into its own digest (14 R443). -/
def Node.digestShadow (n : Node) (lt d : Nat) : Node :=
  if n.shadowed lt then n.modTile (4096 + lt) (·.addDigest d) else n

/-- Whether the bytes that tile key `t` writes at `a` land: a shadow's writes outside its own SRAM do not (R443). -/
def Node.lands (n : Node) (t a : Nat) : Bool :=
  !isShadow t || (match n.place a with
    | .sram lt _ => lt == ltOf t
    | _ => false)

/-- A write of bytes by tile key `t` on this node: landed unless it is a shadow's output, and digested. -/
def Node.tileStore (n : Node) (t a : Nat) (bs : List Byte) : Node :=
  let n1 := if n.lands t a then n.store t a bs else n
  n1.digest t (writeDigest a bs)

/-! ### Upsets (R302, R317, 14 R427) -/

/-- The fetch cache holds the bytes `bs` as word `w`, whatever GDDR7 holds. -/
def Node.cacheHolds (n : Node) (w : Nat) (bs : List Byte) : Node :=
  { n with fcAlt := (bs.zip (span (w * 8) 8)).foldl (fun l ba => Map.put l ba.2 ba.1) n.fcAlt }

/-- Silicon changes a codeword. Where the code takes the changed word for another (R302), the fetch cache and GDDR7 hold
different bytes from then on: a word of GDDR7 that changes under a present line keeps its old bytes in the cache, and a word
of the cache that changes keeps them in GDDR7. -/
def Node.upset (n : Node) (u : Upset) : Node :=
  match u with
  | .sram t off f =>
    if Config.sramBytes ≤ off then n
    else match flawBits f with
      | some k => n.modTile t fun x =>
          let r := addBits x.bad x.soft (off / 8) k
          { x with bad := r.1, soft := r.2 }
      | none => ((leBytes (flawValue f).toNat 8).zip (span (off / 8 * 8) 8)).foldl
          (fun m ba => m.modTile t fun x => { x with sram := Map.put x.sram ba.2 ba.1 }) n
  | .tier a f =>
    if a < Config.gddrEnd ∨ Config.cxlBase ≤ a then
      match flawBits f with
      | some k =>
        let r := addBits n.mems.bad n.mems.soft (a / 8) k
        { n with mems := { n.mems with bad := r.1, soft := r.2 } }
      | none =>
        let n0 : Node := if n.cached a && decide (a < Config.gddrEnd) then n.cacheHolds (a / 8) (n.rdBytes noView (a / 8 * 8) 8)
          else n
        ((leBytes (flawValue f).toNat 8).zip (span (a / 8 * 8) 8)).foldl
          (fun m ba => { m with mems := { m.mems with data := m.setByte ba.2 ba.1 } }) n0
    else n
  | .instr t pc f =>
    match flawBits f with
    | some k => n.modTile t fun x =>
        let r := addBits x.ibad x.isoft pc k
        { x with ibad := r.1, isoft := r.2 }
    | none => n.modTile t fun x => { x with imem := Map.put x.imem pc (flawValue f) }
  | .desc t w f =>
    match flawBits f with
    | some k => n.modTile t fun x =>
        let r := addBits x.dbad x.dsoft w k
        { x with dbad := r.1, dsoft := r.2 }
    | none => n.modTile t fun x => match Map.look x.descs (w / 32) with
        | none => x
        | some d => { x with descs := Map.put x.descs (w / 32) (setAt d (w % 32) (flawValue f)) }
  | .cache a f =>
    match flawBits f with
    | some k => n.modLine a fun l =>
        let r := addBits l.bad l.soft (cacheWord a) k
        { l with bad := r.1, soft := r.2 }
    | none => if n.cached a && decide (a < Config.gddrEnd) then n.cacheHolds (a / 8) (leBytes (flawValue f).toNat 8) else n
  | .wire a f => { n with wire := Map.put n.wire (a / 8) f }
  | .poison a => { n with mems := { n.mems with
      rx := (span (a / 64 * 8) 8).foldl (fun l w => insertNew w l) n.mems.rx } }
  | .retained off f => { n with retUps := n.retUps ++ [(off, f)] }
  | .retry _ k => { n with mems := { n.mems with
      cLink := setFld n.mems.cLink 32 16 (Nat.min 65535 (fld n.mems.cLink 32 16 + k)) } }

/-- What silicon changed before a command read. -/
def Node.upsets (n : Node) (up : List Upset) : Node := up.foldl Node.upset n

/-! ### The canonical form -/

/-- The canonical form of the memories: the tiers' bytes and every tile's SRAM are listed with strictly rising addresses,
and no byte of a tier is listed that reads the same unlisted. A byte of SRAM, or of a tier outside what the QJ1 zeroed, has
no value unlisted (it is free), so any value of it is listed. -/
def Node.memWf (n : Node) : Bool :=
  Map.wf n.mems.data && n.mems.data.all (fun kv => !(n.zeroed kv.1 && kv.2 == 0))
    && Map.wf n.tiles && n.tiles.all fun kv => Map.wf kv.2.sram

end Sys2Proof.Machine
end

