-- ==== Sys2Proof/Machine/Send.lean ====
section
/-! DEFINITION. Sending: sequence numbers, credits, routes, link headers, acknowledgements (11 R340, R343-R345, R348,
R349, R361), and the record of peer events (11 R366). -/
namespace Sys2Proof.Machine

/-- Initial credit of a channel (R345). -/
def initCredit : Nat → Nat
  | 0 => 16
  | 1 => 64
  | 2 => 32
  | 3 => 96
  | 4 => 320
  | 5 => 320
  | 6 => 96
  | _ => 80

/-- Whether limit `l` lets a message with sequence `s` go (R343). -/
def mayGo (l s : Nat) : Bool :=
  let d := (l + 65536 - s % 65536) % 65536
  decide (1 ≤ d ∧ d ≤ 32767)

/-- Whether limit `l'` is not below limit `l` (R343: a grant never lowers a limit). -/
def raises (l l' : Nat) : Bool := decide ((l' + 65536 - l % 65536) % 65536 ≤ 32767)

/-- The routes to node `d` (R361). -/
def Node.routes (n : Node) (d : Nat) : List Route :=
  match n.cfg with
  | none => []
  | some c => Map.getD c.nodes d []

/-- A sub-port's settings in the base configuration. -/
def Node.subCfg (n : Node) (p s : Nat) : Option SubPortCfg := n.cfg.bind fun c => Map.look c.subs (4 * p + s)

/-- Whether the base configuration declares a sub-port direct (R347). -/
def Node.isDirect (n : Node) (p s : Nat) : Bool := (n.subCfg p s).any (·.role == .direct)

/-- The route that a message with context `ctx` takes: among the usable ones in the order of the node table (R361). -/
def Node.routeFor (n : Node) (d ctx : Nat) : Option Route :=
  let rs := n.routes d
  let u := (List.range rs.length).filter (n.peer d).usable.contains
  if u.isEmpty then none
  else match u[ctx % u.length]? with
    | none => none
    | some i => rs[i]?

/-! ### Frames (R332, R333, R347, R348) -/

/-- The frame around a message that goes out on a route. -/
def Node.packet (n : Node) (r : Route) (vc ctx : Nat) (h : WireHdr) : Packet :=
  let s := n.sub r.port r.sub
  let (vlan, pcp, ip) := match n.subCfg r.port r.sub with
    | none => (0, pcpOf vc, 0)
    | some c => (c.vlan, pcpFor c vc, c.ip)
  { port := r.port, sub := r.sub, vlan := vlan, pcp := pcp, dscp := 8 * pcp, ect := bit n.tshCfg 2, ip := ip
    sport := sourcePort vc ctx, dport := fld n.tshCfg 16 16
    link := if n.isDirect r.port r.sub then some { lseq := s.lseq, lackv := true, rreq := false, lack := s.expect } else none
    header := h.bytes }

/-- Bytes that a frame takes in the replay buffer: its UDP payload. -/
def Out.size : Out → Nat
  | .msg m _ f => 8 + f.header.length + lenOf m.msg
  | .hello .. => 104
  | .response .. => 56
  | .event .. => 72
  | .readData _ _ _ ws _ => 40 + 8 * ws.length
  | .spdm _ k .. => 40 + Config.spdmBytes k
  | _ => 40

/-- A frame with the link header that it goes out with. -/
def Out.linked (o : Out) (l : LinkHdr) : Out :=
  match o with
  | .msg m r f => .msg m r { f with link := some l }
  | .ack p v a g e f => .ack p v a g e { f with link := some l }
  | .nak p v s c d f => .nak p v s c d { f with link := some l }
  | .hello p r b m f => .hello p r b m { f with link := some l }
  | .launchAck d c k f => .launchAck d c k (f.map fun q => { q with link := some l })
  | .hostNak d c k f => .hostNak d c k (f.map fun q => { q with link := some l })
  | .response p d c v o t q x f => .response p d c v o t q x (f.map fun q => { q with link := some l })
  | .readData p d c w f => .readData p d c w (f.map fun q => { q with link := some l })
  | .spdm a k c g f => .spdm a k c g (f.map fun q => { q with link := some l })
  | o => o

/-- Whether a sub-port takes a frame of a channel: its priority is not paused (R334), and on a direct port the replay buffer of
256 KiB has room (R348). -/
def Node.subTakes (n : Node) (p s vc size : Nat) : Bool :=
  let x := n.sub p s
  let paused := match n.subCfg p s with
    | none => false
    | some c => bit n.tshCfg 1 && c.vlan != 0 && x.paused.contains (pcpFor c vc)
  !paused && (!n.isDirect p s || decide (sumOf (fun e => e.2.size) x.replay + size ≤ 262144))

/-- Whether a route's sub-port takes a frame of a channel now: none of that channel waits there before it. -/
def Node.portTakes (n : Node) (r : Route) (vc size : Nat) : Bool :=
  n.subTakes r.port r.sub vc size && !(n.sub r.port r.sub).waitOut.any (·.1 == vc)

/-- A frame goes out on a sub-port: on a direct one it takes the next link sequence and stays in the replay buffer (R348). -/
def Node.putFrame (n : Node) (p s : Nat) (o : Out) : Node :=
  if n.isDirect p s then
    let x := n.sub p s
    let o1 := o.linked { lseq := x.lseq, lackv := true, rreq := false, lack := x.expect }
    { n.setSub p s { x with replay := x.replay ++ [(x.lseq, o1)], lseq := (x.lseq + 1) % 2 ^ 24 } with out := n.out ++ [o1] }
  else { n with out := n.out ++ [o] }

/-- Put a frame on a route; it waits where the sub-port does not take it (R334, R348). -/
def Node.emitVia (n : Node) (r : Route) (vc ctx : Nat) (h : WireHdr) (mk : Packet → Out) : Node :=
  let o := mk (n.packet r vc ctx h)
  if n.portTakes r vc o.size then n.putFrame r.port r.sub o
  else
    let x := n.sub r.port r.sub
    n.setSub r.port r.sub { x with waitOut := x.waitOut ++ [(vc, o)] }

/-- The frames that wait on a sub-port go as far as they may, each channel's in order. -/
def Node.subGo (n : Node) (p s : Nat) : Node :=
  let ws := (n.sub p s).waitOut
  (ws.foldl (fun (r : List Nat × Node) w =>
    if r.1.contains w.1 || !r.2.subTakes p s w.1 w.2.size then
      (insertNew w.1 r.1, r.2.setSub p s { r.2.sub p s with waitOut := (r.2.sub p s).waitOut ++ [w] })
    else (r.1, r.2.putFrame p s w.2)) ([], n.setSub p s { n.sub p s with waitOut := [] })).2

/-- The frames that wait on any sub-port. -/
def Node.framesGo (n : Node) : Node :=
  n.subs.foldl (fun m kv => if kv.2.waitOut.isEmpty then m else m.subGo (kv.1 / 4) (kv.1 % 4)) n

/-- Put a frame on the wire towards node `d`, if it has a usable route. -/
def Node.emit (n : Node) (d vc ctx : Nat) (h : WireHdr) (mk : Packet → Out) : Node :=
  match n.routeFor d ctx with
  | none => n
  | some r => n.emitVia r vc ctx h mk

/-- A base header of this node's. -/
def Node.header (n : Node) (typ vc dst : Nat) (tspec : Word) : WireHdr :=
  { ver := 1, typ := typ, vc := vc, retx := false, mc := false, src := n.self, dst := dst, ctx := 0, len := 0, seq := 0
    grant := none, jobtag := n.job.id % 2 ^ 32, tspec := tspec.toNat, residue := none }

/-- The base header of a message. -/
def Node.msgHeader (n : Node) (m : OutMsg) (retx : Bool) : WireHdr :=
  { n.header (typeOf m.msg) m.vc m.dst (tspecOf m.msg) with
    retx := retx, mc := m.mc, ctx := m.ctx, jobtag := m.jobtag, len := lenOf m.msg, seq := m.seq, residue := m.res }

/-- Put a message on the wire. -/
def Node.emitMsg (n : Node) (m : OutMsg) (retx : Bool) : Node :=
  n.emit m.dst m.vc m.ctx (n.msgHeader m retx) (.msg m retx)

/-! ### When a message may go (R334, R343, R346, R348) -/

/-- Whether the peer has a usable route and credit for its channel's next sequence. -/
def Peer.credit (p : Peer) (vc : Nat) : Bool :=
  !p.usable.isEmpty && mayGo (Map.getD p.limit vc 0) (Map.getD p.sendSeq vc 0)

/-- Whether a message's route takes it now. -/
def Node.routeTakes (n : Node) (m : OutMsg) : Bool :=
  match n.routeFor m.dst m.ctx with
  | none => false
  | some r => n.portTakes r m.vc (8 + udpBytes m.res.isSome (lenOf m.msg))

/-- Whether a message has credit and a route that takes it. -/
def Node.mayPass (n : Node) (m : OutMsg) : Bool := (n.peer m.dst).credit m.vc && n.routeTakes m

/-- Whether a message may go at once: nothing of its channel waits before it. -/
def Node.clear (n : Node) (m : OutMsg) : Bool := n.mayPass m && !(n.peer m.dst).waiting.any (·.vc == m.vc)

/-- A message before it is sent. -/
def OutMsg.make (dst vc ctx : Nat) (mc : Bool) (res : Option Nat) (msg : Msg) : OutMsg :=
  { dst := dst, vc := vc, seq := 0, ctx := ctx, mc := mc, res := res, msg := msg, jobtag := 0, tries := 0 }

/-- The channel of the request that a reply answers; a request's credit is freed once its reply is sent (R344). -/
def askedOn : Msg → Option Nat
  | .done .. => some 2
  | .sealAck .. | .rendAck .. => some 6
  | .getData .. | .putDone .. => some 7
  | _ => none

/-- Send a message that may go: it takes the next sequence of its channel and is kept until an ACK covers it. A reply frees the
credit of its request, which an ACK is due to grant again. -/
def Node.transmit (n : Node) (m : OutMsg) : Node :=
  let p := n.peer m.dst
  let m1 := { m with seq := Map.getD p.sendSeq m.vc 0, tries := 1 }
  let n1 := n.setPeer m.dst { p with
    sendSeq := Map.put p.sendSeq m.vc ((m1.seq + 1) % 2 ^ 32), unacked := p.unacked ++ [m1]
    ackDue := match askedOn m.msg with
      | none => p.ackDue
      | some v => insertNew v p.ackDue }
  n1.emitMsg m1 false

/-- Send a message of the job with a tag, or let it wait behind others of its channel, for credit or for a route that takes it
(R346, R361). What waits is what its context, thread or engine offers and the transmitter has not taken (log entry 91). -/
def Node.sendFor (n : Node) (tag dst vc ctx : Nat) (mc : Bool) (res : Option Nat) (msg : Msg) : Node :=
  let m := { OutMsg.make dst vc ctx mc res msg with jobtag := tag }
  let p := n.peer dst
  if n.clear m then n.transmit m else n.setPeer dst { p with waiting := p.waiting ++ [m] }

/-- Send a message of the loaded job. -/
def Node.send (n : Node) (dst vc ctx : Nat) (mc : Bool) (res : Option Nat) (msg : Msg) : Node :=
  n.sendFor (n.job.id % 2 ^ 32) dst vc ctx mc res msg

/-! ### The transmitter's order (R342) -/

/-- The channel after one in the rotation of deficit round robin. -/
def drrNext : Nat → Nat
  | 2 => 4
  | 4 => 5
  | 5 => 6
  | 6 => 7
  | _ => 2

/-- Deficit round robin with quanta of 8,192 bytes: from the channel whose turn it is, the channel served, and what each has
left. `sizes` gives the bytes of each channel's next message. -/
def drrPick (sizes : Map Nat) : Nat → Nat → Map Nat → Option (Nat × Map Nat)
  | 0, _, _ => none
  | fuel + 1, turn, left =>
    let go (l : Map Nat) : Option (Nat × Map Nat) :=
      let next := drrNext turn
      drrPick sizes fuel next (Map.put l next (Map.getD l next 0 + 8192))
    match Map.look sizes turn with
    | none => go (Map.del left turn)
    | some len =>
      if len ≤ Map.getD left turn 0 then some (turn, Map.put left turn (Map.getD left turn 0 - len)) else go left

/-- The oldest waiting message of each channel towards each of the peers `ds`, where it may go now. -/
def Node.heads (n : Node) (ds : List Nat) : List OutMsg :=
  ds.flatMap fun d => (List.range 8).filterMap fun v => ((n.peer d).waiting.find? (·.vc == v)).filter n.mayPass

/-- Whether two messages leave by one sub-port. -/
def Node.samePort (n : Node) (a b : OutMsg) : Bool :=
  match n.routeFor a.dst a.ctx, n.routeFor b.dst b.ctx with
  | some r, some q => r.port == q.port && r.sub == q.sub
  | _, _ => false

/-- The waiting message that goes next on the sub-port of the first that may go: of VC0, VC1 and VC3 in strict priority, else by
the rotation of that sub-port. Peers that share it are served in ascending order within a channel (DESIGN CHOICE, log entry
82). -/
def Node.pickWaiting (n : Node) (ds : List Nat) : Option (OutMsg × Node) :=
  match n.heads ds with
  | [] => none
  | m :: t =>
    let mine := m :: t.filter (n.samePort m)
    match [0, 1, 3].findSome? fun v => mine.find? (·.vc == v) with
    | some q => some (q, n)
    | none =>
      match n.routeFor m.dst m.ctx with
      | none => none
      | some r =>
        let s := n.sub r.port r.sub
        let sizes := mine.foldr (fun q l => Map.put l q.vc (lenOf q.msg)) []
        match drrPick sizes 12 s.turn s.deficit with
        | none => some (m, n)
        | some (v, left) => (mine.find? (·.vc == v)).map fun q => (q, n.setSub r.port r.sub { s with turn := v, deficit := left })

/-- Send what waits for the peers `ds` while it may go. -/
def Node.flushOf (n : Node) (ds : List Nat) : Nat → Node
  | 0 => n
  | fuel + 1 =>
    match n.pickWaiting ds with
    | none => n
    | some (m, k) =>
      let p := k.peer m.dst
      ((k.setPeer m.dst { p with waiting := p.waiting.erase m }).transmit m).flushOf ds fuel

/-- Send what waits for peer `d` while it may go. -/
def Node.flush (n : Node) (d : Nat) (fuel : Nat) : Node := n.flushOf [d] fuel

/-- Send what waits for any peer while it may go. -/
def Node.flushAll (n : Node) : Node :=
  n.flushOf (n.peers.map (·.1)) (sumOf (fun kv => kv.2.waiting.length) n.peers)

/-! ### Acknowledgement and refusal -/

/-- Messages of a peer and channel that this node has accepted or keeps and whose credit stays consumed: held, ahead of a gap,
or with a reply that waits (R344). -/
def Node.heldOf (n : Node) (d vc : Nat) : Nat :=
  (n.held.filter fun hm => hm.1.src == d && hm.1.vc == vc).length
    + ((n.peer d).early.filter fun hm => hm.1.vc == vc).length
    + ((n.peer d).waiting.filter fun m => askedOn m.msg == some vc).length

/-- The credit limit to grant (R343, R345): never lower than the last. -/
def Node.grantOf (n : Node) (d vc : Nat) : Nat :=
  let p := n.peer d
  let l := (Map.getD p.nextAcc vc 0 + (initCredit vc - n.heldOf d vc)) % 65536
  match Map.look p.granted vc with
  | none => l
  | some g => if raises g l then l else g

/-- A message from another node that was held is applied or discarded: its credit is free, which an ACK is due to grant again
(R344). -/
def Node.freed (n : Node) (h : Header) : Node :=
  if h.src = n.self then n
  else
    let p := n.peer h.src
    n.setPeer h.src { p with ackDue := insertNew h.vc p.ackDue }

/-! ### This side's pauses (R334) -/

/-- Messages that a sub-port's staging holds for a priority: held, or ahead of a gap. -/
def Node.staged (n : Node) (c : SubPortCfg) (p s prio : Nat) : Nat :=
  let mine (h : Header) : Bool := h.frame.port == p && h.frame.sub == s && pcpFor c h.vc == prio
  (n.held.filter fun hm => mine hm.1).length + sumOf (fun kv : Nat × Peer => (kv.2.early.filter fun hm => mine hm.1).length) n.peers

/-- Staging of a sub-port for a priority, in messages: the initial credits of its channels (DESIGN CHOICE, log entry 76). -/
def stagingOf (c : SubPortCfg) (prio : Nat) : Nat := sumOf initCredit ((List.range 8).filter fun v => pcpFor c v == prio)

/-- A priority whose staging is more than 75 % full is paused, and released when it falls below 50 %, while PFC is 1 on a tagged
sub-port. -/
def Node.pfcPrio (n : Node) (c : SubPortCfg) (p s prio : Nat) : Node :=
  let x := n.sub p s
  let used := n.staged c p s prio
  let size := stagingOf c prio
  if !x.pausing.contains prio && decide (3 * size < 4 * used) then
    { n.setSub p s { x with pausing := x.pausing ++ [prio] } with out := n.out ++ [.pfc p s prio true] }
  else if x.pausing.contains prio && decide (2 * used < size) then
    { n.setSub p s { x with pausing := x.pausing.filter (· ≠ prio) } with out := n.out ++ [.pfc p s prio false] }
  else n

/-- The pauses of a sub-port, as its staging now stands. -/
def Node.pfcCheck (n : Node) (p s : Nat) : Node :=
  match n.subCfg p s with
  | none => n
  | some c =>
    if bit n.tshCfg 1 && c.vlan != 0 && (n.sub p s).up then (List.range 8).foldl (fun m q => m.pfcPrio c p s q) n else n

/-- The pauses of every sub-port. -/
def Node.pfcAll (n : Node) : Node := n.subs.foldl (fun m kv => m.pfcCheck (kv.1 / 4) (kv.1 % 4)) n

/-- TSPEC of an ACK (R338). -/
def ackSpec (seq vc : Nat) (ece : Bool) : Word := setFld (setFld (setFld 0 0 32 seq) 32 3 vc) 35 1 (b2n ece)
/-- TSPEC of a NAK. -/
def nakSpec (seq vc code detail : Nat) : Word := setFld (setFld (setFld (setFld 0 0 32 seq) 32 3 vc) 40 8 code) 48 16 detail

/-- Send an ACK for channel `vc` of peer `d` (R349), with its credit and the ECE mark of R333; without a usable route it stays
due. -/
def Node.sendAck (n : Node) (d vc : Nat) : Node :=
  let p := n.peer d
  let g := n.grantOf d vc
  let seq := Map.getD p.nextAcc vc 0
  let ece := p.eceDue.contains vc
  if (n.routeFor d 0).isNone then { n with peers := Map.put n.peers d { p with ackDue := insertNew vc p.ackDue } }
  else (n.setPeer d { p with
    granted := Map.put p.granted vc g, ackDue := p.ackDue.filter (· ≠ vc), eceDue := p.eceDue.filter (· ≠ vc) }).emit d vc 0
      { n.header 9 vc d (ackSpec seq vc ece) with grant := some (vc, g) } (.ack d vc seq g ece)

/-- Send a NAK (R351). -/
def Node.nak (n : Node) (d vc seq code detail : Nat) : Node :=
  n.emit d vc 0 (n.header 10 vc d (nakSpec seq vc code detail)) (.nak d vc seq code detail)

/-- The routes to node `d` by a sub-port and an address. -/
def Node.routesBy (n : Node) (d port sub src : Nat) : List Nat :=
  (n.routes d).zipIdx.filterMap fun ri => if ri.1.port == port && ri.1.sub == sub && ri.1.ip == src then some ri.2 else none

/-- The route by which a message came: the first of its sub-port and source address, else the first of that address. -/
def Node.wayBack (n : Node) (h : Header) : Option Route :=
  match (n.routesBy h.src h.frame.port h.frame.sub h.frame.src)[0]?.bind fun i => (n.routes h.src)[i]? with
  | some r => some r
  | none => (n.routes h.src).find? (·.ip == h.frame.src)

/-- Send a NAK back by the way on which a message came (R354: before the peer is usable). -/
def Node.nakBack (n : Node) (h : Header) (seq vc code detail : Nat) : Node :=
  match n.wayBack h with
  | none => n
  | some r => n.emitVia r vc 0 (n.header 10 vc h.src (nakSpec seq vc code detail)) (.nak h.src vc seq code detail)

/-- Record a peer event (R366) and send it (20 R595 code 8). Kinds: 1 straggler, 2 unreachable, 3 reset, 4 version,
5 NOT_MEMBER. -/
def Node.peerEvent (n : Node) (kind group node ctx : Nat) : Node :=
  let v := firstEvt n.peerEvt (setFld (setFld (setFld (setFld 0 52 4 kind) 40 12 group) 28 12 node) 0 12 ctx)
  ({ n with peerEvt := v }).event 8 0xFFFF v

/-- Members of a multicast group (11 R357). -/
def Node.group (n : Node) (g : Nat) : List Nat := Map.getD n.job.mcast g []

/-- Children of this node in the commit tree (13 R404). -/
def Node.children (n : Node) : List Nat := (span (16 * n.job.node + 1) 16).filter (· < n.job.nnodes)

/-- Parent of this node. -/
def Node.parent (n : Node) : Nat := (n.job.node - 1) / 16

end Sys2Proof.Machine
end

