-- ==== Sys2Proof/Machine/Guard.lean ====
section
/-! DEFINITION. The maps and the fencing of physical tiles (14 R438-R440, 02 R52), check events (14 R455), RETRACT
tokens (04 R145, 14 R435-R437) and tile faults with their recurrence rule (03 R103-R105, 04 R146). -/
namespace Sys2Proof.Machine

/-! ### Physical tiles -/

/-- Physical tile `p`. -/
def Node.physTile (n : Node) (p : Nat) : Phys := Map.getD n.guard.phys p .healthy

/-- Replace physical tile `p`. -/
def Node.setPhys (n : Node) (p : Nat) (x : Phys) : Node :=
  { n with guard := { n.guard with phys := Map.put n.guard.phys p x } }

/-- The logical tile whose factory position is `p`, if any (log entry 10). -/
def factoryLt (p : Nat) : Option Nat :=
  if p % Config.physPerDie < Config.ltPerDie then some (Config.ltPerDie * physDie p + p % Config.physPerDie) else none

/-- Whether physical tile `p` backs a logical tile. -/
def Node.isMapped (n : Node) (p : Nat) : Bool :=
  (n.guard.lmap.any fun kv => kv.2 == p && n.backed kv.1)
    || (match factoryLt p with
        | none => false
        | some lt => (Map.look n.guard.lmap lt).isNone && n.backed lt)

/-- A healthy spare: neither defective nor mapped (18 R535). -/
def Node.isSpare (n : Node) (p : Nat) : Bool := (n.physTile p).state == 0 && !n.isMapped p

/-- The healthy spares of die `d`, in the order of R439: lowest column, then lowest row. -/
def Node.spares (n : Node) (d : Nat) : List Nat :=
  (span (Config.physPerDie * d) Config.physPerDie).filter n.isSpare

/-- Die of a logical tile (02 R41). -/
def dieOf (lt : Nat) : Nat := if lt < Config.ltPerDie then 0 else 1

/-- The marked tiles of die `d` that the slice uses, in ascending order. -/
def Node.marked (n : Node) (d : Nat) : List Nat := n.usedTiles.filter fun lt => dieOf lt == d && (n.tile lt).shadowOk

/-- The rotation of a die (14 R457): free where the die has no healthy spare. -/
def Node.rotation (n : Node) (a d : Nat) : Nat :=
  let s := (n.spares d).length
  if s = 0 then Config.freeField (n.free + d) a else ceilDiv (n.marked d).length s

/-- ERM_SHADOW (14 R457). From a Warm reset, which it survives, until phase 4 makes the maps again it reads as before. -/
def Node.shadowWord (n : Node) (a : Nat) : Word :=
  match n.guard.kept with
  | some w => w
  | none => setFld (setFld (setFld 0 32 16 (Nat.max (n.rotation a 0) (n.rotation a 1))) 8 8 (n.spares 1).length)
      0 8 (n.spares 0).length

/-- The spare that a fence takes: one that took part in a shadow mismatch in this step is passed over (R439). -/
def Node.fenceSpare (n : Node) (d : Nat) : Option Nat := (n.spares d).find? fun p => (n.physTile p).mism == 0

/-- Backed logical tiles of die `d`. -/
def Node.backedOf (n : Node) (d : Nat) : Nat := if d = 0 then n.guard.backed0 else n.guard.backed1

/-! ### Check events (R455, 20 R595 code 6) -/

/-- The fields of ERM_CHK_EVT below VALID and MORE. -/
def chkWord (kind lt f j p thr pc : Nat) : Word :=
  setFld (setFld (setFld (setFld (setFld (setFld (setFld (setFld (setFld 0 58 4 kind) 46 12 lt) 45 1 f) 40 5 j)
    39 1 (physDie p)) 34 5 (physCol p)) 28 6 (physRow p)) 25 3 thr) 13 12 pc

/-- Record a check event and send it. Kinds: 1 check failure, 2 shadow mismatch, 3 Damask fenced, 4 tile fenced,
5 capacity short, 6 unresolved check, 7 late detection. -/
def Node.chkEvent (n : Node) (kind lt f j p thr pc : Nat) : Node :=
  let v := firstEvt n.guard.chkEvt (chkWord kind lt f j p thr pc)
  ({ n with guard := { n.guard with chkEvt := v } }).event 6 lt v

/-- Ask for Abort because of tile `lt`, with the job-abort event's reason: 1 plan fault, 2 plan retract, 3 unresolved
check (20 R595 code 9). -/
def Node.abortJob (n : Node) (lt reason : Nat) : Node := (n.requestAbort).event 9 lt (BitVec.ofNat 64 reason)

/-- The tile after its TLC registers took their reset values (R439). -/
def Tile.tlcReset (x : Tile) : Tile :=
  { x with hold := false, dbgEn := false, force := false, flags := 0, fault := .clear, hsk := 0, issued := 0 }

/-- Make the highest-numbered backed logical tile of a die unbacked. -/
def Node.dropBacked (n : Node) (d : Nat) : Node :=
  { n with guard := if d = 0 then { n.guard with backed0 := n.guard.backed0 - 1 }
                    else { n.guard with backed1 := n.guard.backed1 - 1 } }

/-- A die has no healthy spare left (R440): the lost logical tile takes the physical tile of the highest-numbered
backed one, which becomes unbacked. -/
def Node.capacityShort (n : Node) (lt : Nat) : Node :=
  let d := dieOf lt
  let v := Config.ltPerDie * d + (n.backedOf d - 1)
  let p := n.physOf v
  let n1 := n.dropBacked d
  let n2 := if v = lt then n1 else { n1 with guard := { n1.guard with lmap := Map.put n1.guard.lmap lt p } }
  let n3 := (n2.chkEvent 5 v 0 0 p 0 0).noteEvt 9 v 0 0
  if (n.tile v).used then n3.requestAbort else n3

/-- What a copy of a tile's SRAM and stores finds (R439, R442): an uncorrectable word is an event (10 R320). -/
def Node.copyFinds (n : Node) (lt : Nat) : Node :=
  let x := n.tile lt
  match x.bad with
  | w :: _ => n.uncorrectable noView 0 (sramAddr lt (8 * w))
  | [] => if x.ibad.isEmpty && x.dbad.isEmpty then n else n.innerBad lt

/-- A tile's SRAM and stores as a copy is left with them: a word with one or two bits in error is written corrected. -/
def Tile.copied (x : Tile) : Tile := { x with soft := [], isoft := [], dsoft := [] }

/-- The copy of a tile's SRAM and stores to another physical tile (R439 step 3). -/
def Node.copyTile (n : Node) (lt : Nat) : Node := (n.modTile lt Tile.copied).copyFinds lt

/-- Fence a spare, physical tile `q`, that shadows `lt`: it is no longer healthy (R439). -/
def Node.fenceSpareTile (n : Node) (lt q : Nat) : Node :=
  let n1 : Node := { n.setPhys q { n.physTile q with state := 2 } with retain := true }
  (n1.chkEvent 4 lt 0 0 q 0 0).noteEvt 5 lt (BitVec.ofNat 64 q) (BitVec.ofNat 64 q)

/-- What is left of a shadow that has ended: it issues nothing and takes no traffic (02 R40), and until the attempt ends it
counts on physical tile `q` in the sum of its group (02 R54, 15 R470). -/
def Tile.ended (x : Tile) (q : Nat) : Tile :=
  { Tile.idle with used := x.used, allow := x.allow, phases := x.phases, parked := true, heldAt := some q }

/-- Spare `q` leaves shadow duty, if it has it (R439 step 4): its threads, units and stream contexts are gone. -/
def Node.endDuty (n : Node) (q : Nat) : Node :=
  match n.guard.shadows.find? (·.2 == q) with
  | none => n
  | some a => { n with
      tiles := Map.put n.tiles (4096 + a.1) ((n.tile (4096 + a.1)).ended q)
      ctxs := n.ctxs.filter fun kv => kv.2.lt != 4096 + a.1
      guard := { n.guard with shadows := n.guard.shadows.filter (·.2 ≠ q) } }

/-- Fence a spare in the course of the attempt: it leaves shadow duty (R439). -/
def Node.fenceShadow (n : Node) (lt q : Nat) : Node := (n.fenceSpareTile lt q).endDuty q

/-- Fence the physical tile that backs `lt` (R439): before the module's verdict it taints the step, after it the
verdict stands (02 R52). The logical tile stops issuing until the next attempt, moves to a spare and keeps the
contents of its SRAM and stores; the map change is to be retained (18 R538). Two fences under one logical tile in one
step end it with Abort (R438). -/
def Node.fence (n : Node) (lt : Nat) : Node :=
  let p := n.physOf lt
  let n1 := if n.commit.sent.isNone then n.taint else n
  let n2 := n1.modTile lt fun x => { x.tlcReset with parked := true, fences := x.fences + 1, heldAt := x.heldAt <|> some p }
  let n3 : Node := { n2.setPhys p { n2.physTile p with state := 2 } with retain := true }
  let n4 := (n3.chkEvent 4 lt 0 0 p 0 0).copyTile lt
  let n5 : Node := match n4.fenceSpare (dieOf lt) with
    | some q =>
      let m := n4.endDuty q
      { m with guard := { m.guard with lmap := Map.put m.guard.lmap lt q } }
    | none => n4.capacityShort lt
  let n6 := n5.noteEvt 5 lt (BitVec.ofNat 64 p) (BitVec.ofNat 64 (n5.physOf lt))
  if 2 ≤ (n6.tile lt).fences then (n6.chkEvent 6 lt 0 0 (n6.physOf lt) 0 0).abortJob lt 3 else n6

/-! ### RETRACT tokens -/

/-- A RETRACT token reaches logical tile `lt` of this node (R437). Between attempts it marks the tile alone, for the attempt
of that epoch. -/
def Node.retractAt (n : Node) (lt srcNode srcLt reason epoch : Nat) : Node :=
  let x := n.tile lt
  let n1 := n.noteEvt 4 lt (BitVec.ofNat 64 (srcLt + 4096 * reason)) (BitVec.ofNat 64 srcNode)
  if epoch = x.epoch then
    let n2 := n1.modTile lt fun y => { y with tainted := true, verdict := some ((y.verdict).getD 1) }
    let n3 := if n2.shadowed lt then n2.modTile (4096 + lt) fun y => { y with tainted := true } else n2
    if n3.commit.running then n3.taint else n3
  else if epoch = (x.epoch + 1) % 256 then n1.modTile lt fun y => { y with taintNext := true }
  else { n with strStat := n.strStat ||| 2 }

/-- The destinations of a tile's RETRACT tokens (03 R71): each distinct pair of node and logical tile that an entry of
kind 1, 3 or 4 names. -/
def Node.retractDests (n : Node) (x : Tile) : List (Nat × Nat) :=
  (x.comm.filter fun c => c.kind == 1 || c.kind == 3 || c.kind == 4).foldl (fun l c =>
    let ds := if c.loc then [n.self] else if c.mc then n.group c.peerNode else [c.peerNode]
    ds.foldl (fun m d => if m.contains (d, c.peerLt) then m else m ++ [(d, c.peerLt)]) l) []

/-- Send a tile's RETRACT tokens (R145, R435 step 3): within the node they arrive at once, to another node they are
CTRL messages of kind 6. A shadow sends none (R443). -/
def Node.sendRetracts (n : Node) (t reason : Nat) (hw : Bool) : Node :=
  if isShadow t then n
  else
    let x := n.tile t
    (n.retractDests x).foldl (fun m d =>
      if d.1 = n.self then m.retractAt d.2 n.self t reason x.epoch
      else m.send d.1 1 0 false none (.retract d.2 t reason hw x.epoch)) n

/-! ### Faults -/

/-- Count a fault or a RETRACT for the recurrence rule (R105, R146): in a second attempt of the step it fences the
physical tile, in a third it asks for Abort. -/
def Node.recurrence (n : Node) (t : Nat) (retract : Bool) (cls thr pc : Nat) : Node :=
  let x := n.tile t
  let hit (r : Recur) : Bool := r.retract == retract && r.cls == cls && r.thr == thr && r.pc == pc
  match x.recur.find? hit with
  | none =>
    n.setTile t { x with recur := x.recur ++
      [{ retract := retract, cls := cls, thr := thr, pc := pc, times := 1, epoch := x.epoch }] }
  | some r =>
    if r.epoch = x.epoch then n
    else
      let bump (q : Recur) : Recur := bif hit q then { q with times := q.times + 1, epoch := x.epoch } else q
      let n1 := n.setTile t { x with recur := x.recur.map bump }
      if r.times = 1 then n1.fence t
      else n1.abortJob t (if retract then 2 else 1)

/-- TLC_FAULT as a word (03 R110). -/
def FaultRec.word (f : FaultRec) : Word :=
  setFld (setFld (setFld (setFld (setFld (setFld 0 32 32 f.detail.toNat) 8 12 f.pc) 7 1 (b2n f.more)) 4 3 f.thr)
    1 3 f.cls) 0 1 (b2n f.valid)

/-- Record a fault in TLC_FAULT and TLC_FAULT_ADDR (R110, R111): the first since VALID was cleared, and MORE for a
further one. Of faults of one interval the lower thread's is recorded: an interval runs to the tile's next issue (01 R10; which
commands it holds is the model's choice, log entry 87). -/
def Tile.recordFault (x : Tile) (cls thr pc : Nat) (detail : BitVec 32) (addr : Nat) : Tile :=
  if x.fault.valid && !(x.sameIv && decide (thr < x.fault.thr)) then { x with fault := { x.fault with more := true } }
  else { x with
    sameIv := true
    fault := { valid := true, more := x.fault.more || x.fault.valid, cls := cls, thr := thr, pc := pc, detail := detail,
               addr := addr % 2 ^ 48 } }

/-- The interval of R110 in which `f` acts ends with it. The spec says no more than that an interval lies between two issue
opportunities of the tile (01 R10); that the additions of a release list and the arrivals that an outcome lets in end theirs is
the model's choice (log entry 87). -/
def Node.oneInterval (n : Node) (f : Node → Node) : Node :=
  let m := f n
  { m with tiles := Map.mapVals (fun x => { x with sameIv := false }) m.tiles }

/-- Thread `i` of tile `t` takes a fault of class `cls` at `pc` (R104): it halts with its state intact, the record is
written and a tile event sent, the step is tainted, and the recurrence rule applies. A shadow's fault goes into its
digest and nowhere else (14 R443). -/
def Node.takeFault (n : Node) (t i cls pc : Nat) (detail : BitVec 32) (addr : Nat) : Node :=
  let n1 := n.modThread t i fun th => { th with wait := .halted }
  let n2 := n1.modTile t (·.recordFault cls i pc detail addr)
  let n3 := n2.digest t (2 ^ 59 + cls * 2 ^ 12 + pc)
  if isShadow t then n3.modTile t fun x => { x with tainted := true }
  else
    let n4 := n3.event 1 t (n3.tile t).fault.word
    let n5 := n4.noteEvt 1 t (BitVec.ofNat 64 (cls + 2 ^ 8 * pc)) (BitVec.ofNat 64 i)
    (n5.taintTile t).recurrence t false cls i pc

end Sys2Proof.Machine
end

