-- ==== Sys2Proof/Machine/Operands.lean ====
section
/-! DEFINITION. What every tile instruction shares: when it issues, its predicate and its reserved bits, what it
waits on, and the ways it ends (03 R81-R85, R106, R110, 04 R112-R115, R132). -/
namespace Sys2Proof.Machine

/-- Whether the tile group of tile key `t` is powered and not gated (02 R39, 15). -/
def Node.running (n : Node) (t : Nat) : Bool :=
  let g := Map.getD n.gov.tgs (groupOf (n.physOfKey t)) .off
  g.powered && !g.gated

/-- Whether TLC_CTL.HOLD keeps a tile key from issuing (R108, 04 R150). A shadow that a DBGBRK of its own holds is released with
its logical tile, whose register the management plane writes (DESIGN CHOICE, log entry 89). -/
def Node.isHeld (n : Node) (t : Nat) : Bool :=
  (n.tile t).hold && (!isShadow t || (n.tile (ltOf t)).hold)

/-- Whether the sequencer fetches for this thread at this opportunity (R81, R83, R108): not while a Tile reset holds the tile
(17 R508). -/
def Node.canFetch (n : Node) (x : Site) : Bool :=
  let t := n.tile x.tile
  let th := t.thread x.thr
  n.on && n.running x.tile && !n.isHeld x.tile && !t.inRst && !t.parked && !t.restart && th.hasCode && th.wait == .ready

/-- Whether an instruction of this thread can issue at this opportunity: its word can be read besides (10 R302). -/
def Node.canIssue (n : Node) (x : Site) : Bool :=
  n.canFetch x && !(n.tile x.tile).ibad.contains (n.thread x.tile x.thr).pc

/-- The tile after an issue: the interval in which a fault may take the place of another ends (R110); the counters of 20 R593 and the place where the search for the next ready thread begins
(R81). -/
def Tile.issueMark (t : Tile) (thr cost : Nat) : Tile :=
  { t with sameIv := false, issued := t.issued + 1, hsk := t.hsk + BitVec.ofNat 64 cost, rr := (thr + 1) % 8 }

/-- Whether the predicate of an instruction selects it (R113). -/
def Thread.selects (th : Thread) (x : Site) : Bool := th.getP x.ps ^^ x.pn

/-- The instruction faults (R104): class, address for TLC_FAULT_ADDR. DETAIL of class 1 is the instruction's bits
[63:32] (R110). -/
def Node.illegal (n : Node) (x : Site) : Node :=
  n.takeFault x.tile x.thr 1 (n.thread x.tile x.thr).pc x.hi 0

/-- An address-out-of-range fault of this instruction at address `a`. -/
def Node.outOfRange (n : Node) (x : Site) (a : Nat) : Node :=
  n.takeFault x.tile x.thr 2 (n.thread x.tile x.thr).pc 0 a

/-- DETAIL of a descriptor-invalid fault: the descriptor table index, a free value where the handle is unbound. -/
def Node.descDetail (n : Node) (idx : Option Nat) : BitVec 32 := BitVec.ofNat 32 (idx.getD (Config.freeDetail n.free))

/-- A descriptor-invalid fault of this instruction; DETAIL is the descriptor table index. -/
def Node.descInvalid (n : Node) (x : Site) (idx : Option Nat) : Node :=
  n.takeFree.takeFault x.tile x.thr 3 (n.thread x.tile x.thr).pc (n.descDetail idx) 0

/-- A tile instruction at its issue opportunity. `bad` is a reserved operand value of its encoding; `block` says what
its thread must wait on before the instruction can issue; `f` is its effect, the pc included.
Nothing happens while the thread is not ready (R81); a word that the instruction store cannot give is an uncorrectable
event, and nothing issues (10 R320). A reserved encoding faults whatever the predicate (R85, R106). A
false predicate takes one slot and moves the pc on. -/
def Node.issueAt (n : Node) (x : Site) (cost : Nat) (bad : Bool) (block : Node → Option Wait) (f : Node → Node) : Node :=
  if n.canIssue x then
    let mark (c : Nat) : Node := n.modTile x.tile (·.issueMark x.thr c)
    if bad || x.res != 0 then (mark cost).illegal x
    else if (n.thread x.tile x.thr).selects x then
      match block n with
      | some w => n.modThread x.tile x.thr fun th => { th with wait := w }
      | none => f (mark cost)
    else (mark 1).modThread x.tile x.thr (·.step)
  else if n.canFetch x then n.innerBad x.tile
  else n

/-- No wait before the issue. -/
def noWait : Node → Option Wait := fun _ => none

/-- An instruction whose whole effect is on the registers of its thread: `f`, then the next pc. -/
def Node.issueReg (n : Node) (x : Site) (cost : Nat) (bad : Bool) (f : Thread → Thread) : Node :=
  n.issueAt x cost bad noWait fun m => m.modThread x.tile x.thr fun th => (f th).step

/-- Move the pc of the issuing thread on. -/
def Node.advance (n : Node) (x : Site) : Node := n.modThread x.tile x.thr (·.step)

/-- Let the issuing thread wait. -/
def Node.setWait (n : Node) (x : Site) (w : Wait) : Node := n.modThread x.tile x.thr fun th => { th with wait := w }

/-- Threads of a tile that wait on a register, an array or a bound look again (R83): those whose DBGRD has not given
its value keep waiting (04 R149). -/
def Tile.wake (t : Tile) : Tile :=
  let pendingRd (i : Nat) : Bool := t.queue.any fun e => e.thr == i && (match e.op with
    | .dbgrd .. => true
    | _ => false)
  { t with thr := t.thr.map fun kv => (kv.1, match kv.2.wait with
      | .reg => if pendingRd kv.1 then kv.2 else { kv.2 with wait := .ready }
      | .bound => { kv.2 with wait := .ready }
      | .felt _ => { kv.2 with wait := .ready }
      | _ => kv.2) }

/-- Every tile's threads that wait on a bound or on a free stream context look again. -/
def Node.wakeAll (n : Node) : Node := { n with tiles := Map.mapVals Tile.wake n.tiles }

/-- A register that a TOPK has yet to write makes the thread wait (05 R181). -/
def vBusy (x : Site) (regs : List Nat) : Node → Option Wait := fun n =>
  if regs.any fun r => (n.thread x.tile x.thr).vbusy.contains r then some .reg else none

/-- The descriptor that handle `a` of the thread is bound to: its table index, if bound. -/
def Node.handle (n : Node) (x : Site) (a : Nat) : Option Nat := Map.look (n.thread x.tile x.thr).a a

/-- The descriptor at index `i` of a tile's descriptor store; none where the slice loaded none. -/
def Tile.desc (t : Tile) (i : Nat) : Option (List Word) := Map.look t.descs i

/-- The count of a job that a tile runs (R21): the committed step count of the attempt. -/
def Node.stepCount (n : Node) : Word := n.commit.now.step

end Sys2Proof.Machine
end

