-- ==== Sys2Proof/Machine/Layout.lean ====
section
/-! DEFINITION. Descriptors (08, 09 R272): their fields, where an element lies, walk order, extents, the descriptor
errors, and the reading and writing of elements. -/
namespace Sys2Proof.Machine

/-! ### Fields (R245, R246, R272) -/

/-- One side of a descriptor. -/
structure Side where
  base    : Nat
  fmt     : Nat
  bsz     : Nat
  persist : Bool
  alt     : Nat
  sbase   : Nat
  salt    : Nat
  perm    : Nat
  strides : List Int
  deriving DecidableEq, Repr

/-- A descriptor with its fields in place; `shift` is the offset of a SARM along dimension 4 (05 R182). -/
structure Desc where
  ver     : Nat
  kind    : Nat
  dims    : Nat
  accw    : Bool
  group   : Nat
  tensor  : Nat
  dnode   : Nat
  dloc    : Bool
  mcast   : Bool
  shared  : Bool
  pclass  : Nat
  notok   : Bool
  cthr    : Nat
  cctr    : Nat
  gen     : Nat
  sizes   : List Nat
  origins : List Int
  gsizes  : List Nat
  side0   : Side
  side1   : Side
  fill    : Nat
  sfill   : Nat
  shift   : Int
  resv    : Bool
  deriving DecidableEq, Repr

/-- Word `i` of a descriptor. -/
def dword (d : List Word) (i : Nat) : Word := d.getD i 0

/-- The side whose first word is `k`. -/
def parseSide (d : List Word) (k : Nat) : Side where
  base := fld (dword d k) 0 48
  fmt := fld (dword d k) 48 8
  bsz := fld (dword d k) 56 2
  persist := bit (dword d k) 58
  alt := fld (dword d (k + 1)) 0 48
  sbase := fld (dword d (k + 2)) 0 48
  salt := fld (dword d (k + 3)) 0 48
  perm := fld (dword d (k + 4)) 0 15
  strides := (List.range 5).map fun i => sgn (fld (dword d (k + 5 + i)) 0 40) 40

/-- Whether a side that a descriptor uses has a reserved field set (R245, R246, R248, R255). `noPerm` is side 0 of a
copy, `noPersist` an operand, `rec0` an accumulate-write side. -/
def sideResv (d : List Word) (k dims : Nat) (noPerm noPersist rec0 : Bool) : Bool :=
  let s := parseSide d k
  fld (dword d k) 59 5 != 0 || (noPersist && s.persist)
    || fld (dword d (k + 1)) 48 16 != 0 || (s.alt != 0 && !s.persist)
    || fld (dword d (k + 2)) 48 16 != 0 || (s.sbase != 0 && !isMx s.fmt)
    || fld (dword d (k + 3)) 48 16 != 0 || (s.salt != 0 && !(isMx s.fmt && s.persist))
    || fld (dword d (k + 4)) 15 49 != 0 || (noPerm && s.perm != 0)
    || ((List.range 5).any fun i => fld (dword d (k + 5 + i)) 40 24 != 0)
    || ((List.range 5).any fun i => decide (dims ≤ i) && (s.strides.getD i 0 != 0))
    || (rec0 && (s.fmt != 0 || s.bsz != 0))

/-- Whether words `a` to `a + n - 1` are zero. -/
def zeroWords (d : List Word) (a n : Nat) : Bool := (span a n).all fun i => dword d i == 0

/-- Width of the elements of a format code; zero for a reserved code. -/
def fmtWidth (c : Nat) : Nat := match elemOf c with
  | some t => t.width
  | none => 0

/-- Whether any reserved field of a descriptor is non-zero. -/
def descResv (d : List Word) (kind dims : Nat) (accw : Bool) : Bool :=
  let w0 := dword d 0
  let w1 := dword d 1
  let gs (i : Nat) : Nat := fld (dword d (9 + i / 2)) (32 * (i % 2)) 32
  fld w0 22 10 != 0 || fld (dword d 11) 32 32 != 0
    || (if kind = 0 then !zeroWords d 1 3
        else fld w1 24 40 != 0 || fld (dword d 2) 16 48 != 0 || dword d 3 != 0 || (bit w1 12 && fld w1 0 12 != 0))
    || ((List.range 5).any fun i => decide (dims ≤ i) && (dword d (4 + i) != 0 || gs i != 0))
    || (match kind with
        | 0 => sideResv d 12 dims false true false || !zeroWords d 22 10
        | 2 => fld (dword d 12) 40 24 != 0 || !zeroWords d 13 9 || sideResv d 22 dims false false false
               || decide (2 ^ fmtWidth (parseSide d 22).fmt ≤ fld (dword d 12) 0 32)
        | _ => sideResv d 12 dims true false false || sideResv d 22 dims false false accw)

/-- The descriptor that thirty-two words spell. -/
def parseDesc (d : List Word) : Desc :=
  let w0 := dword d 0
  let w1 := dword d 1
  let dims := fld w0 6 3
  let kind := fld w0 4 2
  { ver := fld w0 0 4, kind := kind, dims := dims, accw := bit w0 9, group := fld w0 10 12, tensor := fld w0 32 32
    dnode := fld w1 0 12, dloc := bit w1 12, mcast := bit w1 13, shared := bit w1 14, pclass := fld w1 15 2
    notok := bit w1 17, cthr := fld w1 18 3, cctr := fld w1 21 3, gen := fld (dword d 2) 0 16
    sizes := (List.range 5).map fun i => if i < dims then fld (dword d (4 + i)) 0 32 + 1 else 1
    origins := (List.range 5).map fun i => if i < dims then (fld (dword d (4 + i)) 32 32 : Int) else 0
    gsizes := (List.range 5).map fun i => if i < dims then fld (dword d (9 + i / 2)) (32 * (i % 2)) 32 + 1 else 1
    side0 := parseSide d 12, side1 := parseSide d 22
    fill := fld (dword d 12) 0 32, sfill := fld (dword d 12) 32 8, shift := 0
    resv := descResv d kind dims (bit w0 9) }

/-- The descriptor with its window moved by a SARM offset (05 R182). -/
def Desc.moved (d : Desc) (off : Int) : Desc :=
  { d with shift := off, origins := setAt d.origins 4 (d.origins.getD 4 0 + off) }

/-- The descriptor at index `i` of a tile's store. -/
def Tile.descAt (x : Tile) (i : Nat) : Option Desc := (x.desc i).map parseDesc

/-! ### Presentation and walks (R247, R262) -/

/-- The logical dimensions in presented order; a PERM of zero is the identity. -/
def Side.order (s : Side) : List Nat := if s.perm = 0 then [0, 1, 2, 3, 4] else (List.range 5).map fun p => bits s.perm (3 * p) 3

/-- Whether PERM meets R247. -/
def permOk (order : List Nat) (dims : Nat) : Bool :=
  ((List.range dims).all fun i => (order.take dims).contains i) && ((span dims (5 - dims)).all fun p => order.getD p 9 == p)

/-- All coordinates of a shape, the first dimension innermost. -/
def coords : List Nat → List (List Nat)
  | [] => [[]]
  | n :: t => (coords t).flatMap fun r => (List.range n).map (· :: r)

/-- Logical coordinates of presented ones. -/
def logical (order pc : List Nat) : List Nat := (List.range 5).map fun d => pc.getD (order.idxOf d) 0

/-- All local coordinates in the walk order that `order` names. -/
def Desc.walk (d : Desc) (order : List Nat) : List (List Nat) :=
  (coords (order.map fun i => d.sizes.getD i 1)).map (logical order)

/-- All local coordinates in ascending linear logical index. -/
def Desc.inOrder (d : Desc) : List (List Nat) := coords d.sizes

/-- Local size of presented dimension `p`. -/
def Desc.psize (d : Desc) (s : Side) (p : Nat) : Nat := d.sizes.getD (s.order.getD p p) 1

/-- Global coordinate of local coordinate `c` in presented dimension `p` (R253). -/
def Desc.pglobal (d : Desc) (s : Side) (p c : Nat) : Nat := ((c : Int) + d.origins.getD (s.order.getD p p) 0).toNat

/-- Global element index of local coordinates (R22, R23). -/
def Desc.gindex (d : Desc) (c : List Nat) : Nat :=
  ((List.range 5).foldl (fun (acc : Int × Int) i =>
    (acc.1 + ((c.getD i 0 : Int) + d.origins.getD i 0) * acc.2, acc.2 * (d.gsizes.getD i 1 : Int))) (0, 1)).1.toNat

/-! ### Where an element lies (R249, R255) -/

/-- A side with its persistent base resolved (03 R101). -/
structure SideAt where
  base    : Nat
  sbase   : Nat
  fmt     : Nat
  bsz     : Nat
  strides : List Int
  shift   : Int
  cell    : Bool        -- accumulate-write: elements are 96-byte records
  deriving DecidableEq, Repr

/-- Resolve a side: reads take base[c mod 2], writes base[1 − c mod 2], for count parity `par`. -/
def Desc.at1 (d : Desc) (s : Side) (par : Nat) (write cell : Bool) : SideAt :=
  let second := s.persist && ((par % 2 == 1) != write)
  { base := if second then s.alt else s.base, sbase := if second then s.salt else s.sbase
    fmt := s.fmt, bsz := s.bsz, strides := s.strides, shift := d.shift, cell := cell }

/-- Side 0 of a transfer or operand. -/
def Desc.read0 (d : Desc) (par : Nat) : SideAt := d.at1 d.side0 par false false

/-- Side 1 of a transfer. -/
def Desc.write1 (d : Desc) (par : Nat) : SideAt := d.at1 d.side1 par true d.accw

/-- The linear element number of local coordinates on a side. -/
def SideAt.line (s : SideAt) (c : List Nat) : Int :=
  (List.range 5).foldl (fun a i => a + (c.getD i 0 : Int) * s.strides.getD i 0) (s.shift * s.strides.getD 4 0)

/-- Width of a side's elements in bits. -/
def SideAt.width (s : SideAt) : Nat := if s.cell then 768 else fmtWidth s.fmt

/-- Bit address of an element: eight times the byte address plus the bit. -/
def SideAt.bitOf (s : SideAt) (l : Int) : Int :=
  if s.cell then 8 * ((s.base : Int) + 96 * l)
  else if isIbf s.fmt then
    let n : Int := blockElems s.bsz
    8 * ((s.base : Int) + l / n * blockBytes (fmtWidth s.fmt) s.bsz + 1) + l % n * fmtWidth s.fmt
  else 8 * (s.base : Int) + l * fmtWidth s.fmt

/-- Byte address of the scale of the block that holds an element. -/
def SideAt.scaleOf (s : SideAt) (l : Int) : Option Int :=
  let n : Int := blockElems s.bsz
  if s.cell then none
  else if isIbf s.fmt then some ((s.base : Int) + l / n * blockBytes (fmtWidth s.fmt) s.bsz)
  else if isMx s.fmt then some ((s.sbase : Int) + l / n)
  else none

/-- Lowest and highest linear element number that a side reaches. -/
def Desc.reach (d : Desc) (s : SideAt) : Int × Int :=
  (List.range 5).foldl (fun (r : Int × Int) i =>
    let t := ((d.sizes.getD i 1 : Int) - 1) * s.strides.getD i 0
    if t < 0 then (r.1 + t, r.2) else (r.1, r.2 + t)) (s.line [], s.line [])

/-- The extents of a side as pairs of first and last byte (R252). -/
def Desc.extents (d : Desc) (s : SideAt) : List (Int × Int) :=
  let (lo, hi) := d.reach s
  let last := (s.bitOf hi + s.width - 1) / 8
  if s.cell then [((s.base : Int) + 96 * lo, last)]
  else if isIbf s.fmt then [((s.scaleOf lo).getD 0, last)]
  else if isMx s.fmt then [(s.bitOf lo / 8, last), ((s.scaleOf lo).getD 0, (s.scaleOf hi).getD 0)]
  else [(s.bitOf lo / 8, last)]

/-- Whether two extents share a byte. -/
def overlap (a b : Int × Int) : Bool := decide (a.1 ≤ b.2 ∧ b.1 ≤ a.2)

/-- The first byte of an extent that is in no memory of this node, if any. -/
def Node.extentBad (n : Node) (e : Int × Int) : Bool :=
  decide (e.1 < 0) || (n.badAddr e.1.toNat (e.2 - e.1 + 1).toNat).isSome

/-- The same for a side on another node. -/
def extentBadRemote (e : Int × Int) : Bool := decide (e.1 < 0) || (remoteBad e.1.toNat (e.2 - e.1 + 1).toNat).isSome

/-- Whether an extent lies in the SRAM of logical tile `lt`. -/
def extentIn (lt : Nat) (e : Int × Int) : Bool :=
  decide ((sramAddr lt 0 : Int) ≤ e.1 ∧ e.2 < (sramAddr lt 0 : Int) + Config.sramBytes)

/-! ### Descriptor errors (R250, R256, R274) -/

/-- Whether a block side meets R250 under a presented order. -/
def Desc.blockOk (d : Desc) (s : Side) (order : List Nat) : Bool :=
  let n := blockElems s.bsz
  let p := order.getD 0 0
  !isBlock s.fmt || (s.strides.getD p 0 == 1 && d.sizes.getD p 1 % n == 0
    && (List.range 5).all fun i => i == p || (s.strides.getD i 0) % (n : Int) == 0)

/-- Errors of the descriptor as a whole. -/
def Desc.headBad (d : Desc) : Bool :=
  d.ver != 1 || d.kind == 3 || d.dims == 0 || decide (5 < d.dims) || d.resv
    || ((List.range 5).any fun i => decide (d.origins.getD i 0 < 0 ∨ (d.gsizes.getD i 1 : Int) < d.origins.getD i 0 + d.sizes.getD i 1))
    || decide (2 ^ 64 < d.gsizes.foldl (· * ·) 1)
    || (d.accw && d.kind != 1)

/-- Errors of one side's format and order. -/
def Desc.sideBad (d : Desc) (s : Side) (order : List Nat) : Bool :=
  (elemOf s.fmt).isNone || (isMx s.fmt && s.bsz != 1) || !d.blockOk s order

/-- Whether a written side has a zero stride (R255). -/
def Desc.zeroStride (d : Desc) (s : Side) : Bool := (List.range d.dims).any fun i => s.strides.getD i 0 == 0

/-- How an M instruction or TOPK uses its descriptor. -/
inductive Use
  | operand | topk | readout
  deriving DecidableEq, Repr

/-- Whether the format of a side is allowed for a use (R188, 05 R169, R181). -/
def Use.fmtOk (u : Use) (s : Side) : Bool :=
  match u with
  | .operand => s.fmt != 7 && s.fmt != 8
  | .topk => decide (s.fmt ≤ 5)
  | .readout => !isBlock s.fmt || decide (blockElems s.bsz ≤ 32)

/-- Whether a KIND 0 descriptor, used by a tile of logical number `lt`, has an error (R153, R256). -/
def Desc.operandBad (d : Desc) (u : Use) (lt : Nat) : Bool :=
  d.headBad || d.kind != 0 || !permOk d.side0.order d.dims || d.sideBad d.side0 d.side0.order || !u.fmtOk d.side0
    || (u == .readout && d.zeroStride d.side0)
    || !((d.extents (d.read0 0)).all (extentIn lt))

/-- An MX and IBF repack pair (R286). -/
def repackPair (a b : Side) : Bool :=
  a.bsz == 1 && b.bsz == 1 && ((isMx a.fmt && b.fmt == a.fmt + 8) || (isMx b.fmt && a.fmt == b.fmt + 8))

/-- A persistent side of more than 16 bits (13 R400). -/
def Side.widePersist (s : Side) : Bool := s.persist && (s.fmt == 0 || s.fmt == 8)

/-- Whether the extent of a local side lies in GDDR7 or the CXL tier. -/
def Node.tierExtent (n : Node) (e : Int × Int) : Bool :=
  !n.extentBad e && (match n.place e.1.toNat with
    | .gddr | .cxl => true
    | _ => false)

/-- The same for a side on another node. -/
def tierRemote (e : Int × Int) : Bool :=
  !extentBadRemote e && (decide (e.2 < Config.gddrEnd) || decide ((Config.cxlBase : Int) ≤ e.1))

/-- The regions of R371: start, length and bucket of each local region. -/
def Node.localRegions (n : Node) : List (Nat × Nat × Nat) := n.job.red.map fun kv => (kv.2.localB, kv.2.nblk * 6144, kv.1)

/-- The bucket whose local region holds an extent whole. -/
def Node.wholeIn (n : Node) (e : Int × Int) : Option (Nat × Nat) :=
  (n.localRegions.find? fun r => decide ((r.1 : Int) ≤ e.1 ∧ e.2 < (r.1 + r.2.1 : Nat))).map fun r => (r.2.2, r.1)

/-- Whether an extent touches a local region. -/
def Node.touchesLocal (n : Node) (e : Int × Int) : Bool :=
  n.localRegions.any fun r => overlap e ((r.1 : Int), ((r.1 + r.2.1 : Nat) : Int) - 1)

/-- Bytes that a side's elements and scales touch, as addresses. -/
def Desc.bytesOf (d : Desc) (s : SideAt) : List Int :=
  d.inOrder.flatMap fun c =>
    let l := s.line c
    let b := s.bitOf l
    let own := (List.range (((b + s.width - 1) / 8 - b / 8).toNat + 1)).map fun (i : Nat) => b / 8 + (i : Int)
    match s.scaleOf l with
    | none => own
    | some a => a :: own

/-- Whether a plain copy writes whole records of a local region that begins at `b` (R372). -/
def Desc.wholeRecords (d : Desc) (s : SideAt) (b : Nat) : Bool :=
  let bs := d.bytesOf s
  bs.all fun a =>
    let first := (b : Int) + (a - b) / 96 * 96
    (List.range 96).all fun (i : Nat) => bs.contains (first + (i : Int))

/-- Errors with local regions (12 R372): a side 1 that touches one lies wholly inside it, elements and scales, and what a plain
copy writes there is whole records. -/
def Node.localBad (n : Node) (d : Desc) (s : SideAt) : Bool :=
  let es := d.extents s
  d.kind == 1 && es.any n.touchesLocal && (match es.head?.bind n.wholeIn with
    | none => true
    | some r => !(es.all fun e => n.wholeIn e == some r) || (!s.cell && !d.wholeRecords s r.2))

/-- Whether an arming writes side 1 on this node, as its own copy or as a member of the multicast group (11 R357). -/
def Node.writesHere (n : Node) (d : Desc) : Bool := d.dloc || (d.mcast && (n.group d.dnode).contains n.self)

/-- Whether an arming writes side 1 on another node. -/
def Node.writesFar (n : Node) (d : Desc) : Bool := !d.dloc && (!d.mcast || (n.group d.dnode).any (· ≠ n.self))

/-- Whether arming finds a descriptor error (R256, R274, 12 R372, 13 R400), for count parity `par`. Sides of one scalar format whose
BSZ fields differ are an error, as R256 says of BSZ without exception, though 06 R188 has a scalar format ignore the field (DESIGN
CHOICE, log entry 97). -/
def Node.armBad (n : Node) (d : Desc) (par : Nat) : Bool :=
  let r := d.read0 par
  let w := d.write1 par
  let order := d.side1.order
  d.headBad || d.kind == 0 || !permOk order d.dims
    || (!d.accw && d.sideBad d.side1 order) || (d.kind == 1 && d.sideBad d.side0 order)
    || (d.kind == 1 && !d.accw && (d.side0.fmt != d.side1.fmt || d.side0.bsz != d.side1.bsz) && !repackPair d.side0 d.side1)
    || (!d.accw && d.zeroStride d.side1)
    || d.pclass == 3 || (d.mcast && d.dloc)
    || (!d.dloc && !d.mcast && decide (n.job.nnodes ≤ d.dnode))
    || d.side1.widePersist || (d.kind == 1 && d.side0.widePersist)
    || (d.kind == 1 && (d.extents r).any n.extentBad)
    || (n.writesHere d && ((d.extents w).any n.extentBad || (d.accw && !(d.extents w).all n.tierExtent) || n.localBad d w))
    || (n.writesFar d && ((d.extents w).any extentBadRemote || (d.accw && !(d.extents w).all tierRemote)))

/-- Whether a written side runs in ordered mode (R257). -/
def Desc.ordered (d : Desc) (s : SideAt) : Bool :=
  let dims := ((List.range 5).filter fun i => decide (1 < d.sizes.getD i 1)).map fun i => ((s.strides.getD i 0).natAbs, d.sizes.getD i 1)
  let rec ins (x : Nat × Nat) : List (Nat × Nat) → List (Nat × Nat)
    | [] => [x]
    | h :: t => if x.1 < h.1 then x :: h :: t else h :: ins x t
  let sorted := dims.foldl (fun l x => ins x l) []
  d.kind != 2 && !s.cell && (sorted.zip (sorted.drop 1)).any fun p => decide (p.2.1 < p.1.1 * p.1.2)

/-! ### Reading and writing elements -/

/-- `w` bits from a bit address as a reader with view `v` meets them. -/
def Node.rdBits (n : Node) (v : Nat) (b : Int) (w : Nat) : Nat :=
  bits (n.rdNat v (b / 8).toNat (((b % 8).toNat + w + 7) / 8)) (b % 8).toNat w

/-- The bytes that `w` bits at a bit address become when `x` is put there, with their address. -/
def Node.mergeBits (n : Node) (v : Nat) (b : Int) (w x : Nat) : Nat × List Byte :=
  let a := (b / 8).toNat
  let o := (b % 8).toNat
  let len := (o + w + 7) / 8
  let old := n.rdNat v a len
  let keep := old % 2 ^ o + (old / 2 ^ (o + w)) * 2 ^ (o + w)
  (a, leBytes (keep + (x % 2 ^ w) * 2 ^ o) len)

/-- The value of the element with linear number `l` on a side, block scale included. -/
def Node.elemVal (n : Node) (v : Nat) (s : SideAt) (l : Int) : Val :=
  match elemOf s.fmt with
  | none => .nan
  | some t =>
    let x := t.decode (n.rdBits v (s.bitOf l) t.width)
    match s.scaleOf l with
    | none => x
    | some a => scaled (n.rd v a.toNat).toNat x

/-- The element at presented coordinates (p, q) of an operand; none outside its extent (05 R162). -/
def Node.operand (n : Node) (v : Nat) (d : Desc) (p q : Nat) : Option Val :=
  if p < d.psize d.side0 0 ∧ q < d.psize d.side0 1 then
    let s := d.read0 0
    some (n.elemVal v s (s.line (logical d.side0.order [p, q])))
  else none

/-- The bytes that an element write touches. -/
def EWrite.bytes (e : EWrite) : List Nat := span (e.bit / 8) ((e.bit + e.w - 1) / 8 - e.bit / 8 + 1)

/-- The distinct bytes that element writes touch. -/
def touched (es : List EWrite) : List Nat := es.foldl (fun l e => e.bytes.foldl (fun m a => insertNew a m) l) []

/-- Whether a bit is written. -/
def wroteBit (es : List EWrite) (b : Nat) : Bool := es.any fun e => decide (e.bit ≤ b ∧ b < e.bit + e.w)

/-- Bytes that an element write touches, counted. -/
def EWrite.len (e : EWrite) : Nat := (e.bit % 8 + e.w + 7) / 8

/-- One element write lands in every copy that a writer with view `v` reaches; each keeps its own other bits (R251). -/
def Node.landOne (n : Node) (v : Nat) (e : EWrite) : Node :=
  (n.copies v (e.bit / 8)).foldl (fun m k => let (a, b) := m.mergeBits k e.bit e.w e.v; m.pokes k a b) n

/-- Land element writes in order as a writer with view `v` (R251): whole words get valid check bits, a partial write to a
poisoned word is an uncorrectable event, and words that carry poison are marked. -/
def Node.land (n : Node) (v : Nat) (es : List EWrite) : Node :=
  let n0 := (touched es).foldl Node.fillFor n
  let ws := (touched es).foldl (fun l a => insertNew (a / 8) l) []
  let (hurt, n1) := n0.writeWords (fun w => (List.range 64).all fun i => wroteBit es (64 * w + i)) v ws
  let n2 := (es.foldl (fun m e => m.landOne v e) n1).decodeArrivals v ws
  let n3 := (es.filter (·.poison)).foldl (fun m e => m.storePoison v (e.bit / 8) e.len) n2
  match hurt with
  | none => n3
  | some w => n3.uncorrectable v 0 (w * 8)

/-- The digest of element writes (14 R443): each byte touched, at the value it is left with. -/
def Node.landDigest (n : Node) (v : Nat) (es : List EWrite) : Nat :=
  sumOf (fun a => 2 ^ 56 + a * 256 + (n.rd v a).toNat) (touched es)

end Sys2Proof.Machine
end

