-- ==== Sys2Proof/Machine/Cells.lean ====
section
/-! DEFINITION. Cell records in memory (05 R171, 08 R255) and the local regions of the reduction table (12 R368-R371,
R390). -/
namespace Sys2Proof.Machine

/-! ### Records -/

/-- The cell that a record stands for: its all-zero image is a +0 term (08 R255). -/
def cellOf (b : List Byte) : FCell :=
  let m := leNat (b.take 80)
  let side := leNat ((b.drop 80).take 1) % 16
  if m = 2 ^ 639 then { FCell.zero with side := side, zst := .neg }
  else { FCell.zero with val := sgn m 640, side := side, zst := .other }

/-- The record at an address. -/
def Node.recAt (n : Node) (a : Nat) : FCell := cellOf (n.rdBytes noView a 96)

/-- Write a record. -/
def Node.putRec (n : Node) (a : Nat) (c : FCell) : Node := n.store noView a c.record

/-- Add an entry exactly into the record at an address; the flags say that it clamped, and that the record was added to.
A record that is uncorrectable is an event, and what is written is poisoned (10 R305, R320). -/
def Node.addRec (n : Node) (a : Nat) (e : Entry) : Node × Bool × Bool :=
  match n.readCheck noView a 96 with
  | (some _, m) => (m.storePoison noView a 96, false, false)
  | (none, m) =>
    let r := (m.recAt a).take e
    (m.putRec a r.1, r.2, true)

/-- The entry that one source element brings (08 R255): a special value is a +0 term with its side bit. -/
def elementEntry (v : Val) : Entry :=
  match v with
  | .nan => { v := 0, neg0 := false, side := 4, cand := [] }
  | .inf n => { v := 0, neg0 := false, side := if n then 2 else 1, cand := [] }
  | .fin n m e => { v := Val.units (-298) (.fin n m e), neg0 := n && m == 0, side := 0, cand := [] }

/-- A record as an entry. -/
def cellEntry (c : FCell) : Entry := { v := c.val, neg0 := c.zst == .neg, side := c.sideRead, cand := [] }

/-! ### The reduction table -/

/-- Entry `i` of the reduction table. -/
def Node.redEnt (n : Node) (i : Nat) : Option RedEnt := Map.look n.job.red i

/-- Change reduction context `i`. -/
def Node.modRed (n : Node) (i : Nat) (f : RedCtx → RedCtx) : Node := n.setRed i (f (n.redCtx i))

/-- Address of the record of element `e` of block `b`. -/
def RedEnt.recAddr (r : RedEnt) (b e : Nat) : Nat := r.localB + (64 * b + e) * 96

/-- Address of a block's residue word. -/
def RedEnt.resAddr (r : RedEnt) (b : Nat) : Nat := r.residB + 8 * b

/-- Residue of value `v` at position `e` of block `b` (R390). -/
def residueAt (b e : Nat) (v : Int) : Nat := (v % (Config.p61 : Int)).toNat * 2 ^ ((64 * b + e) % 61) % Config.p61

/-- A block's residue word. -/
def Node.resWord (n : Node) (r : RedEnt) (b : Nat) : Nat := n.rdNat noView (r.resAddr b) 8

/-- Add to a block's residue word; one that is uncorrectable is an event and stays poisoned. -/
def Node.addResWord (n : Node) (r : RedEnt) (b x : Nat) : Node :=
  match n.readCheck noView (r.resAddr b) 8 with
  | (some _, m) => m.storePoison noView (r.resAddr b) 8
  | (none, m) => m.store noView (r.resAddr b) (leBytes ((m.resWord r b + x) % Config.p61) 8)

/-- Record a reduction event (R393, R394, R398) and send it (20 R595 code 7). Kinds: 1 mismatch on receipt, 2 on local
read, 3 at the owner, 4 clamped. -/
def Node.redEvent (n : Node) (kind ctx node b : Nat) : Node :=
  let v := firstEvt n.redEvt (setFld (setFld (setFld (setFld 0 52 4 kind) 40 12 ctx) 28 12 node) 0 20 b)
  ({ n with redEvt := v }).event 7 0xFFFF v

/-- An exact add into element `e` of block `b` of bucket `i` (R371, R394): the record, the residue word, and the record
of a clamp. -/
def Node.addLocal (n : Node) (i : Nat) (r : RedEnt) (b e : Nat) (x : Entry) : Node :=
  let (n1, sat, sound) := n.addRec (r.recAddr b e) x
  let n2 := if x.side = 0 ∧ sound then n1.addResWord r b (residueAt b e x.v) else n1
  if sat then (n2.modRed i fun c => { c with sat := true }).redEvent 4 i n.self b else n2

/-- Which bucket, block and element an address of a local region names. -/
def Node.localAt (n : Node) (a : Nat) : Option (Nat × RedEnt × Nat × Nat) :=
  match n.job.red.find? fun kv => decide (kv.2.localB ≤ a ∧ a < kv.2.localB + kv.2.nblk * 6144) with
  | none => none
  | some (i, r) => let k := (a - r.localB) / 96; some (i, r, k / 64, k % 64)

/-- Add an entry into the record at an address: into a local region through its add unit, elsewhere plainly (08 R255,
12 R371). -/
def Node.accumulate (n : Node) (a : Nat) (e : Entry) : Node :=
  match n.localAt a with
  | some (i, r, b, k) => n.addLocal i r b k e
  | none => (n.addRec a e).1

end Sys2Proof.Machine
end

