-- ==== Sys2Proof/Machine/Governor.lean ====
section
/-! DEFINITION. Hawkmoth (15): estimates, budget, admission, release and raising, thermal actions and readings. -/
namespace Sys2Proof.Machine

/-! ### Limits (R482) -/

/-- A value held between two ends. -/
def between (lo hi v : Nat) : Nat := if v < lo then lo else if hi < v then hi else v

/-- XTGT_C as it acts. -/
def Hwk.xtgt (h : Hwk) : Nat := between 70 105 (fld h.limits 40 8)
/-- TTGT_C as it acts. -/
def Hwk.ttgt (h : Hwk) : Nat := between 70 105 (fld h.limits 32 8)
/-- STARVE_US as it acts. -/
def Hwk.starve (h : Hwk) : Nat := between 1 1000 (fld h.limits 16 16)
/-- VMAX as it acts. -/
def Hwk.vmax (h : Hwk) : Nat := between 0 6 (fld h.limits 0 3)

/-- The estimate factor k of a setting (R464). -/
def kFactor : Nat → Rat
  | 0 => 2823 / 10000
  | 1 => 4160 / 10000
  | 2 => 5821 / 10000
  | 3 => 7840 / 10000
  | 4 => 1
  | 5 => 12516 / 10000
  | _ => 15413 / 10000

/-! ### Tile groups -/

/-- Tile group `g`. -/
def Node.tg (n : Node) (g : Nat) : Tg := Map.getD n.gov.tgs g .off

/-- Replace tile group `g`. -/
def Node.setTg (n : Node) (g : Nat) (x : Tg) : Node := { n with gov := { n.gov with tgs := Map.put n.gov.tgs g x } }

/-- Temperature of a tile group: the higher of its two sensors. -/
def Tg.temp (x : Tg) : Nat := Nat.max x.tempA x.tempB

/-- Temperature of X: the highest of its sensors. -/
def Node.xtemp (n : Node) : Nat := greatest (n.gov.xtemps.map (·.2))

/-- The tile keys that run on tile group `g`, shadows included (R469). -/
def Node.tilesOn (n : Node) (g : Nat) : List Nat :=
  (n.tiles.filter fun kv => kv.2.used && groupOf (kv.2.heldAt.getD (n.physOfKey kv.1)) == g).map (·.1)

/-- The declared power of a tile under a request: 2 × ENERGY ÷ CYCLES of the phase, or of the entry allowance. -/
def Tile.declared (x : Tile) (phase : Option Nat) : Rat :=
  match phase with
  | none => 2 * (x.allow.1 : Rat) / x.allow.2
  | some p => match x.phases.find? (·.phase == p) with
    | none => 0
    | some e => 2 * (e.energy : Rat) / e.cycles

/-- Whether a tile is in the sum of a request (R469, R470). -/
def Tile.inSum (x : Tile) (phase : Option Nat) : Bool :=
  match phase with
  | none => true
  | some p => x.phases.any (·.phase == p)

/-- Σ 2 × ENERGY ÷ CYCLES of a request. -/
def Node.declaredSum (n : Node) (g : Nat) (phase : Option Nat) : Rat :=
  ((n.tilesOn g).map fun t => (n.tile t).declared phase).foldl (· + ·) 0

/-- est(g, p, v) (R469). -/
def Node.estimate (n : Node) (g : Nat) (phase : Option Nat) (v : Nat) : Rat :=
  (n.tg g).alpha * kFactor v * n.declaredSum g phase

/-- The sum of the estimates of all admitted requests. -/
def Node.admittedSum (n : Node) : Rat :=
  ((n.gov.reqs.filter (·.admitted)).map fun r => n.estimate r.g r.phase r.v).foldl (· + ·) 0

/-- The budget B = CAP_W − U (R471). -/
def Node.budget (n : Node) (h : Hwk) : Rat := (h.cap : Rat) - n.gov.u

/-- The highest setting that thermal actions allow a tile group (R467). -/
def Node.thermalCap (n : Node) (h : Hwk) (g : Nat) : Nat :=
  let x := n.tg g
  if 105 < x.temp ∨ 105 < n.xtemp then 0
  else if x.throttle then Nat.min x.target h.vmax
  else h.vmax

/-- Whether only starvation admits to a tile group (R467). -/
def Node.onlyStarve (n : Node) (h : Hwk) (g : Nat) : Bool :=
  decide (h.ttgt < (n.tg g).temp ∨ h.xtgt < n.xtemp)

/-- The highest setting, from `v` down, at which a request fits the budget. -/
def Node.fitFrom (n : Node) (h : Hwk) (g : Nat) (phase : Option Nat) : Nat → Option Nat
  | 0 => if n.admittedSum + n.estimate g phase 0 ≤ n.budget h then some 0 else none
  | v + 1 => if n.admittedSum + n.estimate g phase (v + 1) ≤ n.budget h then some (v + 1) else n.fitFrom h g phase v

/-- The lowest setting that an admitted request of the group holds (R473). -/
def Node.settingOf (n : Node) (g : Nat) : Option Nat :=
  least ((n.gov.reqs.filter fun r => r.admitted && r.g == g).map (·.v))

/-- Give a tile group the target setting and the gating that its admitted requests call for (R473, R474). -/
def Node.retarget (n : Node) (g : Nat) : Node :=
  let x := n.tg g
  match n.settingOf g with
  | none => n.setTg g { x with gated := true }
  | some v => n.setTg g { x with gated := false, target := v }

/-- Threads that wait for the admission of phase `p` on group `g` become ready (R469). -/
def Node.admitThreads (n : Node) (g p : Nat) : Node :=
  (n.tilesOn g).foldl (fun m t => m.modTile t fun x => { x with thr := x.thr.map fun kv =>
    (kv.1, if kv.2.wait = .admission p then { kv.2 with wait := .ready } else kv.2) }) n

/-- Admit a request at setting `v`. -/
def Node.admitAt (n : Node) (g : Nat) (phase : Option Nat) (v : Nat) : Node :=
  let hit (r : Req) : Bool := r.g == g && r.phase == phase
  let upd (r : Req) : Req := bif hit r then { r with admitted := true, v := v } else r
  let n1 : Node := { n with gov := { n.gov with reqs := n.gov.reqs.map upd } }
  let n2 := n1.retarget g
  match phase with
  | none => n2
  | some p => n2.admitThreads g p

/-- Whether request `a` comes before `b`: lower phase, then lower tile group (R471, R472). -/
def Req.before (a b : Req) : Bool :=
  let p := a.phase.getD 0
  let q := b.phase.getD 0
  decide (p < q ∨ (p = q ∧ a.g < b.g))

/-- Put a request into its place in the order of R471. -/
def insertReq (r : Req) : List Req → List Req
  | [] => [r]
  | h :: t => if r.before h then r :: h :: t else h :: insertReq r t

/-- Pending requests in order. -/
def Node.pendingReqs (n : Node) : List Req := (n.gov.reqs.filter (!·.admitted)).foldl (fun l r => insertReq r l) []

/-- Admit every pending request that fits, in order (R471). Nothing is admitted outside Active (R479). -/
def Node.admitFits (n : Node) (h : Hwk) : Node :=
  if n.asleep then n else n.pendingReqs.foldl (fun m r =>
    if m.onlyStarve h r.g then m
    else match m.fitFrom h r.g r.phase (m.thermalCap h r.g) with
      | some v => m.admitAt r.g r.phase v
      | none => m) n

/-! ### Release and raising (R470, R473) -/

/-- Whether a tile has gone past a request (R470): each of its threads has issued a PMARK of a higher phase, STEND or
EXIT, or the tile is fenced. DEDUCED (log entry 44): every thread, since each runs under the request until then. -/
def Tile.past (x : Tile) (phase : Option Nat) : Bool :=
  x.heldAt.isSome || x.thr.all fun kv =>
    !kv.2.hasCode || kv.2.wait == .outcome || kv.2.wait == .exited || (match kv.2.mark with
      | none => false
      | some m => match phase with
        | none => true
        | some p => decide (p < m))

/-- Whether a request is to be released. -/
def Node.releasable (n : Node) (r : Req) : Bool :=
  r.admitted && (n.tilesOn r.g).all fun t => !(n.tile t).inSum r.phase || (n.tile t).past r.phase

/-- Raise a group's requests one setting if the budget and the limits allow. -/
def Node.raiseOne (n : Node) (h : Hwk) (g : Nat) : Option Node :=
  match n.settingOf g with
  | none => none
  | some v =>
    if n.thermalCap h g ≤ v ∨ h.vmax ≤ v then none
    else
      let upd (r : Req) : Req := bif r.admitted && r.g == g && r.v == v then { r with v := v + 1 } else r
      let n1 : Node := { n with gov := { n.gov with reqs := n.gov.reqs.map upd } }
      if n1.admittedSum ≤ n1.budget h then some (n1.retarget g) else none

/-- Raise a group as far as it goes, at most six settings. -/
def Node.raiseFar (n : Node) (h : Hwk) (g : Nat) : Nat → Node
  | 0 => n
  | k + 1 => match n.raiseOne h g with
    | none => n
    | some m => m.raiseFar h g k

/-- Admitted groups in the order of their oldest admitted request. -/
def Node.raiseOrder (n : Node) : List Nat :=
  ((n.gov.reqs.filter (·.admitted)).foldl (fun l r => insertReq r l) []).foldl (fun l r => insertNew r.g l) []

/-- Raise tile groups while the budget allows (R473). -/
def Node.raiseAll (n : Node) (h : Hwk) : Node := n.raiseOrder.foldl (fun m g => m.raiseFar h g 6) n

/-- Releases, raising, then admissions that fit, in the order of R474. -/
def Node.govern (n : Node) (h : Hwk) : Node :=
  let gone := n.gov.reqs.filter n.releasable
  if gone.isEmpty then n.admitFits h
  else
    let keep := n.gov.reqs.filter fun r => !n.releasable r
    let n1 : Node := { n with gov := { n.gov with reqs := keep } }
    let n2 := (gone.map (·.g)).foldl (fun m g => m.retarget g) n1
    (n2.raiseAll h).admitFits h

/-- Admit the entry allowances at a step start, without waiting (R470): at the highest setting that fits, at code 0
where none does (log entry 20). Requests of the attempt before are gone. -/
def Node.entryAllowances (n : Node) (h : Hwk) : Node :=
  let gs := (List.range 64).filter fun g => !(n.tilesOn g).isEmpty
  let n0 : Node := { n with gov := { n.gov with reqs := [] } }
  let n1 := gs.foldl (fun m g =>
    let m1 : Node := { m with gov := { m.gov with
      reqs := m.gov.reqs ++ [{ g := g, phase := none, admitted := false, v := 0 }] } }
    m1.admitAt g none ((m1.fitFrom h g none (m1.thermalCap h g)).getD 0)) n0
  ((List.range 64).filter fun g => !gs.contains g).foldl (fun m g => m.retarget g) n1

/-- Raise the request of the group of tile key `t` for phase `p` (R469): whether it is admitted already. -/
def Node.request (n : Node) (t p : Nat) : Bool × Node :=
  let g := groupOf (n.physOfKey t)
  match n.gov.reqs.find? fun r => r.g == g && r.phase == some p with
  | some r => (r.admitted, n)
  | none => (false, { n with gov := { n.gov with
      reqs := n.gov.reqs ++ [{ g := g, phase := some p, admitted := false, v := 0 }] } })

/-! ### Thermal actions and readings -/

/-- The fields of HWK_EVT below VALID and MORE (R485). -/
def hwkWord (kind tg phase temp sensor : Nat) : Word :=
  setFld (setFld (setFld (setFld (setFld 0 52 4 kind) 46 6 tg) 38 8 phase) 30 8 temp) 26 4 sensor

/-- Ask for a governor event (R485). -/
def Node.govEvent (n : Node) (kind tg phase temp sensor : Nat) : Node :=
  { n with govEvt := n.govEvt ++ [hwkWord kind tg phase temp sensor] }

/-- Lower a tile group to at most setting `v`, admitted phases included (R467). -/
def Node.lowerTo (n : Node) (g v : Nat) : Node :=
  let upd (r : Req) : Req := bif r.admitted && r.g == g then { r with v := Nat.min r.v v } else r
  let n1 : Node := { n with gov := { n.gov with reqs := n.gov.reqs.map upd } }
  n1.setTg g { n1.tg g with target := Nat.min (n1.tg g).target v }

/-- Lower a tile group by one setting because of its target or X's. -/
def Node.lowerOne (n : Node) (g : Nat) : Node :=
  let n1 := n.lowerTo g ((n.tg g).target - 1)
  n1.setTg g { n1.tg g with throttle := true }

/-- The sum of the measured powers of domains 0-63, in units of 0.1 W. -/
def Node.tilesPower (n : Node) : Nat := sumOf (fun kv => kv.2.power) n.gov.tgs

/-- One sample of what U averages (R471): the tap's input power less the measured power of domains 0-63, in W. -/
def Node.tapU (n : Node) (mainMw auxCw : Nat) : Rat := ((mainMw + 10 * auxCw : Nat) : Rat) / 1000 - (n.tilesPower : Rat) / 10

/-- The mean of samples. -/
def meanOf (l : List Rat) : Rat := l.foldl (· + ·) 0 / l.length

/-- U over samples, newest first: ten tap updates (16 R489) make the 1 ms of R471 (log entry 57). -/
def Gov.average (g : Gov) (l : List Rat) : Gov := { g with samples := l.take 10, u := meanOf (l.take 10) }

/-- Gate or ungate every tile group as its admitted requests call for (R474). -/
def Node.retargetAll (n : Node) : Node := n.gov.tgs.foldl (fun m kv => m.retarget kv.1) n

end Sys2Proof.Machine
end

