-- ==== Sys2Proof/Machine/Holds.lean ====
section
/-! DEFINITION. What waits on something else: arrivals on an epoch or on a Tile reset (09 R282, 17 R508), tokens on what they
follow (03 R93), tiles on their streams (09 R281); and what a Tile reset discards. -/
namespace Sys2Proof.Machine

/-! ### The epoch test -/

/-- How an arrival's epoch stands to the destination's (R282). -/
inductive EpochTest
  | now | next | stale
  deriving DecidableEq, Repr

/-- Compare an arrival's epoch with the destination's. -/
def epochTest (mine e : Nat) : EpochTest :=
  if e = mine then .now else if e = (mine + 1) % 256 then .next else .stale

/-- How an arrival's epoch stands to a tile's (R282). While a Tile reset holds the tile, what is of its epoch waits as well
(17 R508). -/
def Tile.test (x : Tile) (e : Nat) : EpochTest :=
  match epochTest x.epoch e with
  | .now => if x.inRst then .next else .now
  | r => r

/-- How the epoch of a write at address `a` of this node stands to its destination's (R282). -/
def Node.testAt (n : Node) (a e : Nat) : EpochTest :=
  match n.place a with
  | .sram lt _ => (n.tile lt).test e
  | _ => epochTest n.commit.epoch e

/-- Whether address `a` lies in the SRAM of logical tile `lt`. -/
def Node.inSram (n : Node) (lt a : Nat) : Bool :=
  match n.place a with
  | .sram k _ => k == lt
  | _ => false

/-- Whether an access at `a` of another agent waits for the end of a Tile reset (17 R508). -/
def Node.tileHolds (n : Node) (a : Nat) : Bool :=
  match n.place a with
  | .sram lt _ => (n.tile lt).inRst
  | _ => false

/-! ### Tokens that wait -/

/-- Whether an arming of thread `i`, made before place `after` in the tile's issue order and not yet reported applied on node
`d`, is live in a context: the one in effect, queued or moving, or the one in the shadow (R341). -/
def Ctx.owes (c : Ctx) (i after d : Nat) : Bool :=
  let mine (a : Arm) : Bool := a.thr == i && decide (a.id < after)
  (mine c.arm && (if c.state = 1 then c.dest.contains d else c.todo.contains d)) || (c.shadow.any mine && c.dest.contains d)

/-- Whether everything that a token follows has been reported (R93, R341): readouts and Voile puts of its sender with an
earlier place in the tile's issue order, and, towards another node, the sender's armings to that node. -/
def Node.tokenFree (n : Node) (f : Flight) : Bool :=
  match f.by_ with
  | none => true
  | some (t, i) =>
    let x := n.tile t
    let readouts := x.queue.any fun e => e.thr == i && decide (e.id < f.after) && (match e.op with
      | .frd .. | .frdx .. => true
      | _ => false)
    let puts := x.voile.any fun kv => kv.2.put && kv.2.by_ == i && decide (kv.2.id < f.after)
    let arms := match f.node with
      | none => false
      | some d => n.ctxs.any fun kv => kv.2.lt == t && kv.2.owes i f.after d
    !readouts && !puts && !arms

/-- Send every waiting token to another node whose conditions hold, oldest first. -/
def Node.pushTokens (n : Node) : Node :=
  let go := n.flight.filter fun f => f.node.isSome && n.tokenFree f
  let rest := n.flight.filter fun f => !(f.node.isSome && n.tokenFree f)
  go.foldl (fun m f => match f.node with
    | none => m
    | some d => m.send d 1 0 false none (.token f.lt (Fin.ofNat 8 f.thr) (Fin.ofNat 8 f.ctr) f.count f.epoch))
    { n with flight := rest }

/-! ### Restarting -/

/-- Whether a tile key still owns a stream context or a Voile operation. -/
def Node.busy (n : Node) (t : Nat) : Bool := (n.ctxs.any (·.2.lt == t)) || !(n.tile t).voile.isEmpty

/-- The threads of a tile start once every context it owns is free and every Voile operation has retired (R281). -/
def Node.tryRestart (n : Node) (t : Nat) : Node :=
  if (n.tile t).restart && n.commit.running && !n.busy t then n.modTile t fun x => { x with restart := false } else n

/-! ### What a Tile reset discards (17 R508) -/

/-- Whether a message is for logical tile `lt`: it writes the tile's SRAM or its counters. -/
def Node.reaches (n : Node) (lt : Nat) : Msg → Bool
  | .streamData a _ _ _ _ => n.inSram lt a
  | .accw _ es => es.any fun e => n.inSram lt e.addr
  | .doneReq a _ _ _ _ => n.inSram lt a
  | .token k _ _ _ _ => k == lt
  | .retract k _ _ _ _ => k == lt
  | .put v _ => n.inSram lt v.addr
  | .getData v _ => v.srcLt == lt
  | _ => false

/-- A held message that is discarded: a request that expects a reply is answered, and a reply frees the slot that waited for
it (DESIGN CHOICE, log entry 105). -/
def Node.dropBeat (n : Node) (h : Header) (m : Msg) : Node :=
  match m with
  | .doneReq a e _ _ _ => n.send h.src 3 h.ctx false none (.done a e)
  | .put v _ => n.send h.src 3 0 false none (.putDone v)
  | .getData v _ => n.modTile v.srcLt fun x => { x with voile := Map.del x.voile v.tag }
  | _ => n

/-- Whether a node-local Voile write of tile key `t` is held for logical tile `lt`. -/
def Node.voileFor (n : Node) (lt t : Nat) (o : VoileOp) : Bool :=
  o.arrived && (if o.put then n.inSram lt o.addr else ltOf t == lt)

/-- What a context still has to write, without what is held for logical tile `lt`. -/
def Node.ctxWithout (n : Node) (lt : Nat) (x : Ctx) : Ctx :=
  if x.here && x.state == 3 && epochTest (n.tile lt).epoch x.arm.epoch == .next then
    { x with writes := x.writes.filter (fun w => !n.inSram lt (w.bit / 8)), cells := x.cells.filter fun c => !n.inSram lt c.1 }
  else x

/-- Every beat held for logical tile `lt` is discarded (R508); what waited on one looks again. -/
def Node.dropBeats (n : Node) (lt : Nat) : Node :=
  let n1 : Node := { n with
    held := n.held.filter fun hm => !n.reaches lt hm.2
    tiles := n.tiles.map fun kv => (kv.1, { kv.2 with voile := kv.2.voile.filter fun so => !n.voileFor lt kv.1 so.2 })
    ctxs := Map.mapVals (n.ctxWithout lt) n.ctxs }
  let n2 := (n.held.filter fun hm => n.reaches lt hm.2).foldl (fun m hm => (m.dropBeat hm.1 hm.2).freed hm.1) n1
  ((n2.tiles.foldl (fun m kv => m.tryRestart kv.1) n2.wakeAll).pushTokens).pfcAll

end Sys2Proof.Machine
end

