-- ==== Sys2Proof/Machine/Readings.lean ====
section
/-! DEFINITION. The readings of Sphinx, the sealed energy meter (16 R488-R496): how an interval closes, what a reading holds, and the
job tag that the module passes. -/
namespace Sys2Proof.Machine

/-- Bytes 0 to 127 of a reading (16 R492): `flags`, and an interval of `m` with tag `tag` that ends the totals. -/
def readingHead (x : Meter) (serial flags tag : Nat) (m : MeterMeas) : List Byte :=
  leBytes 1 2 ++ leBytes flags 1 ++ leBytes x.lastSeal 1 ++ leBytes x.sealCnt 4 ++ leBytes x.seq 8 ++ leBytes x.tms 8
    ++ leBytes m.durMs 4 ++ leBytes 0 4 ++ leBytes tag 8 ++ leBytes x.eMain 8 ++ leBytes x.eAux 8
    ++ leBytes (m.mainMj * 1000 / m.durMs) 4 ++ leBytes (m.auxMj * 1000 / m.durMs) 4 ++ leBytes serial 8
    ++ leBytes x.id.toNat 8 ++ leBytes 0 48

/-- The whole reading: its head and the meter's signature over it (R493). -/
def signedReading (head : List Byte) : List Byte :=
  let sig := Config.meterSignature head
  head ++ (List.range 96).map fun i => sig.getD i 0

/-- A seal event of kind `k` (R494): the one-time counter stops at 65,535. -/
def Meter.sealEvent (x : Meter) (k : Nat) : Meter := { x with sealCnt := Nat.min 65535 (x.sealCnt + 1), lastSeal := k }

/-- FLAGS of a reading (R492). -/
def Meter.flags (x : Meter) (tagcut sealcut : Bool) (m : MeterMeas) : Nat :=
  b2n x.test + 2 * b2n x.fault + 4 * b2n tagcut + 8 * b2n sealcut + 16 * b2n m.range + 32 * b2n (x.sealCnt == 65535)

/-- The meter's check of its constants and its converter (R488): a failure sets FAULT until it restarts and is a seal
event. -/
def Meter.check (x : Meter) (ok : Bool) : Meter := if ok then x else { x with fault := true }.sealEvent 5

/-- Close the interval that `m` measured (R490, R496): the meter's check first, then the totals, the reading, its slot in
the mirror ring and HEAD; a tag that waits takes effect with it where the interval has reached 10 ms (R491), and the
reading carries the tag before. `cut` is the kind of a seal event that closes it. -/
def Meter.close (x : Meter) (serial : Nat) (cut : Option Nat) (m : MeterMeas) : Meter :=
  let tagcut := x.waitTag.isSome && decide (10 ≤ m.durMs)
  let x1 := x.check m.checkOk
  let x2 := match cut with
    | none => x1
    | some k => x1.sealEvent k
  let x3 : Meter := { x2 with tms := x2.tms + m.durMs, eMain := x2.eMain + m.mainMj, eAux := x2.eAux + m.auxMj }
  let head := readingHead x3 serial (x3.flags tagcut (!m.checkOk || cut.isSome) m) (if x3.test then 0 else x3.tag) m
  { x3 with
    ring := Map.put x3.ring (x3.seq % 64) (signedReading head), head := x3.seq % 64, any := true, seq := x3.seq + 1
    tag := if tagcut then x.waitTag.getD x.tag else x.tag, waitTag := if tagcut then none else x.waitTag }

/-- A seal event of kind `k` cuts the interval that `m` measured (R490, R494). At the moment of another cut it is counted alone:
that moment's reading is signed (DESIGN CHOICE, log entry 108). -/
def Meter.cutBy (x : Meter) (serial k : Nat) (m : MeterMeas) : Meter :=
  if 1 ≤ m.durMs ∧ m.durMs ≤ 1000 then x.close serial (some k) m else x.sealEvent k

/-- What the meter measured of an interval of `dur` ms that an event of the module cuts: free values. -/
def cutMeas (f dur : Nat) : MeterMeas :=
  { vtest := true, durMs := dur, mainMj := Config.cutMain f, auxMj := Config.cutAux f, range := Config.cutRange f
    checkOk := Config.cutSound f }

/-- The module passes a job tag (R491): it takes effect at once, and cuts the interval, unless that began less than 10 ms earlier;
then it waits, in place of one that waits already. How old the interval is is a free value (log entry 16). -/
def Meter.passTag (x : Meter) (serial f tag : Nat) : Meter :=
  let y : Meter := { x with waitTag := some tag }
  let age := Config.tagAge f % 1000
  if x.running && x.waitTag.isNone && decide (10 ≤ age) then y.close serial none (cutMeas f age) else y

end Sys2Proof.Machine
end

