-- ==== Sys2Proof/Machine/Reset.lean ====
section
/-! DEFINITION. Chrysalis: reset sources, levels, holding and releasing (17 R500-R522), the end of a job (03 R79), and
`settle`, which applies what a command of the node asks of the always-on domain and the meter. -/
namespace Sys2Proof.Machine

/-! ### The end of a job -/

/-- A tile once its job has ended: threads, arrays and plan gone, memory and TLC registers kept (R79). -/
def Tile.unload (x : Tile) : Tile :=
  { Tile.idle with
    sram := x.sram, bad := x.bad, soft := x.soft, epoch := x.epoch, hold := x.hold, dbgEn := x.dbgEn, force := x.force,
    inRst := x.inRst, flags := x.flags, fault := x.fault, hsk := x.hsk, issued := x.issued }

/-- Gate a tile group (02 R39). -/
def Tg.gate (g : Tg) : Tg := { g with gated := true }

/-- Whether a tile's queue holds the access of the debug window. -/
def Tile.hasFdbg (x : Tile) : Bool := x.queue.any fun e => match e.op with
  | .fdbg .. => true
  | _ => false

/-- The debug window's register when its access is dropped: STATUS 4 (07 R242). -/
def fdbgDropped (c : Bool) (w : Word) : Word := if c then setFld w 1 3 4 else w

/-- The node once its job has ended (R79): threads stop, stream and reduction contexts and arrays are released (SAT and RESFAIL stay, 12
R397), the plan is unloaded, messages of the job are dropped (11 R349), and the meter is passed the tag zero (16 R491). Memory
stays. -/
def Node.jobless (n : Node) : Node :=
    { n with
      tiles := (Map.mapVals Tile.unload n.tiles).filter fun kv => decide (kv.1 < 4096)
      ctxs := [], fills := [], flight := [], held := [], red := Map.mapVals RedCtx.rest n.red, job := .none
      peers := Map.mapVals (fun p => { p with unacked := [], waiting := [] }) n.peers
      guard := { n.guard with
        phys := Map.mapVals (fun p => { p with chk := 0, turned := true, mism := 0 }) n.guard.phys, shadows := [], matched := [],
        keep := [], tx := [] }
      tps := { n.tps with inputs := [], armed := [], events := [], captured := false, diff := none }
      gov := { n.gov with reqs := [], tgs := Map.mapVals Tg.gate n.gov.tgs }
      commit := { Commit.idle with
        now := n.commit.now, cur := n.commit.cur, prev := n.commit.prev, recJob := n.commit.recJob,
        epoch := n.commit.epoch, last := n.commit.last }
      gng := { n.gng with state := 0 }
      fdbgCtl := fdbgDropped (n.tiles.any fun kv => kv.2.hasFdbg) n.fdbgCtl
      jobTag := some 0 }

/-- End the loaded job; the staging that this empties may end pauses (11 R334). Nothing happens when no job is loaded. -/
def Node.endJob (n : Node) : Node := if n.job.loaded then n.jobless.pfcAll else n

/-! ### What each level resets on the node (R507, R519) -/

/-- Tile groups right after a reset that leaves their supplies on: powered and gated, at setting 0. -/
def tgsPowered : Map Tg := (List.range 64).map fun g => (g, { Tg.off with powered := true, gated := true })

/-- Registers with Survives Warm that a Cold or deeper reset sets to their reset values, and the contents of the
tiers, which it loses. ERM_MEM_UE survives Cold. -/
def Node.coldPart (n : Node) (full : Bool) : Node :=
  { n with
    mems := { Mems.reset with ue := if full then 0 else n.mems.ue }
    guard := .reset, tps := .reset, ermLog := 0, fdbgCtl := 0, fdbgData := 0
    commit := if full then .idle else n.commit }

/-- What a Warm reset leaves of a sub-port (R515, R519): its link, kept up on idle frames alone until phase 5. -/
def Sub.kept (x : Sub) : Sub := { Sub.down with up := x.up, lanes := x.lanes, first := x.first, trained := x.trained, fenced := true }

/-- A reset of level `lvl` (0 Full, 1 Cold, 2 Warm) on the node. Every column is powered off (02 R49). The job ends without
an outcome. What the module has sent, and the model's own counters, stay. -/
def Node.resetTo (n : Node) (lvl : Nat) : Node :=
  let m := n.endJob
  let w : Node := { Node.reset with
    free := m.free, shift := m.shift, out := m.out, jobTag := m.jobTag, assert := m.assert
    mems := { m.mems with wbq := [], stalled := [] }
    guard := { Guard.reset with
      chkCfg := m.guard.chkCfg, chkEvt := m.guard.chkEvt, wmark := m.guard.wmark, late := m.guard.late
      kept := some (n.shadowWord (Config.regBase + 0x8000018)) }
    tps := { Tps.reset with
      cfg := m.tps.cfg, recBase := m.tps.recBase, capBase := m.tps.capBase, stat := m.tps.stat }
    commit := { Commit.idle with cur := m.commit.cur, prev := m.commit.prev, recJob := m.commit.recJob }
    fdbgCtl := m.fdbgCtl, fdbgData := m.fdbgData, ermLog := m.ermLog }
  if lvl = 2 then { w with subs := Map.mapVals Sub.kept m.subs } else w.coldPart (lvl == 0)

/-! ### Levels -/

/-- The level that the fuse map applies to source `s` (R503): 0 Full, 1 Cold, 2 Warm, 3 Tile, 4 Link. -/
def levelOf (map : Word) (s : Nat) : Nat :=
  let supply : Bool := s == 2 || s == 10 || s == 15
  if s = 0 then 0
  else match fld map (4 * s) 4 with
    | 0 => 0
    | 1 => 1
    | 2 => if supply then 1 else 2
    | 3 | 4 => if supply then 1 else if s = 12 then 3 else if s = 13 ∨ s = 14 then 4 else 2
    | _ => 1

/-- Whether source `s` releases at the end of its minimum hold (R502). -/
def holdSource (s : Nat) : Bool := s == 4 || s == 5 || s == 6 || s == 7 || s == 8 || s == 9 || s == 11 || s == 12 ||
  s == 13 || s == 14

/-- The level held: the deepest of the asserted sources. -/
def Chrys.deepest (c : Chrys) : Option Nat := least (c.asserted.map (·.2))

/-- The bits of a list of sources. -/
def srcBits (l : List Nat) : Nat := sumOf (fun s => 2 ^ s) l

/-- CHR_LAST for the present sequence, with COUNT kept (R521). -/
def Chrys.lastWord (c : Chrys) : Word :=
  setFld (setFld (setFld (setFld (setFld 0 48 16 (fld c.last 48 16)) 32 16 (srcBits c.seqSrcs)) 29 3 c.seqLevel)
    28 1 (b2n c.seqPh1)) 27 1 (b2n c.seqRef)

/-- Take source `s` at level `lvl` into the sequence, beginning one where none runs (R505); each assertion has a minimum hold of
its own (R506, R511); `ph1` says that it strikes
phase 1 (R512), `dorm` that it strikes Dormant or the exit from it. -/
def Chrys.join (c : Chrys) (s lvl : Nat) (ph1 dorm : Bool) : Chrys :=
  let c1 : Chrys := if c.seqOn then
      { c with seqLevel := Nat.min c.seqLevel lvl, seqSrcs := insertNew s c.seqSrcs, seqPh1 := c.seqPh1 || ph1 }
    else
      { c with
        seqOn := true, seqLevel := lvl, seqSrcs := [s], seqPh1 := ph1, seqRef := false, fromDorm := dorm
        last := setFld c.last 48 16 (fld c.last 48 16 + 1), lastTl := setFld c.lastTl 48 16 0 }
  let c2 : Chrys := { c1 with
    asserted := if c1.asserted.any (·.1 == s) then c1.asserted else c1.asserted ++ [(s, lvl)]
    minHeld := c1.minHeld ++ [s]
    targets := []
    seqRef := c1.seqRef || s == 15 }
  let c3 : Chrys := { c2 with held := c2.deepest }
  { c3 with last := c3.lastWord }

/-- The always-on domain's state that a reset of level `lvl` resets: Luna and SEC state of Survives None, CHR_BOOT,
CHR_POLICY, CHR_TOPO, the RWL locks; HWK_LIMITS from Cold on; backup registers, retained memory, HWK_CAP and HWK_EVT at
Full (R516, R519). -/
def Chip.resetTo (c : Chip) (lvl : Nat) (dark : Bool) : Chip :=
  let sec : Sec := { Sec.reset with
    slots := c.sec.slots, modeSel := c.sec.modeSel, modeNext := c.sec.modeNext
    dynAddr := if lvl = 2 then c.sec.dynAddr else none
    tapReset := c.sec.tapReset, tapInstr := c.sec.tapInstr, scan := c.sec.scan }
  let pins : Pins := { c.pins with
    alertN := false, pairOn := false, copper := c.pins.copper && lvl == 2, pstate := 0, trans := none
    domains := if dark then [] else c.pins.domains }
  let hwk : Hwk := if lvl = 0 then .reset else if lvl = 1 then { c.hwk with limits := 0 } else c.hwk
  let chr : Chrys := if lvl = 0 then
      { c.chr with bkpSession := 0, bkpBoots := 0, bkpSw := [], retMem := [], retBad := [], retSoft := [], copyA := .blank, copyB := .blank,
                   last := setFld c.chr.last 48 16 1 }
    else c.chr
  { c with boot := .reset, sec := sec, pins := pins, hwk := hwk, chr := { chr with lastTl := 0 } }

/-- Whether a source takes the supplies of domains 0-69 away (R602). -/
def darkens (s : Nat) : Bool := s == 0 || s == 2 || s == 10

/-- Domains 0-69 are off. -/
def State.dark (s : State) : Bool := s.chip.pins.domains.isEmpty && s.node.gov.tgs.all (fun kv => !kv.2.powered)

/-- The meter is to enter test mode (16 R499): TEST_N is low with VTEST present, and domains 0-69 are off. -/
def State.testDue (s : State) : Bool :=
  let m := s.chip.meter
  m.running && !m.test && m.testReq && m.vtest && s.dark

/-- The meter enters test mode after `dur` ms of its interval. -/
def State.testFrom (s : State) (dur : Nat) : State :=
  { s with
    node := s.node.takeFree
    chip := { s.chip with meter :=
      { s.chip.meter.cutBy s.chip.fuses.serial.toNat 3 (cutMeas s.node.free dur) with test := true } } }

/-- Domains 0-69 may have gone off: a test mode that was asked for before begins (16 R499); how old the interval is is a free
value. -/
def State.testWatch (s : State) : State := if s.testDue then s.testFrom (Config.tagAge s.node.free % 1000) else s

/-- A source of Warm or deeper asserts (R504, R507): it joins the sequence, and the effects of its level are carried out
unless a hold at that level or a deeper one already did. A stay in Dormant has lost what a Cold reset loses (R519). -/
def State.holdReset (s : State) (src lvl : Nat) : State :=
  let fromDorm := s.chip.pins.pstate == 3
  let dorm := fromDorm && !s.chip.boot.running
  let done : Bool := match s.chip.chr.held with
    | none => false
    | some h => decide (h ≤ lvl)
  let ph1 := s.chip.boot.running && s.chip.boot.phase == 1
  let chr := s.chip.chr.join src lvl ph1 fromDorm
  let dark := darkens src || dorm
  let chip : Chip := { s.chip with chr := chr }
  if done then
    State.testWatch { s with
      node := if darkens src then { s.node with gov := { s.node.gov with tgs := [] } } else s.node
      chip := { chip with pins := if darkens src then { chip.pins with domains := [] } else chip.pins } }
  else
    let depth := if dorm then Nat.min lvl 1 else lvl
    ({ s with node := s.node.resetTo depth, chip := chip.resetTo depth dark } : State).testWatch

/-- A thread whose tile was reset: its code stays (R508). -/
def Thread.again (th : Thread) : Thread := { Thread.idle with hasCode := th.hasCode, entry := th.entry }

/-- What a Tile reset leaves of a tile (R508). -/
def Tile.stopped (x : Tile) : Tile :=
  { x with
    thr := Map.mapVals Thread.again x.thr
    felt := [], queue := [], topk := [], checks := [], bars := [], rr := 0, parked := true, inRst := true
    hold := false, dbgEn := false, force := false, hsk := 0, issued := 0 }

/-- A Tile reset (R508): the tile stops, the beats held for it are discarded, it sends a tainted verdict if the job uses it, and its threads, arrays, counters,
barriers, checks and the TLC fields with Survives None take their reset values; SRAM and stores stay, and the threads
stay idle until the next outcome. -/
def Node.tileReset (n : Node) (lt : Nat) : Node :=
  let n1 := if n.job.loaded && (n.tile lt).used then n.taintTile lt else n
  let n2 : Node := { n1 with fdbgCtl := fdbgDropped (n1.tile lt).hasFdbg n1.fdbgCtl }
  (n2.modTile lt (·.stopped)).dropBeats lt

/-- Whether route `r` lies on sub-port `k` (port × 4 + sub). -/
def routeOn (r : Route) (k : Nat) : Bool := 4 * r.port + r.sub == k

/-- Routes of peer `d` on sub-port `k`, by index. -/
def Node.routesOn (n : Node) (d k : Nat) : List Nat :=
  ((n.routes d).zipIdx.filter fun ri => routeOn ri.1 k).map (·.2)

/-- Make every route on sub-port `k` unusable until it has exchanged HELLO again (R509). -/
def Node.routesDown (n : Node) (k : Nat) : Node :=
  { n with peers := n.peers.map fun kv =>
      let off := n.routesOn kv.1 k
      (kv.1, { kv.2 with
        usable := kv.2.usable.filter (!off.contains ·), reqSeen := kv.2.reqSeen.filter (!off.contains ·)
        repSeen := kv.2.repSeen.filter (!off.contains ·) }) }

/-- A Link reset of a sub-port (R509): replay buffer, link sequences and TSH_PORT bits go, its routes become unusable;
sequences and credits of the peers stay. -/
def Node.portReset (n : Node) (k : Nat) : Node :=
  let x := Map.getD n.subs k .down
  ({ n with subs := Map.put n.subs k { Sub.down with
      lanes := 0, fenced := x.fenced, paused := [], discards := x.discards, resetting := true } }).routesDown k

/-- A Link reset of CXL link `l` (10 R317): it is down and retrains; its requests stall. -/
def Node.cxlReset (n : Node) (l : Nat) : Node :=
  let retry := fld n.mems.cLink 32 16
  { n with mems := { n.mems with
      linkUp := n.mems.linkUp.filter (· ≠ l), stalled := insertNew l n.mems.stalled
      cxmCfg := setFld n.mems.cxmCfg (2 + l) 1 0
      cLink := if retry = 65535 then n.mems.cLink else setFld n.mems.cLink 32 16 (retry + 1) } }

/-- A Tile or Link reset: its effect, and its record in CHR_LAST_TL (R522). -/
def State.targetReset (s : State) (src tgt : Nat) : State :=
  let tl := s.chip.chr.lastTl
  let tl1 := setFld (setFld (setFld tl 48 16 (fld tl 48 16 + 1)) 28 4 src) 0 12 tgt
  let n := if src = 12 then s.node.tileReset tgt else if src = 13 then s.node.portReset tgt else s.node.cxlReset tgt
  { s with node := n
           chip := { s.chip with chr := { s.chip.chr with lastTl := tl1, targets := s.chip.chr.targets ++ [(src, tgt)] } } }

/-- Sources that Dormant ignores (R514). -/
def dormantIgnores (s : Nat) : Bool := s == 4 || s == 6 || s == 7 || s == 8 || s == 9 || s == 12 || s == 13 || s == 14

/-- Source `src` asserts with target `tgt` (R500, R502, R503, R513, R514). While the always-on clock is stopped nothing
is processed; before ready, sources 12 to 14 are only counted. One of them that the map takes to the whole module resets
it, and its target is only recorded (R503): DEDUCED, in CHR_LAST_TL (log entry 81). -/
def State.assertSource (s : State) (src tgt : Nat) : State :=
  let c := s.chip.chr
  if c.stopped then s
  else if s.chip.pins.pstate = 3 ∧ !s.chip.boot.running ∧ dormantIgnores src then s
  else if 12 ≤ src ∧ src ≤ 14 ∧ !s.chip.boot.ready then
    let ig := fld c.lastTl 32 16
    { s with chip := { s.chip with chr := { c with
        lastTl := if ig = 65535 then c.lastTl else setFld c.lastTl 32 16 (ig + 1) } } }
  else
    let lvl := levelOf s.chip.fuses.srcMap src
    if 2 < lvl then s.targetReset src tgt
    else
      let r := s.holdReset src lvl
      if 12 ≤ src ∧ src ≤ 14 then
        { r with chip := { r.chip with chr := { r.chip.chr with
            lastTl := setFld (setFld r.chip.chr.lastTl 28 4 src) 0 12 tgt } } }
      else r

/-- A security violation (R580): logged while one of the 32 entries is empty, and source 11 asserts. -/
def State.violate (s : State) (kind : Nat) : State :=
  let f := s.chip.fuses
  let s1 : State := if f.vlog.length < 32 then { s with chip := { s.chip with fuses := { f with vlog := f.vlog ++ [kind] } } } else s
  s1.assertSource 11 0

/-- The tiers can be accessed by their own upkeep: from ready, outside self-refresh (10 R311). -/
def State.tiersUp (s : State) : Bool :=
  s.chip.boot.ready && s.chip.chr.held.isNone && decide (s.chip.pins.pstate ≤ 1)

/-! ### Releasing (R502, R504) -/

/-- Whether the condition of a level source still stands (R502); the other sources have only their minimum hold. -/
def Chip.stands (c : Chip) (src : Nat) : Bool :=
  match src with
  | 0 => !c.pins.aux
  | 1 => !c.pins.resetN
  | 2 => !c.pins.pwrOk
  | 3 => !c.pins.thermN
  | 10 => !c.pins.regBad.isEmpty
  | 15 => !c.chr.refOk
  | _ => false

/-- Source `src` releases if its condition and its minimum hold have ended; a shallower source still asserted then holds
the module (R504). A stopped Chrysalis processes nothing (R500). -/
def Chip.letGo (c : Chip) (src : Nat) : Chip :=
  if c.chr.stopped || c.stands src || c.chr.minHeld.contains src then c
  else
    let r : Chrys := { c.chr with asserted := c.chr.asserted.filter fun a => a.1 != src }
    { c with chr := { r with held := if r.asserted.isEmpty then r.held else r.deepest } }

/-! ### The retained memory's codewords (R518) -/

/-- Silicon changes the codeword at byte offset `o` of the retained memory. An uncorrectable word in the map area marks the
retained map invalid, so that the next bring-up is a cold boot; one in the firmware area reads as zero (R518). Four bits and
more in error change the value of a firmware word; that the map's own words then pass for others is not modelled (log entry
7). -/
def Chrys.strike (c : Chrys) (o : Nat) (f : Flaw) : Chrys :=
  let w := o / 8
  if 0x20000 ≤ o then c
  else match flawBits f with
    | some k =>
      let r := addBits c.retBad c.retSoft w k
      let d : Chrys := { c with retBad := r.1, retSoft := r.2 }
      if r.1.contains w && decide (o < 0x10000) then
        { d with copyA := { d.copyA with valid := false }, copyB := { d.copyB with valid := false } }
      else d
    | none =>
      if o < 0x10000 then c
      else { c with retMem := ((leBytes (flawValue f).toNat 8).zip (span (w * 8) 8)).foldl (fun m ba => Map.put m ba.2 ba.1) c.retMem }

/-- A write of the `len` bytes from offset `o` gives their words sound check bits. -/
def Chrys.retMend (c : Chrys) (o len : Nat) : Chrys :=
  let hit (w : Nat) : Bool := decide (o / 8 ≤ w ∧ w < (o + len + 7) / 8)
  { c with retBad := c.retBad.filter (!hit ·), retSoft := c.retSoft.filter fun kv => !hit kv.1 }

/-! ### What the node asks of the always-on domain -/

/-- Write the copy of the retained map with the lower SEQ, with a SEQ above both (18 R540, R541); where one copy alone is invalid, it
is that one (DESIGN CHOICE, log entry 107). -/
def State.retainMap (s : State) : State :=
  let c := s.chip.chr
  let useA : Bool := if c.copyA.valid == c.copyB.valid then decide (c.copyA.seq ≤ c.copyB.seq) else c.copyB.valid
  let top := Nat.max c.copyA.seq c.copyB.seq
  let r : Retained :=
    { valid := true, seq := top + 1, serial := s.chip.fuses.serial.toNat, phys := s.node.guard.phys
      lmap := s.node.guard.lmap, backed0 := s.node.guard.backed0, backed1 := s.node.guard.backed1 }
  { s with chip := { s.chip with chr :=
      if useA then { c with copyA := r }.retMend 0 0x8000 else { c with copyB := r }.retMend 0x8000 0x8000 } }

/-- Work that waits begins the exit from Idle or Standby to Active, unless a transition is in progress (15 R479). -/
def State.rouse (s : State) : State :=
  let p := s.chip.pins
  if !s.node.later.isEmpty && p.trans.isNone && (p.pstate == 1 || p.pstate == 2) then
    { s with chip := { s.chip with
        pins := { p with trans := some 0 }, boot := { s.chip.boot with exit_ := if p.pstate = 2 then 3 else 0 } } }
  else s

/-- Nothing is asked of the always-on domain. -/
def Node.quiet (n : Node) : Bool :=
  n.assert.isEmpty && n.jobTag.isNone && n.govEvt.isEmpty && !n.therm && !n.retain && n.later.isEmpty
    && n.retUps.isEmpty

/-- A tainted verdict goes out at once (03 R100, 13 R405). Where the taint and the reset source that ends the job come of
one event, the verdict that this node owes the tree, or at the root the outcome it decides, is sent before the source
asserts (10 R321 orders the taint first; log entry 17). -/
def Node.lastVerdict (n : Node) : Node :=
  let passed : Bool := match n.commit.fwd with
    | none => false
    | some f => decide (1 ≤ f.1)
  if n.commit.running && n.commit.tainted && !passed then
    let v := if n.commit.abort || n.commit.kids.any (fun k => k.2.1 == 2) then 2 else 1
    if n.job.node = 0 then n.children.foldl (fun k d => k.send d 1 0 false none (.outcome n.commit.epoch (v + 1))) n
    else n.send n.parent 1 0 false none (.verdict n.commit.epoch v false)
  else n

/-- What a fence leaves to the governor (15 R470): a fenced tile has gone past its group's requests. A fence is what asks for
the retained map, Damask's fencing apart, which releases nothing. -/
def State.afterFence (s : State) : State :=
  if s.node.retain then { s with node := s.node.govern s.chip.hwk } else s

/-- The module passes a job tag to the meter (16 R491). -/
def State.passTag (s : State) (t : Nat) : State :=
  { s with
    node := s.node.takeFree
    chip := { s.chip with meter := s.chip.meter.passTag s.chip.fuses.serial.toNat s.node.free t } }

/-- Apply what the node asks: the releases that a fence brings (15 R470), the governor's event register (15 R485), the thermal trip's pin (R467), the job tag for
the meter (16 R491), the retained memory (17 R518, 18 R538), the exit
to Active (15 R479), and then the reset sources in the order they were asked for. -/
def settle (s : State) : State :=
  if s.node.quiet then s
  else
    let s0 := s.afterFence
    let s1 : State := s0.node.govEvt.foldl (fun st v =>
      let e := firstEvt st.chip.hwk.evt v
      { st with node := st.node.event 12 0xFFFF e, chip := { st.chip with hwk := { st.chip.hwk with evt := e } } }) s0
    let s2 : State := if s1.node.therm then { s1 with chip := { s1.chip with pins := { s1.chip.pins with thermN := false } } } else s1
    let s3 : State := match s2.node.jobTag with
      | none => s2
      | some t => s2.passTag t
    let s3u : State := { s3 with chip := { s3.chip with chr := s3.node.retUps.foldl (fun c u => c.strike u.1 u.2) s3.chip.chr } }
    let s4 : State := if s3u.node.retain then s3u.retainMap else s3u
    let asked := s4.node.assert
    let ends := asked.any fun a => levelOf s4.chip.fuses.srcMap a.1 ≤ 2
    let s4r := s4.rouse
    let s4v : State := if ends then { s4r with node := s4r.node.lastVerdict } else s4r
    let s5 : State := { s4v with node := { s4v.node with
      assert := [], jobTag := none, govEvt := [], therm := false, retain := false, retUps := [] } }
    let s6 := asked.foldl (fun st a => st.assertSource a.1 a.2) s5
    -- a reset that ends the job passes the tag zero
    match s6.node.jobTag with
    | none => s6
    | some t => ({ s6 with node := { s6.node with jobTag := none, assert := [] } } : State).passTag t

/-- A command whose effect is on the node, with what the node then asks of the always-on domain. -/
def lift (f : Node → Node) (s : State) : Host.Outcome State Fault Refusal := .next (settle { s with node := f s.node })

/-- A command whose effect is on the whole state. -/
def whole (f : State → State) (s : State) : Host.Outcome State Fault Refusal := .next (settle (f s))

/-- A command whose effect is on the always-on domain alone. -/
def onChip (f : Chip → Chip) (s : State) : Host.Outcome State Fault Refusal := .next { s with chip := f s.chip }

end Sys2Proof.Machine
end

