-- ==== Sys2Proof/Machine/Tokens.lean ====
section
/-! DEFINITION. Tokens on their way (03 R89-R93, 04 R136, 09 R273, R282, 11 R341): sending, arrival and the counters. -/
namespace Sys2Proof.Machine

/-- The STALE flag (09 R301). -/
def Node.stale (n : Node) : Node := { n with strStat := n.strStat ||| 2 }

/-- Add a count to a counter of one tile key (R89, R92): a sum above 65,535 leaves the counter there and faults the
owning thread; a thread whose TWAIT is now met becomes ready. No instruction faults: the record's PC is the owning thread's
own (DESIGN CHOICE, log entry 70). -/
def Node.addTokenKey (n : Node) (t thr ctr count : Nat) : Node :=
  let th := n.thread t thr
  let v := th.getK ctr + count
  if 65535 < v then
    (n.modThread t thr (·.setK ctr 65535)).takeFault t thr 4 th.pc (BitVec.ofNat 32 ctr) 0
  else
    n.modThread t thr fun h =>
      let h1 := h.setK ctr v
      { h1 with wait := match h1.wait with
          | .tokens c m => if c = ctr ∧ m ≤ v then .ready else h1.wait
          | w => w }

/-- Add a count to a counter of a logical tile, and to its shadow's (14 R442). -/
def Node.addToken (n : Node) (lt thr ctr count : Nat) : Node :=
  let n1 := n.addTokenKey lt thr ctr count
  if n1.shadowed lt then n1.addTokenKey (4096 + lt) thr ctr count else n1

/-- A header for an arrival that came from within the node. -/
def Node.localHeader (n : Node) (vc : Nat) : Header :=
  { ver := 1, odd := false, vc := vc, src := n.self, dst := n.self, len := 0, seq := 0, jobtag := 0, ctx := 0, res := none, mc := false, retx := false
    grant := none, ce := false
    frame := { port := 0, sub := 0, vlan := 0, src := 0, udpPort := 0, udpLen := 32, sumOk := true, plain := true, link := none } }

/-- A token reaches logical tile `lt` with epoch `e` (R282): counted, held for the next epoch, or discarded. `h` is the
header it is held under. -/
def Node.tokenAt (n : Node) (h : Header) (lt thr ctr count e : Nat) : Node :=
  match (n.tile lt).test e with
  | .now => n.addToken lt thr ctr count
  | .next => { n with held := n.held ++ [(h, .token lt (Fin.ofNat 8 thr) (Fin.ofNat 8 ctr) count e)] }
  | .stale => n.stale

/-- The misaddressed-token event (04 R136, 20 R595 code 2). Its LT field says that no logical tile of this node is concerned
(DESIGN CHOICE, log entry 70). -/
def Node.misaddressed (n : Node) (lt node : Nat) : Node :=
  n.event 2 0xFFFF (BitVec.ofNat 64 (lt % 4096 + node % 4096 * 4096))

/-- A thread of tile key `t` sends a token (R134-R136). A shadow's token is digested and goes nowhere (14 R443). -/
def Node.sendToken (n : Node) (t thr : Nat) (loc : Bool) (node lt dthr ctr count : Nat) : Node :=
  let here := loc || node == n.self
  let dest := (if here then n.self else node) * 2 ^ 18 + lt * 2 ^ 6 + dthr * 8 + ctr
  let n1 := n.digest t (2 ^ 58 + dest * 2 ^ 16 + count)
  if isShadow t then n1
  else if 2303 < lt ∨ (!here ∧ n.job.nnodes ≤ node) ∨ (here ∧ !(n.tile lt).used) then
    n1.misaddressed lt (if here then n.self else node)
  else
    let x := n1.tile t
    let f : Flight := { lt := lt, thr := dthr, ctr := ctr, count := count, epoch := x.epoch
                        node := if here then none else some node, by_ := some (t, thr), after := x.opSeq }
    ({ n1 with flight := n1.flight ++ [f] }).pushTokens

/-- A completion token of the node's own (09 R273, 05 R185, 12 R383): on its way with the epoch given. -/
def Node.ownToken (n : Node) (lt thr ctr epoch : Nat) : Node :=
  { n with flight := n.flight ++
    [{ lt := lt, thr := thr, ctr := ctr, count := 1, epoch := epoch, node := none, by_ := none, after := 0 }] }

/-- Token number `i` of those in flight within the node arrives, unless it must wait for what it follows. -/
def arrive (i : Nat) (n : Node) : Node :=
  match n.flight[i]? with
  | none => n
  | some f =>
    if f.node.isSome || !n.tokenFree f then n
    else
      let n1 : Node := { n with flight := dropAt n.flight i }
      if !(n1.tile f.lt).used then n1.misaddressed f.lt n1.self
      else n1.tokenAt (n1.localHeader 1) f.lt f.thr f.ctr f.count f.epoch

end Sys2Proof.Machine
end

