-- ==== Sys2Proof/Machine/Reduction.lean ====
section
/-! DEFINITION. Gradient reduction (12 R367-R398): transit blocks, pre-pass entries, schedules, completion, thinning and
integrity. `Node.redRun` is what a bucket does whenever something it waits for has come. -/
namespace Sys2Proof.Machine

/-! ### Members and shards (R369, R378) -/

/-- Number of members. -/
def RedEnt.m (r : RedEnt) : Nat := r.members.length

/-- This node's index in a bucket. -/
def Node.redMe (n : Node) (r : RedEnt) : Nat := r.members.idxOf n.self

/-- First block of the shard of member `q`. -/
def RedEnt.lo (r : RedEnt) (q : Nat) : Nat := if r.kind = 1 then (if q = 0 then 0 else r.nblk) else q * r.nblk / r.m

/-- One past the last block of the shard of member `q`. -/
def RedEnt.hi (r : RedEnt) (q : Nat) : Nat := if r.kind = 1 then r.nblk else (q + 1) * r.nblk / r.m

/-- The member that owns block `b`. -/
def RedEnt.ownerOf (r : RedEnt) (b : Nat) : Nat :=
  ((List.range r.m).find? fun q => decide (r.lo q ≤ b ∧ b < r.hi q)).getD 0

/-- Whether a bucket runs the ring schedule. -/
def RedEnt.ring (r : RedEnt) : Bool := r.kind == 0 && !r.direct

/-- The member to which member `q` sends block `b`. -/
def RedEnt.nextHop (r : RedEnt) (q b : Nat) : Nat := if r.ring then (q + 1) % r.m else r.ownerOf b

/-- Contributions that the owner needs beside its own. -/
def RedEnt.needs (r : RedEnt) : Nat := if r.m ≤ 1 then 0 else if r.ring then 1 else r.m - 1

/-- How a bucket transits in this attempt: 0 pre-pass, 1 predicted grid, 2 narrow (R379, R380, R386). -/
def redMode (r : RedEnt) (c : RedCtx) : Nat :=
  if r.transit = 2 then 2 else if r.transit = 1 ∧ c.pvalid then 1 else 0

/-- Whether an exact bucket of this job runs in residue mode (R391, R392, R396). -/
def Node.residueMode (n : Node) : Bool :=
  match fld n.redCfg 0 2 with
  | 0 => decide (64 < n.job.nnodes)
  | 2 => decide (64 < n.job.nnodes)
  | _ => true

/-! ### Pre-pass entries and grids (R375, R376) -/

/-- The cells of a block. -/
def Node.blockCells (n : Node) (r : RedEnt) (b : Nat) : List FCell := (List.range 64).map fun e => n.recAt (r.recAddr b e)

/-- OR of the side states of a block. -/
def blockSide (cs : List FCell) : Nat := cs.foldl (fun s c => s ||| c.sideRead) 0

/-- Floor of the binary logarithm by bytes of a magnitude. -/
def highByte (v : Int) : Nat := Nat.log2 v.natAbs / 8

/-- The lowest byte that any element's image reaches. -/
def lowByte (vs : List Int) : Nat := ((least ((vs.filter (· ≠ 0)).map fun v => lowBit v.natAbs / 8))).getD 0x7F

/-- Entry of a block from its cells. -/
def blockEntry (cs : List FCell) : BitVec 16 :=
  let side := blockSide cs
  let vs := (cs.map (·.val)).filter (· ≠ 0)
  if side ≠ 0 then BitVec.ofNat 16 (0x8000 + side)
  else if vs.isEmpty then 0x3FFF
  else BitVec.ofNat 16 (lowByte vs * 128 + greatest (vs.map highByte))

/-- Whether an entry is NF. -/
def entryNf (e : BitVec 16) : Bool := e.toNat.testBit 15
/-- Whether an entry is that of an all-zero block. -/
def entryZero (e : BitVec 16) : Bool := !entryNf e && e.toNat % 0x4000 == 0x3FFF
/-- SIDE of an NF entry. -/
def entrySide (e : BitVec 16) : Nat := e.toNat % 16

/-- Combine two entries. -/
def combineEntry (a b : BitVec 16) : BitVec 16 :=
  if entryNf a || entryNf b then
    BitVec.ofNat 16 (0x8000 + ((if entryNf a then entrySide a else 0) ||| (if entryNf b then entrySide b else 0)))
  else if entryZero a then b
  else if entryZero b then a
  else BitVec.ofNat 16 (Nat.min (bits a.toNat 7 7) (bits b.toNat 7 7) * 128 + Nat.max (bits a.toNat 0 7) (bits b.toNat 0 7))

/-- Ceiling of the binary logarithm of a count. -/
def ceilLog (m : Nat) : Nat := if m ≤ 1 then 0 else Nat.log2 (m - 1) + 1

/-- A grid (R376): the position L, the rank of the form (1 GI16, 2 GI32, 3 GI64, 4 CE), and the NL that bounds CE. -/
structure Grid where
  l    : Nat
  rank : Nat
  nl   : Nat
  deriving DecidableEq, Repr

/-- The grid of an entry; a zero or NF entry gives none. -/
def gridOf (e : BitVec 16) (m : Nat) : Option Grid :=
  if entryNf e || entryZero e then none
  else
    let lo := bits e.toNat 7 7
    let need := 8 * (bits e.toNat 0 7 - lo) + 9 + ceilLog m
    if need ≤ 16 then some ⟨8 * lo, 1, 10⟩
    else if need ≤ 32 then some ⟨8 * lo, 2, 10⟩
    else if need ≤ 64 then some ⟨8 * lo, 3, 10⟩
    else some ⟨8 * lo, 4, Nat.min 10 ((need + 63) / 64)⟩

/-! ### Transit blocks (R374, R377) -/

/-- Whether a signed value fits `w` bits. -/
def fitsBits (w : Nat) (g : Int) : Bool := decide (-(2 ^ (w - 1)) ≤ g ∧ g < 2 ^ (w - 1))

/-- Bits of an element in the form of a rank; CE has `nl` limbs. -/
def rankBits (nl : Nat) : Nat → Nat
  | 1 => 16
  | 2 => 32
  | 3 => 64
  | _ => 64 * nl

/-- The smallest number of limbs, from `k` up, that holds every value. -/
def limbsFrom (gs : List Int) : Nat → Nat → Nat
  | 0, k => k
  | fuel + 1, k => if gs.all (fitsBits (64 * k)) then k else limbsFrom gs fuel (k + 1)

/-- A block in the exact form of a rank at position `l`. -/
def exactBlock (rank l : Nat) (esc : Bool) (vs : List Int) : TBlock :=
  let gs := vs.map fun v => v / 2 ^ l
  { form := rank, esc := esc, nl := if rank = 4 then limbsFrom gs 9 1 else 0, lsb8 := l / 8, side := 0, els := gs }

/-- encode of R377. `grid` is the grid given, `inc` the form received at this hop, if any: its rank and ESC; `incNf` the
combined SIDE of NF blocks received. A block of any form keeps the ESC of an earlier hop (R374). -/
def encodeTransit (cs : List FCell) (grid : Option Grid) (inc : Option (Nat × Bool)) (incNf : Option Nat) : TBlock :=
  let side := blockSide cs ||| incNf.getD 0
  let vs := cs.map (·.val)
  let incEsc : Bool := match inc with
    | some i => i.2
    | none => false
  if side ≠ 0 ∨ incNf.isSome then { form := 5, esc := incEsc, nl := 0, lsb8 := 0, side := side, els := [] }
  else if vs.all (· == 0) then { form := 0, esc := incEsc, nl := 0, lsb8 := 0, side := 0, els := [] }
  else
    let g := grid.getD ⟨8 * lowByte vs, 1, 10⟩
    let f0 := Nat.max g.rank (match inc with
      | some i => i.1
      | none => 0)
    let ranks := [1, 2, 3, 4].filter (f0 ≤ ·)
    let pick := if vs.all fun v => v % 2 ^ g.l == 0 then
        ranks.find? fun f => vs.all fun v => fitsBits (rankBits g.nl f) (v / 2 ^ g.l)
      else none
    match pick with
    | some f => exactBlock f g.l ((grid.isSome && f != g.rank) || incEsc) vs
    | none => exactBlock 4 (8 * (Nat.min g.l (8 * lowByte vs) / 8)) true vs

/-- A block in NARROW form (R386). -/
def narrowBlock (fmt : Nat) (cs : List FCell) : TBlock :=
  let f := if fmt = 0 then fp32 else bf16
  { form := 6, esc := false, nl := fmt, lsb8 := 0, side := 0
    els := cs.map fun c => ((f.encode 0 false 0 c.result).bits : Int) }

/-- The entry that element `e` of a block brings. -/
def blkEntry (t : TBlock) (e : Nat) : Entry :=
  let g := t.els.getD e 0
  match t.form with
  | 1 | 2 | 3 | 4 => { v := g * 2 ^ (8 * t.lsb8), neg0 := false, side := 0, cand := [] }
  | 6 => elementEntry ((if t.nl = 0 then fp32 else bf16).decode g.toNat)
  | _ => { v := 0, neg0 := false, side := 0, cand := [] }

/-- Residue of block `b` as a payload carries it (R390). -/
def blkResidue (t : TBlock) (b : Nat) : Nat :=
  if t.form = 5 ∨ t.form = 0 then 0
  else sumOf (fun e => let x := blkEntry t e; if x.side = 0 then residueAt b e x.v else 0) (List.range 64) % Config.p61

/-- Residue of a block as its records stand; none for a block with side state. -/
def cellsResidue (b : Nat) (cs : List FCell) : Nat :=
  sumOf (fun ce => if ce.1.sideRead = 0 then residueAt b ce.2 ce.1.val else 0) (cs.zip (List.range cs.length)) % Config.p61

/-- Rank and ESC of a received form, higher than what was received before (07 R377, log entry 23). -/
def incomingMax (old : Option (Nat × Bool)) (t : TBlock) : Nat × Bool :=
  let rank := if t.form ≤ 4 then t.form else 0
  match old with
  | none => (rank, t.esc)
  | some o => (Nat.max o.1 rank, o.2 || t.esc)

/-! ### Records of a block -/

/-- Write a block's records back to zero, and its residue word (R384). -/
def Node.zeroBlock (n : Node) (r : RedEnt) (b : Nat) : Node :=
  (n.zeroRange (r.recAddr b 0) 6144).zeroRange (r.resAddr b) 8

/-- The same for a run of blocks. -/
def Node.zeroBlocks (n : Node) (r : RedEnt) (b cnt : Nat) : Node :=
  (n.zeroRange (r.recAddr b 0) (6144 * cnt)).zeroRange (r.resAddr b) (8 * cnt)

/-- Write an all-zero image with the combined side state in every element (R382). -/
def Node.sideBlock (n : Node) (r : RedEnt) (b side : Nat) : Node :=
  (List.range 64).foldl (fun m e => m.putRec (r.recAddr b e) { FCell.zero with side := side, zst := .other }) n

/-- Add a received block into the records (R374, R382): an NF block brings its side state to the context only. -/
def Node.addBlock (n : Node) (i : Nat) (r : RedEnt) (b : Nat) (t : TBlock) : Node :=
  if t.form = 5 then
    n.modRed i fun c => { c with inNf := Map.put c.inNf b (Map.getD c.inNf b 0 ||| t.side) }
  else if t.form = 0 then n
  else (List.range 64).foldl (fun m e => m.addLocal i r b e (blkEntry t e)) n

/-- Entry `b` of PRED_BASE. -/
def Node.predAt (n : Node) (r : RedEnt) (b : Nat) : BitVec 16 := BitVec.ofNat 16 (n.rdNat noView (r.predB + 2 * b) 2)

/-- Write entries to PRED_BASE. -/
def Node.putPred (n : Node) (r : RedEnt) (b : Nat) (es : List (BitVec 16)) : Node :=
  n.store noView (r.predB + 2 * b) ((es.map fun e => leBytes e.toNat 2).flatten)

/-- The entry in force for a block: of the pre-pass, or the prediction. -/
def Node.entryFor (n : Node) (r : RedEnt) (c : RedCtx) (b : Nat) : Option (BitVec 16) :=
  match redMode r c with
  | 0 => Map.look c.entries b
  | 1 => some (n.predAt r b)
  | _ => none

/-! ### Reads of the bucket's engine (10 R320, R321) -/

/-- The engine of bucket `i` reads ranges (address, length): whether every word is sound. One that is not is an event, and
the engine sends and completes nothing more in the attempt: what it would send or report rests on that word (DEDUCED, log
entry 77). -/
def Node.redRead (n : Node) (i : Nat) : List (Nat × Nat) → Bool × Node
  | [] => (true, n)
  | (a, len) :: rest =>
    match n.readCheck noView a len with
    | (some _, m) => (false, m.modRed i fun c => { c with hurt := true })
    | (none, m) => m.redRead i rest

/-- The records of blocks `b` to `b + cnt - 1`. -/
def RedEnt.recSpan (r : RedEnt) (b cnt : Nat) : Nat × Nat := (r.recAddr b 0, 6144 * cnt)

/-- What a send of block `b` reads: its records, its residue word and, in predicted-grid mode, its prediction. -/
def RedEnt.sendSpans (r : RedEnt) (c : RedCtx) (b : Nat) : List (Nat × Nat) :=
  [r.recSpan b 1, (r.resAddr b, 8)] ++ (if redMode r c = 1 then [(r.predB + 2 * b, 2)] else [])

/-! ### Sending -/

/-- Send a REDUCE message to member `q`. -/
def Node.sendRed (n : Node) (i : Nat) (r : RedEnt) (q : Nat) (res : Option Nat) (m : Msg) : Node :=
  n.send (r.members.getD q 0) 5 i false res m

/-- Send entries of blocks from `b` to member `q`, at most 4,096 to a message. -/
def Node.sendEntries (n : Node) (i : Nat) (r : RedEnt) (q b : Nat) (mk : Nat → List (BitVec 16) → Msg)
    (es : List (BitVec 16)) : Node :=
  let cs := chunks 4096 es.length es
  (cs.zip (List.range cs.length)).foldl (fun m ck => m.sendRed i r q none (mk (b + 4096 * ck.2) ck.1)) n

/-- Runs of consecutive blocks of one shard that fit a message (R387): each as its first block and its blocks. -/
def packBlocks (r : RedEnt) : List (Nat × TBlock) → List (Nat × List TBlock)
  | [] => []
  | (b, t) :: rest =>
    match packBlocks r rest with
    | [] => [(b, [t])]
    | (f, ts) :: more =>
      if f = b + 1 ∧ r.ownerOf f = r.ownerOf b ∧ blkSize t + sumOf blkSize ts ≤ 8192 ∧ ts.length < 4096 then
        (b, t :: ts) :: more
      else (b, [t]) :: (f, ts) :: more

/-- Add to the digest of a peer for the step (R392). A digest word that is uncorrectable is an event and stays poisoned (10
R305, R320). -/
def Node.digestPeer (n : Node) (peer : Nat) (recvd : Bool) (x : Nat) : Node :=
  if n.residueMode ∨ 64 ≤ peer then n
  else
    let a := fld n.redCfg 18 30 * 2 ^ 18 + ((n.stepCount.toNat % 256) * 64 + peer) * 16 + b2n recvd * 8
    match n.readCheck noView a 8 with
    | (some _, m) => m.storePoison noView a 8
    | (none, m) => m.store noView a (leBytes ((m.rdNat noView a 8 + x) % Config.p61) 8)

/-- A residue mismatch (R393): the step is tainted, the context marked, the event recorded. -/
def Node.resMismatch (n : Node) (kind i node b : Nat) : Node :=
  let n1 := (n.modRed i fun c => { c with resfail := true }).taint
  (n1.noteEvt 8 0xFFFF (BitVec.ofNat 64 i) (BitVec.ofNat 64 b)).redEvent kind i node b

/-- The residue that a message of blocks from `f` carries: residue-array words of the blocks that take part; of a NARROW
block that of its payload (log entry 24). -/
def Node.carried (n : Node) (r : RedEnt) (f : Nat) (ts : List TBlock) : Nat :=
  sumOf (fun (tk : TBlock × Nat) =>
    if tk.1.form = 5 then 0
    else if tk.1.form = 6 then blkResidue tk.1 (f + tk.2)
    else n.resWord r (f + tk.2)) (ts.zip (List.range ts.length)) % Config.p61

/-- A sender's check of a block that it reads (R391): its records against its residue word. Only a block that travels as NF
takes no part. -/
def Node.readResidue (n : Node) (i : Nat) (r : RedEnt) (b : Nat) (cs : List FCell) (t : TBlock) : Node :=
  if t.form = 5 ∨ cellsResidue b cs = n.resWord r b then n else n.resMismatch 2 i n.self b

/-- Send runs of blocks to a member as PART or RESULT messages. -/
def Node.sendBlocks (n : Node) (i : Nat) (r : RedEnt) (q : Nat) (mk : Nat → List TBlock → Msg)
    (bs : List (Nat × TBlock)) : Node :=
  (packBlocks r bs).foldl (fun m p =>
    let x := m.carried r p.1 p.2
    let pay := sumOf (fun (tk : TBlock × Nat) => blkResidue tk.1 (p.1 + tk.2)) (p.2.zip (List.range p.2.length)) % Config.p61
    (m.digestPeer (r.members.getD q 0) false pay).sendRed i r q (if m.residueMode then some x else none) (mk p.1 p.2)) n

/-- The block as this member sends it on. -/
def Node.outBlock (n : Node) (r : RedEnt) (c : RedCtx) (b : Nat) : TBlock :=
  let cs := n.blockCells r b
  if redMode r c = 2 then narrowBlock r.nfmt cs
  else encodeTransit cs ((n.entryFor r c b).bind (gridOf · r.m)) (Map.look c.inForm b) (Map.look c.inNf b)

/-! ### Stages -/

/-- Whether this step reduces the bucket (R388). -/
def Node.reduces (n : Node) (r : RedEnt) : Bool := r.thin == 1 || n.stepCount.toNat % r.thin == r.thin - 1

/-- Address of a slot of a copy of the thinning buffer (R389). -/
def RedEnt.slotAddr (r : RedEnt) (copy b : Nat) : Nat := r.thinB + copy % 2 * (r.nblk * 5128) + b * 5128

/-- Width in bytes of an element of an exact form. -/
def blkBytes (t : TBlock) : Nat :=
  match t.form with
  | 1 => 2
  | 2 => 4
  | 3 => 8
  | 4 => 8 * t.nl
  | _ => 0

/-- Bytes of a slot. -/
def slotBytesOf (t : TBlock) : List Byte :=
  leBytes (t.form + 8 * b2n t.esc + 16 * t.nl + 256 * t.lsb8 + 2 ^ 16 * t.side) 8
    ++ (t.els.map fun g => leBytes (wrap g (8 * blkBytes t)) (blkBytes t)).flatten

/-- The block that a slot holds. -/
def Node.slotAt (n : Node) (r : RedEnt) (copy b : Nat) : TBlock :=
  let a := r.slotAddr copy b
  let h := n.rdNat noView a 8
  let t : TBlock := { form := bits h 0 3, esc := h.testBit 3, nl := bits h 4 4, lsb8 := bits h 8 7, side := bits h 16 4, els := [] }
  { t with els := if blkBytes t = 0 then [] else
      (List.range 64).map fun e => sgn (n.rdNat noView (a + 8 + e * blkBytes t) (blkBytes t)) (8 * blkBytes t) }

/-- Add a copy of the thinning buffer into the records of every block. -/
def Node.addThin (n : Node) (i : Nat) (r : RedEnt) (copy : Nat) : Node :=
  (List.range r.nblk).foldl (fun m b =>
    let t := m.slotAt r copy b
    let m1 := m.addBlock i r b t
    if t.form = 5 then (List.range 64).foldl (fun k e =>
        k.addLocal i r b e { v := 0, neg0 := false, side := t.side, cand := [] }) m1
    else m1) n

/-- The header of every slot of a copy, and then what its form needs, are read (R389). -/
def Node.readSlots (n : Node) (i : Nat) (r : RedEnt) (copy : Nat) : Bool × Node :=
  match n.redRead i ((List.range r.nblk).map fun b => (r.slotAddr copy b, 8)) with
  | (false, m) => (false, m)
  | (true, m) => m.redRead i ((List.range r.nblk).map fun b => (r.slotAddr copy b + 8, 64 * blkBytes (m.slotAt r copy b)))

/-- Fold (R388, R389): the records and the kept copy go to the other copy, and the records return to zero. -/
def Node.fold (n : Node) (i : Nat) (r : RedEnt) : Node :=
  let c := n.stepCount.toNat
  match (n.addThin i r c).redRead i [r.recSpan 0 r.nblk] with
  | (false, m) => m
  | (true, m) =>
    let n2 := (List.range r.nblk).foldl (fun k b =>
      k.store noView (r.slotAddr (c + 1) b) (slotBytesOf (encodeTransit (k.blockCells r b) none none none))) m
    (n2.zeroBlocks r 0 r.nblk).modRed i fun x => { x with folded := true }

/-- A persistent side or a thinning buffer has been written since the last Commit (13 R420). -/
def Node.persistWritten (n : Node) : Node := { n with commit := { n.commit with pwritten := true } }

/-- The bucket has filled: its fold, or what a reducing step does first (R389): the kept copy is added, and every slot of the
other is written as ZERO, which is its header alone. A fold that could not read its records has written nothing (13 R420). -/
def Node.redStart (n : Node) (i : Nat) (r : RedEnt) : Node :=
  let n1 := n.modRed i fun c => { c with started := true }
  if r.thin = 1 then n1
  else
    let c := n1.stepCount.toNat
    match n1.readSlots i r c with
    | (false, m) => m
    | (true, m) =>
      if !m.reduces r then
        let k := m.fold i r
        if (k.redCtx i).folded then k.persistWritten else k
      else
        ((List.range r.nblk).foldl (fun k b => k.store noView (r.slotAddr (c + 1) b) (leBytes 0 8))
          (m.addThin i r c)).persistWritten

/-- Stage 1 of the pre-pass (R379): the entries of member `q`'s shard go to it. -/
def Node.redPreTo (n : Node) (i : Nat) (r : RedEnt) (q : Nat) : Node :=
  match n.redRead i [r.recSpan (r.lo q) (r.hi q - r.lo q)] with
  | (false, m) => m
  | (true, m) => m.sendEntries i r q (r.lo q) (fun f es => .pre f m.commit.epoch es)
      ((span (r.lo q) (r.hi q - r.lo q)).map fun b => blockEntry (m.blockCells r b))

/-- Stage 1 towards every other member. -/
def Node.redPre (n : Node) (i : Nat) (r : RedEnt) : Node :=
  (((List.range r.m).filter (· ≠ n.redMe r)).foldl (fun m q => m.redPreTo i r q) n).modRed i fun c => { c with preSent := true }

/-- The entry that member `q` sent for block `b`, if it has come. -/
def RedCtx.preOf (c : RedCtx) (q b : Nat) : Option (BitVec 16) :=
  match c.preIn.find? fun p => decide (p.1 = q ∧ p.2.1 ≤ b ∧ b < p.2.1 + p.2.2.length) with
  | none => none
  | some p => p.2.2[b - p.2.1]?

/-- Whether the owner combines its shard's entries now: every other member's have come. -/
def RedCtx.mayCombine (c : RedCtx) (r : RedEnt) (me : Nat) : Bool :=
  let bs := span (r.lo me) (r.hi me - r.lo me)
  let others := (List.range r.m).filter (· ≠ me)
  !c.combined && !bs.isEmpty && bs.all fun b => others.all fun q => (c.preOf q b).isSome

/-- Stage 2 (R379): once every member's entries have come the owner combines them, writes them and sends them. -/
def Node.redCombine (n : Node) (i : Nat) (r : RedEnt) : Node :=
  let me := n.redMe r
  if !(n.redCtx i).mayCombine r me then n
  else match n.redRead i [r.recSpan (r.lo me) (r.hi me - r.lo me)] with
    | (false, m) => m
    | (true, m) =>
      let c := m.redCtx i
      let others := (List.range r.m).filter (· ≠ me)
      let bs := span (r.lo me) (r.hi me - r.lo me)
      let es := bs.map fun b => others.foldl (fun e q => combineEntry e ((c.preOf q b).getD 0x3FFF)) (blockEntry (m.blockCells r b))
      let n1 := (m.putPred r (r.lo me) es).modRed i fun x => { x with
        combined := true, entries := (bs.zip es).foldl (fun l be => Map.put l be.1 be.2) x.entries }
      others.foldl (fun k q => k.sendEntries i r q (r.lo me) (fun f xs => .grid f k.commit.epoch xs) es) n1

/-- Entries of another shard come into force (R379): a block whose entry is zero or NF is not sent and returns to zero
(R384). -/
def Node.redGrid (n : Node) (i : Nat) (r : RedEnt) (first : Nat) (es : List (BitVec 16)) : Node :=
  let n1 := n.putPred r first es
  let be := (span first es.length).zip es
  let n2 := n1.modRed i fun x => { x with entries := be.foldl (fun m p => Map.put m p.1 p.2) x.entries }
  (be.filter fun p => entryZero p.2 || entryNf p.2).foldl (fun m p => m.zeroBlock r p.1) n2

/-- Bring held GRID entries into force once the bucket has filled. -/
def Node.redGrids (n : Node) (i : Nat) (r : RedEnt) : Node :=
  let held := (n.redCtx i).gridIn
  held.foldl (fun m g => m.redGrid i r g.1 g.2) (n.modRed i fun c => { c with gridIn := [] })

/-- Whether this member may send block `b` on now. -/
def RedCtx.sendable (c : RedCtx) (r : RedEnt) (me b : Nat) : Bool :=
  let q := r.ownerOf b
  q != me && !c.sent.contains b
    && (match redMode r c, Map.look c.entries b with
        | 0, none => false
        | 0, some e => !entryZero e && !entryNf e
        | _, _ => true)
    && (!r.ring || me == (q + 1) % r.m || decide (1 ≤ Map.getD c.got b 0))

/-- Stage 3: send on every block that may go. -/
def Node.redSend (n : Node) (i : Nat) (r : RedEnt) : Node :=
  let me := n.redMe r
  let bs := (List.range r.nblk).filter ((n.redCtx i).sendable r me)
  match n.redRead i (bs.flatMap (r.sendSpans (n.redCtx i))) with
  | (false, m) => m
  | (true, m) =>
    let c := m.redCtx i
    let hops := bs.foldl (fun l b => insertNew (r.nextHop me b) l) []
    let n1 := bs.foldl (fun k b => k.readResidue i r b (k.blockCells r b) (k.outBlock r c b)) m
    let n2 := hops.foldl (fun k q =>
      k.sendBlocks i r q (fun f ts => .part f k.commit.epoch ts)
        ((bs.filter fun b => r.nextHop me b == q).map fun b => (b, k.outBlock r c b))) n1
    n2.modRed i fun x => { x with sent := x.sent ++ bs }

/-- Whether block `b` of the own shard can be complete. -/
def RedCtx.arrived (c : RedCtx) (r : RedEnt) (b : Nat) : Bool :=
  !c.done.contains b
    && (match redMode r c, Map.look c.entries b with
        | 0, none => false
        | 0, some e => entryZero e || entryNf e || decide (r.needs ≤ Map.getD c.got b 0)
        | _, _ => decide (r.needs ≤ Map.getD c.got b 0))

/-- The side state that the pre-pass gives a block, and whether it gives it as zero. -/
def RedCtx.preSays (c : RedCtx) (r : RedEnt) (b : Nat) : Nat × Bool :=
  match redMode r c, Map.look c.entries b with
  | 0, some e => (if entryNf e then entrySide e else 0, entryZero e)
  | _, _ => (0, false)

/-- The owner's check of a complete block (R391): the residue of the written records against the block's residue word. -/
def Node.ownerCheck (n : Node) (i : Nat) (r : RedEnt) (b written : Nat) : Node :=
  if n.residueMode ∧ written ≠ n.resWord r b then n.resMismatch 3 i n.self b else n

/-- Complete block `b` of the own shard (R382, R391). -/
def Node.redBlock (n : Node) (i : Nat) (r : RedEnt) (b : Nat) : Node :=
  match n.redRead i [r.recSpan b 1, (r.resAddr b, 8)] with
  | (false, m) => m
  | (true, m) =>
    let c := m.redCtx i
    let cs := m.blockCells r b
    let (pre, zero) := c.preSays r b
    let raw := blockSide cs ||| pre ||| Map.getD c.inNf b 0
    let side := ({ FCell.zero with side := raw } : FCell).sideRead
    let n1 : Node :=
      if redMode r c ≠ 2 ∧ raw ≠ 0 then (m.sideBlock r b side).modRed i fun x => { x with nf := true }
      else if zero then (m.ownerCheck i r b 0).zeroBlock r b
      else m.ownerCheck i r b (cellsResidue b cs)
    let escd : Bool := match Map.look c.inForm b with
      | some f => f.2
      | none => false
    n1.modRed i fun x => { x with done := x.done ++ [b], esc := x.esc + b2n escd }

/-- Complete every block of the own shard that can be. -/
def Node.redBlocks (n : Node) (i : Nat) (r : RedEnt) : Node :=
  let me := n.redMe r
  let bs := (span (r.lo me) (r.hi me - r.lo me)).filter ((n.redCtx i).arrived r)
  bs.foldl (fun m b => m.redBlock i r b) n

/-- Whether every block of the own shard is complete. -/
def Node.shardDone (n : Node) (i : Nat) (r : RedEnt) : Bool :=
  let me := n.redMe r
  let d := (n.redCtx i).done
  (span (r.lo me) (r.hi me - r.lo me)).all d.contains

/-- The REPORTs of a complete shard (R380): its entries are written to PRED_BASE and go to every other member. -/
def Node.redReports (n : Node) (i : Nat) (r : RedEnt) : Node :=
  let me := n.redMe r
  let lo := r.lo me
  let es := (span lo (r.hi me - lo)).map fun b => blockEntry (n.blockCells r b)
  ((List.range r.m).filter (· ≠ me)).foldl (fun m q => m.sendEntries i r q lo (fun f xs => .report f m.commit.epoch xs) es)
    (n.putPred r lo es)

/-- The RESULT of a KIND 1 bucket goes to every other member (R378), after the sender's check of R391. -/
def Node.redResults (n : Node) (i : Nat) (r : RedEnt) : Node :=
  let t := n.outBlock r (n.redCtx i) 0
  ((List.range r.m).filter (· ≠ n.redMe r)).foldl (fun m q => m.sendBlocks i r q (fun f ts => .result f m.commit.epoch ts) [(0, t)])
    (n.readResidue i r 0 (n.blockCells r 0) t)

/-- What the owner sends once its shard is complete: REPORT in predicted-grid mode (R380), RESULT of a KIND 1 bucket
(R378). -/
def Node.redReport (n : Node) (i : Nat) (r : RedEnt) : Node :=
  let c := n.redCtx i
  let me := n.redMe r
  let cnt := r.hi me - r.lo me
  if c.repSent || cnt == 0 || !n.shardDone i r || (redMode r c != 1 && r.kind != 1) then n
  else match n.redRead i ([r.recSpan (r.lo me) cnt] ++ if r.kind = 1 then r.sendSpans c 0 else []) with
    | (false, m) => m
    | (true, m) =>
      let n1 := if redMode r c = 1 then m.redReports i r else m
      let n2 := if r.kind = 1 then n1.redResults i r else n1
      n2.modRed i fun x => { x with repSent := true }

/-- Whether a PART or REPORT of a context is still unacknowledged or unsent (R383). -/
def Node.redOutstanding (n : Node) (i : Nat) : Bool :=
  n.peers.any fun kv => (kv.2.unacked ++ kv.2.waiting).any fun m => m.ctx == i && (match m.msg with
    | .part .. | .report .. => true
    | _ => false)

/-- Whether every other member's REPORT is written (R380). -/
def RedCtx.reported (c : RedCtx) (r : RedEnt) (me : Nat) : Bool :=
  ((List.range r.m).filter (· ≠ me)).all fun q =>
    decide (r.hi q - r.lo q ≤ sumOf (fun p => p.2) (c.repIn.filter fun p => decide (r.lo q ≤ p.1 ∧ p.1 < r.hi q)))

/-- Whether everything of the bucket that this member sends on has gone. -/
def Node.allSent (n : Node) (i : Nat) (r : RedEnt) : Bool :=
  let c := n.redCtx i
  let me := n.redMe r
  (List.range r.nblk).all fun b => r.ownerOf b == me || c.sent.contains b || (redMode r c == 0 && (match Map.look c.entries b with
    | some e => entryZero e || entryNf e
    | none => false))

/-- Whether the bucket is complete at this member (R383). -/
def Node.redComplete (n : Node) (i : Nat) (r : RedEnt) : Bool :=
  let c := n.redCtx i
  let me := n.redMe r
  c.started && !c.hurt && (c.folded || (n.shardDone i r &&
    (if r.kind = 1 then me == 0
     else n.allSent i r && !n.redOutstanding i && (redMode r c != 1 || c.reported r me))))

/-- The bucket completes (R383): its token, and the prediction that an outcome may make valid (R380). -/
def Node.redFinish (n : Node) (i : Nat) (r : RedEnt) : Node :=
  let n1 := n.modRed i fun c => { c with complete := true, pnext := r.transit == 1 && !c.folded }
  if r.notok then n1 else n1.ownToken r.tokLt r.tokThr r.tokCtr n1.commit.epoch

/-- What a bucket that has filled does now. -/
def Node.redRun (n : Node) (i : Nat) : Node :=
  match n.redEnt i with
  | none => n
  | some r =>
    let c := n.redCtx i
    if !c.started || c.complete || c.hurt then n
    else
      let n1 : Node := if c.folded then n
        else
          let pre := redMode r c == 0
          let a : Node := if pre && !c.preSent then n.redPre i r else n
          let b : Node := if pre then (a.redCombine i r).redGrids i r else a
          ((b.redSend i r).redBlocks i r).redReport i r
      if n1.redComplete i r then n1.redFinish i r else n1

/-- A bucket that has filled starts, once, though further armings may complete before it does; one that writes its thinning buffer waits for MRELEASE (13 R419). -/
def Node.redTryStart (n : Node) (i : Nat) : Node :=
  match n.redEnt i with
  | none => n
  | some r =>
    let c := n.redCtx i
    if r.fills ≤ c.filled ∧ !c.started ∧ (r.thin = 1 ∨ n.commit.released) then (n.redStart i r).redRun i else n

/-- A copy whose side 1 lies in bucket `i`'s local region completed (R373). -/
def Node.fillBucket (n : Node) (i : Nat) : Node := (n.modRed i fun c => { c with filled := c.filled + 1 }).redTryStart i

/-- MRELEASE has come: buckets that waited for it start. -/
def Node.redReleased (n : Node) : Node := n.job.red.foldl (fun m kv => m.redTryStart kv.1) n

/-! ### Arrivals (R378-R387) -/

/-- Whether a REDUCE message of SUB `sub`, from node `src`, for blocks `first` to `first + cnt - 1` of context `i` is
refused with code VERSION (R387): 1 PRE, 2 GRID, 3 PART, 4 REPORT, 5 RESULT. -/
def Node.redRefused (n : Node) (i sub src first cnt : Nat) : Bool :=
  match n.redEnt i with
  | none => true
  | some r =>
    let me := n.redMe r
    let q := r.members.idxOf src
    !r.members.contains src || cnt == 0 || decide (4096 < cnt) || decide (r.nblk < first + cnt)
      || r.ownerOf first != r.ownerOf (first + cnt - 1)
      || (match sub with
          | 1 => r.ownerOf first != me
          | 2 => r.ownerOf first != q
          | 3 => (r.nextHop q first != me && r.ownerOf first != me) || q == r.ownerOf first
          | 4 => r.ownerOf first != q
          | 5 => r.kind != 1 || q != 0
          | _ => true)

/-- A PRE arrives: its entries are held. -/
def Node.applyPre (n : Node) (i src first : Nat) (es : List (BitVec 16)) : Node :=
  match n.redEnt i with
  | none => n
  | some r => (n.modRed i fun c => { c with preIn := c.preIn ++ [(r.members.idxOf src, first, es)] }).redRun i

/-- A GRID arrives: held until the bucket has filled. -/
def Node.applyGrid (n : Node) (i first : Nat) (es : List (BitVec 16)) : Node :=
  (n.modRed i fun c => { c with gridIn := c.gridIn ++ [(first, es)] }).redRun i

/-- A receiver's residue check (R391) and digest (R392) of blocks from `first`. -/
def Node.checkResidue (n : Node) (i src first : Nat) (res : Option Nat) (ts : List TBlock) : Node :=
  let pay := sumOf (fun (tk : TBlock × Nat) => blkResidue tk.1 (first + tk.2)) (ts.zip (List.range ts.length)) % Config.p61
  let n1 := n.digestPeer src true pay
  match res with
  | some x => if n1.residueMode && x % Config.p61 != pay then n1.resMismatch 1 i src first else n1
  | none => n1

/-- A PART arrives (R374, R378): every block is added into the records. -/
def Node.applyPart (n : Node) (i src first : Nat) (res : Option Nat) (ts : List TBlock) : Node :=
  match n.redEnt i with
  | none => n
  | some r =>
    let n1 := n.checkResidue i src first res ts
    let n2 := (ts.zip (List.range ts.length)).foldl (fun m tk =>
      let b := first + tk.2
      (m.addBlock i r b tk.1).modRed i fun c => { c with
        inForm := Map.put c.inForm b (incomingMax (Map.look c.inForm b) tk.1)
        got := Map.put c.got b (Map.getD c.got b 0 + 1) }) n1
    n2.redRun i

/-- A REPORT arrives (R380): its entries are written to PRED_BASE. -/
def Node.applyReport (n : Node) (i first : Nat) (es : List (BitVec 16)) : Node :=
  match n.redEnt i with
  | none => n
  | some r => ((n.putPred r first es).modRed i fun c => { c with repIn := c.repIn ++ [(first, es.length)] }).redRun i

/-- A RESULT arrives (R378, R383): written over this member's records, which completes the bucket. -/
def Node.applyResult (n : Node) (i src first : Nat) (res : Option Nat) (ts : List TBlock) : Node :=
  match n.redEnt i with
  | none => n
  | some r =>
    let n1 := n.checkResidue i src first res ts
    let n2 := (ts.zip (List.range ts.length)).foldl (fun m tk =>
      let b := first + tk.2
      if tk.1.form = 5 then
        ((m.zeroBlock r b).sideBlock r b tk.1.side).modRed i fun c => { c with nf := true }
      else (List.range 64).foldl (fun k e => k.addLocal i r b e (blkEntry tk.1 e)) (m.zeroBlock r b)) n1
    n2.redFinish i r

/-- An ACK covers a REDUCE message of context `i` (R383, R384): the blocks of a PART of the present attempt return to zero; those
of an earlier one did at its outcome. -/
def Node.redAcked (n : Node) (i : Nat) (m : Msg) : Node :=
  match n.redEnt i with
  | none => n
  | some r =>
    match m with
    | .part f e ts =>
      if e ≠ n.commit.epoch then n
      else
      let n1 := if (n.redCtx i).complete && r.kind == 1 then n else n.zeroBlocks r f ts.length
      (n1.modRed i fun c => { c with acked := c.acked ++ span f ts.length }).redRun i
    | .report .. => n.redRun i
    | _ => n

/-! ### Outcomes (R373, R380, R384, R385) -/

/-- A context after an outcome. -/
def RedCtx.outcome (c : RedCtx) (kept : Bool) : RedCtx :=
  { c.rest with pvalid := c.pvalid || (kept && c.pnext) }

/-- What an outcome does to a bucket: `kept` says Commit or Skip. -/
def Node.redOutcome (n : Node) (kept : Bool) (i : Nat) (r : RedEnt) : Node :=
  let me := n.redMe r
  let n1 := if kept then (if r.kind = 1 then n.zeroBlocks r 0 r.nblk else n.zeroBlocks r (r.lo me) (r.hi me - r.lo me))
            else n.zeroBlocks r 0 r.nblk
  n1.modRed i (·.outcome kept)

/-- What an outcome does to every bucket; an abandoned attempt's REDUCE messages are discarded. -/
def Node.redOutcomes (n : Node) (kept : Bool) : Node :=
  let isRed (m : OutMsg) : Bool := match m.msg with
    | .pre .. | .grid .. | .part .. | .report .. | .result .. => true
    | _ => false
  let n1 : Node := if kept then n else
    { n with peers := Map.mapVals (fun p => { p with
        unacked := p.unacked.filter fun m => !isRed m, waiting := p.waiting.filter fun m => !isRed m }) n.peers }
  n1.job.red.foldl (fun m kv => m.redOutcome kept kv.1 kv.2) n1

/-- Digest mode: the step's 1,024 bytes are zeroed when an attempt begins (R392). -/
def Node.digestStart (n : Node) : Node :=
  if n.residueMode then n
  else n.zeroRange (fld n.redCfg 18 30 * 2 ^ 18 + n.stepCount.toNat % 256 * 1024) 1024

end Sys2Proof.Machine
end

