-- ==== Sys2Proof/Machine/Scalar.lean ====
section
/-! DEFINITION. The scalar family (04 R118-R131): NOP, the ALU, constants, job coordinates, loads and stores with the
completions of theirs, MFENCE, comparisons and predicate logic. -/
namespace Sys2Proof.Machine

/-! ### Shared forms -/

/-- `rd = op(ra, rb)` (R120). -/
def aluR (x : Site) (cost : Nat) (rd ra rb : Fin 32) (op : Word → Word → Word) (n : Node) : Node :=
  n.issueReg x cost false fun th => th.setS rd (op (th.getS ra) (th.getS rb))

/-- `rd = op(ra, sext(IMM))`; `bad` is a reserved immediate (R121). -/
def aluI (x : Site) (cost : Nat) (bad : Bool) (rd ra : Fin 32) (imm : BitVec 32) (op : Word → Word → Word) (n : Node) : Node :=
  n.issueReg x cost bad fun th => th.setS rd (op (th.getS ra) (sext imm))

/-- `pd = cond(ra, rb)` (R130). -/
def cmpR (x : Site) (pd : Fin 8) (ra rb : Fin 32) (c : Word → Word → Bool) (n : Node) : Node :=
  n.issueReg x 1 false fun th => th.setP pd (c (th.getS ra) (th.getS rb))

/-- `pd = cond(ra, sext(IMM))` (R130). -/
def cmpI (x : Site) (pd : Fin 8) (ra : Fin 32) (imm : BitVec 32) (c : Word → Word → Bool) (n : Node) : Node :=
  n.issueReg x 1 false fun th => th.setP pd (c (th.getS ra) (sext imm))

/-- `pd = (p[PA] XOR NA) op (p[PB] XOR NB)` (R131). -/
def plog (x : Site) (pd pa : Fin 8) (na : Bool) (pb : Fin 8) (nb : Bool) (op : Bool → Bool → Bool) (n : Node) : Node :=
  n.issueReg x 1 false fun th => th.setP pd (op (th.getP pa ^^ na) (th.getP pb ^^ nb))

/-! ### Operations of the ALU (R120) -/

/-- Shift left by b & 63. -/
def opShl (a b : Word) : Word := a <<< (b.toNat % 64)
/-- Shift right by b & 63, zero fill. -/
def opShr (a b : Word) : Word := a >>> (b.toNat % 64)
/-- Shift right by b & 63, sign fill. -/
def opSra (a b : Word) : Word := a.sshiftRight (b.toNat % 64)
/-- High half of the unsigned product. -/
def opMulhu (a b : Word) : Word := BitVec.ofNat 64 (a.toNat * b.toNat / 2 ^ 64)
/-- Signed minimum. -/
def opMin (a b : Word) : Word := if a.slt b then a else b
/-- Signed maximum. -/
def opMax (a b : Word) : Word := if a.slt b then b else a
/-- Unsigned minimum. -/
def opMinu (a b : Word) : Word := if a.ult b then a else b
/-- Unsigned maximum. -/
def opMaxu (a b : Word) : Word := if a.ult b then b else a
/-- IMM[31:6] must be zero in an immediate shift (R121). -/
def shiftBad (imm : BitVec 32) : Bool := decide (64 ≤ imm.toNat)

/-- NOP: nothing but the next pc. A word that no row names is an illegal instruction (R106, R117). -/
def execNop (x : Site) (bad : Bool) (s : State) : Host.Outcome State Fault Refusal :=
  lift (fun n => n.issueReg x 1 bad id) s

/-- ADD (R120): ra + rb. -/
def execAdd (x : Site) (rd ra rb : Fin 32) (s : State) : Host.Outcome State Fault Refusal :=
  lift (aluR x 1 rd ra rb (· + ·)) s

/-- SUB (R120): ra − rb. -/
def execSub (x : Site) (rd ra rb : Fin 32) (s : State) : Host.Outcome State Fault Refusal :=
  lift (aluR x 1 rd ra rb (· - ·)) s

/-- AND (R120): ra & rb. -/
def execAnd (x : Site) (rd ra rb : Fin 32) (s : State) : Host.Outcome State Fault Refusal :=
  lift (aluR x 1 rd ra rb (· &&& ·)) s

/-- OR (R120): ra | rb. -/
def execOr (x : Site) (rd ra rb : Fin 32) (s : State) : Host.Outcome State Fault Refusal :=
  lift (aluR x 1 rd ra rb (· ||| ·)) s

/-- XOR (R120): ra ^ rb. -/
def execXor (x : Site) (rd ra rb : Fin 32) (s : State) : Host.Outcome State Fault Refusal :=
  lift (aluR x 1 rd ra rb (· ^^^ ·)) s

/-- SHL (R120): ra << (rb & 63). -/
def execShl (x : Site) (rd ra rb : Fin 32) (s : State) : Host.Outcome State Fault Refusal :=
  lift (aluR x 1 rd ra rb opShl) s

/-- SHR (R120): ra >> (rb & 63), zero fill. -/
def execShr (x : Site) (rd ra rb : Fin 32) (s : State) : Host.Outcome State Fault Refusal :=
  lift (aluR x 1 rd ra rb opShr) s

/-- SRA (R120): ra >> (rb & 63), sign fill. -/
def execSra (x : Site) (rd ra rb : Fin 32) (s : State) : Host.Outcome State Fault Refusal :=
  lift (aluR x 1 rd ra rb opSra) s

/-- MUL (R120): low 64 bits of ra × rb. -/
def execMul (x : Site) (rd ra rb : Fin 32) (s : State) : Host.Outcome State Fault Refusal :=
  lift (aluR x 2 rd ra rb (· * ·)) s

/-- MULHU (R120): high 64 bits of the unsigned product. -/
def execMulhu (x : Site) (rd ra rb : Fin 32) (s : State) : Host.Outcome State Fault Refusal :=
  lift (aluR x 2 rd ra rb opMulhu) s

/-- MIN (R120): signed minimum. -/
def execMin (x : Site) (rd ra rb : Fin 32) (s : State) : Host.Outcome State Fault Refusal :=
  lift (aluR x 1 rd ra rb opMin) s

/-- MAX (R120): signed maximum. -/
def execMax (x : Site) (rd ra rb : Fin 32) (s : State) : Host.Outcome State Fault Refusal :=
  lift (aluR x 1 rd ra rb opMax) s

/-- MINU (R120): unsigned minimum. -/
def execMinu (x : Site) (rd ra rb : Fin 32) (s : State) : Host.Outcome State Fault Refusal :=
  lift (aluR x 1 rd ra rb opMinu) s

/-- MAXU (R120): unsigned maximum. -/
def execMaxu (x : Site) (rd ra rb : Fin 32) (s : State) : Host.Outcome State Fault Refusal :=
  lift (aluR x 1 rd ra rb opMaxu) s

/-- CLZ (R120): leading zero bits of ra, 0 to 64. -/
def execClz (x : Site) (rd ra : Fin 32) (s : State) : Host.Outcome State Fault Refusal :=
  lift (aluR x 1 rd ra 0 fun a _ => BitVec.ofNat 64 (leadZeros a.toNat 64)) s

/-- POPC (R120): one bits of ra, 0 to 64. -/
def execPopc (x : Site) (rd ra : Fin 32) (s : State) : Host.Outcome State Fault Refusal :=
  lift (aluR x 1 rd ra 0 fun a _ => BitVec.ofNat 64 (popCount a.toNat 64)) s

/-- ADDI (R120, R121): ADD with b = sext(IMM). -/
def execAddi (x : Site) (rd ra : Fin 32) (imm : BitVec 32) (s : State) : Host.Outcome State Fault Refusal :=
  lift (aluI x 1 false rd ra imm (· + ·)) s

/-- SUBI (R120, R121): SUB with b = sext(IMM). -/
def execSubi (x : Site) (rd ra : Fin 32) (imm : BitVec 32) (s : State) : Host.Outcome State Fault Refusal :=
  lift (aluI x 1 false rd ra imm (· - ·)) s

/-- ANDI (R120, R121): AND with b = sext(IMM). -/
def execAndi (x : Site) (rd ra : Fin 32) (imm : BitVec 32) (s : State) : Host.Outcome State Fault Refusal :=
  lift (aluI x 1 false rd ra imm (· &&& ·)) s

/-- ORI (R120, R121): OR with b = sext(IMM). -/
def execOri (x : Site) (rd ra : Fin 32) (imm : BitVec 32) (s : State) : Host.Outcome State Fault Refusal :=
  lift (aluI x 1 false rd ra imm (· ||| ·)) s

/-- XORI (R120, R121): XOR with b = sext(IMM). -/
def execXori (x : Site) (rd ra : Fin 32) (imm : BitVec 32) (s : State) : Host.Outcome State Fault Refusal :=
  lift (aluI x 1 false rd ra imm (· ^^^ ·)) s

/-- SHLI (R120, R121): SHL with b = sext(IMM). -/
def execShli (x : Site) (rd ra : Fin 32) (imm : BitVec 32) (s : State) : Host.Outcome State Fault Refusal :=
  lift (aluI x 1 (shiftBad imm) rd ra imm opShl) s

/-- SHRI (R120, R121): SHR with b = sext(IMM). -/
def execShri (x : Site) (rd ra : Fin 32) (imm : BitVec 32) (s : State) : Host.Outcome State Fault Refusal :=
  lift (aluI x 1 (shiftBad imm) rd ra imm opShr) s

/-- SRAI (R120, R121): SRA with b = sext(IMM). -/
def execSrai (x : Site) (rd ra : Fin 32) (imm : BitVec 32) (s : State) : Host.Outcome State Fault Refusal :=
  lift (aluI x 1 (shiftBad imm) rd ra imm opSra) s

/-- MULI (R120, R121): MUL with b = sext(IMM). -/
def execMuli (x : Site) (rd ra : Fin 32) (imm : BitVec 32) (s : State) : Host.Outcome State Fault Refusal :=
  lift (aluI x 2 false rd ra imm (· * ·)) s

/-- MINI (R120, R121): MIN with b = sext(IMM). -/
def execMini (x : Site) (rd ra : Fin 32) (imm : BitVec 32) (s : State) : Host.Outcome State Fault Refusal :=
  lift (aluI x 1 false rd ra imm opMin) s

/-- MAXI (R120, R121): MAX with b = sext(IMM). -/
def execMaxi (x : Site) (rd ra : Fin 32) (imm : BitVec 32) (s : State) : Host.Outcome State Fault Refusal :=
  lift (aluI x 1 false rd ra imm opMax) s

/-- MINUI (R120, R121): MINU with b = sext(IMM). -/
def execMinui (x : Site) (rd ra : Fin 32) (imm : BitVec 32) (s : State) : Host.Outcome State Fault Refusal :=
  lift (aluI x 1 false rd ra imm opMinu) s

/-- MAXUI (R120, R121): MAXU with b = sext(IMM). -/
def execMaxui (x : Site) (rd ra : Fin 32) (imm : BitVec 32) (s : State) : Host.Outcome State Fault Refusal :=
  lift (aluI x 1 false rd ra imm opMaxu) s

/-- LIL (R122): rd = sext(IMM). -/
def execLil (x : Site) (rd : Fin 32) (imm : BitVec 32) (s : State) : Host.Outcome State Fault Refusal :=
  lift (fun n => n.issueReg x 1 false fun th => th.setS rd (sext imm)) s

/-- LIH (R122): rd = (zext(IMM) << 32) | (rd & 0xFFFF_FFFF). -/
def execLih (x : Site) (rd : Fin 32) (imm : BitVec 32) (s : State) : Host.Outcome State Fault Refusal :=
  lift (fun n => n.issueReg x 1 false fun th => th.setS rd ((zext imm <<< 32) ||| (th.getS rd &&& 0xFFFFFFFF))) s

/-- What GETC selects (R123). -/
def Node.coord (n : Node) (x : Site) : Nat → Word
  | 0 => n.commit.now.step
  | 1 => BitVec.ofNat 64 (ltOf x.tile)
  | 2 => BitVec.ofNat 64 x.thr.val
  | 3 => BitVec.ofNat 64 n.job.node
  | 4 => BitVec.ofNat 64 n.job.nnodes
  | 5 => n.commit.now.skips
  | 6 => n.commit.now.cursor
  | 7 => BitVec.ofNat 64 n.job.highLt
  | 8 => 256
  | _ => BitVec.ofNat 64 n.job.id

/-- GETC (R123); SEL 10-63 are reserved. -/
def execGetc (x : Site) (rd : Fin 32) (sel : BitVec 6) (s : State) : Host.Outcome State Fault Refusal :=
  lift (fun n => n.issueReg x 1 (decide (10 ≤ sel.toNat)) fun th => th.setS rd (n.coord x sel.toNat)) s

/-! ### Loads and stores (R124-R129) -/

/-- The entry of the reduction table whose local region `len` bytes from `a` touch, if any (12 R368, R371). -/
def Node.localHit (n : Node) (a len : Nat) : Option Nat :=
  ((n.job.red.find? fun kv => decide (a < kv.2.localB + kv.2.nblk * 6144 ∧ kv.2.localB < a + len))).map (·.1)

/-- Whether `len` bytes from `a` lie wholly in the SRAM of tile key `t`'s logical tile. -/
def ownSram (t a len : Nat) : Bool :=
  decide (sramAddr (ltOf t) 0 ≤ a ∧ a + len ≤ sramAddr (ltOf t) Config.sramBytes)

/-- Whether `len` bytes from `a` lie in the TLC window of tile key `t`. -/
def ownWindow (t a len : Nat) : Bool :=
  decide (Config.tlcBase + ltOf t * 0x1000 ≤ a ∧ a + len ≤ Config.tlcBase + ltOf t * 0x1000 + 0x1000)

/-- Reads of a tile that count against the bound of 64 (09 R300). -/
def Node.readsOf (n : Node) (t : Nat) : Nat :=
  ((n.tile t).thr.filter fun kv => match kv.2.load with
    | none => false
    | some l => !ownSram t l.addr l.size).length
    + (n.ctxs.filter fun kv => kv.2.lt == t && !kv.2.own).length

/-- Writes of a tile that count against the bound of 32 (09 R300). -/
def Node.writesOf (n : Node) (t : Nat) : Nat :=
  sumOf (fun kv => (kv.2.stores.filter fun a => !ownSram t a 1).length) (n.tile t).thr
    + (n.ctxs.filter fun kv => kv.2.lt == t && kv.2.own).length

/-- The effective address of a scalar access (R124). -/
def ea (th : Thread) (ra : Fin 32) (off : BitVec 32) : Word := th.getS ra + sext off

/-- Where a load of `size` bytes at `a` faults (R125, R126, R59), if it does. -/
def Node.loadBad (n : Node) (x : Site) (a size : Nat) : Option Nat :=
  if 2 ^ 48 ≤ a then some (a % 2 ^ 48)
  else if ownWindow x.tile a size then none
  else n.badAddr a size

/-- Where a store faults (R125, R126, R59, 12 R372), if it does. R372 names no address for a store that touches a local region:
it is the start of the access, which may lie before the region (DESIGN CHOICE, log entry 70). -/
def Node.storeBad (n : Node) (a size : Nat) : Option Nat :=
  if 2 ^ 48 ≤ a then some (a % 2 ^ 48)
  else match n.badAddr a size with
    | some b => some b
    | none => if (n.localHit a size).isSome then some a else none

/-- LD: the load issues and its thread waits for the value (R127), or a bound holds it back (09 R300). -/
def load (x : Site) (rd ra : Fin 32) (off : BitVec 32) (size : Nat) (signed : Bool) (n : Node) : Node :=
  let a := (ea (n.thread x.tile x.thr) ra off).toNat
  let bound : Node → Option Wait := fun m =>
    if (m.loadBad x a size).isNone && !ownSram x.tile a size && decide (64 ≤ m.readsOf x.tile) then some .bound else none
  n.issueAt x 1 false bound fun m =>
    match m.loadBad x a size with
    | some b => m.outOfRange x b
    | none => m.modThread x.tile x.thr fun th =>
        { th.step with wait := .load, load := some { rd := rd, addr := a, size := size, signed := signed } }

/-- ST: the bytes land, and the store is outstanding until STORE_COMPLETE (R127, R129). When between issue and completion others see
them, and whether an access that is not aligned is seen in parts (R128), the spec leaves open: all of them at issue (DESIGN
CHOICE, log entry 94). One towards a tile that a Tile reset holds waits there (17 R508; log entry 105). -/
def storeN (x : Site) (rs ra : Fin 32) (off : BitVec 32) (size : Nat) (n : Node) : Node :=
  let th := n.thread x.tile x.thr
  let a := (ea th ra off).toNat
  let v := th.getS rs
  let bound : Node → Option Wait := fun m =>
    if (m.storeBad a size).isNone && !ownSram x.tile a size && (decide (32 ≤ m.writesOf x.tile) || m.tileHolds a) then some .bound else none
  n.issueAt x 1 false bound fun m =>
    match m.storeBad a size with
    | some b => m.outOfRange x b
    | none => (m.tileStore x.tile a (leBytes v.toNat size)).modThread x.tile x.thr fun t =>
        { t.step with stores := t.stores ++ [a] }

/-- LD8U (R124). -/
def execLd8u (x : Site) (rd ra : Fin 32) (off : BitVec 32) (s : State) : Host.Outcome State Fault Refusal :=
  lift (load x rd ra off 1 false) s

/-- LD16U (R124). -/
def execLd16u (x : Site) (rd ra : Fin 32) (off : BitVec 32) (s : State) : Host.Outcome State Fault Refusal :=
  lift (load x rd ra off 2 false) s

/-- LD32U (R124). -/
def execLd32u (x : Site) (rd ra : Fin 32) (off : BitVec 32) (s : State) : Host.Outcome State Fault Refusal :=
  lift (load x rd ra off 4 false) s

/-- LD64 (R124). -/
def execLd64 (x : Site) (rd ra : Fin 32) (off : BitVec 32) (s : State) : Host.Outcome State Fault Refusal :=
  lift (load x rd ra off 8 false) s

/-- LD8S (R124). -/
def execLd8s (x : Site) (rd ra : Fin 32) (off : BitVec 32) (s : State) : Host.Outcome State Fault Refusal :=
  lift (load x rd ra off 1 true) s

/-- LD16S (R124). -/
def execLd16s (x : Site) (rd ra : Fin 32) (off : BitVec 32) (s : State) : Host.Outcome State Fault Refusal :=
  lift (load x rd ra off 2 true) s

/-- LD32S (R124). -/
def execLd32s (x : Site) (rd ra : Fin 32) (off : BitVec 32) (s : State) : Host.Outcome State Fault Refusal :=
  lift (load x rd ra off 4 true) s

/-- ST8 (R124). -/
def execSt8 (x : Site) (rs ra : Fin 32) (off : BitVec 32) (s : State) : Host.Outcome State Fault Refusal :=
  lift (storeN x rs ra off 1) s

/-- ST16 (R124). -/
def execSt16 (x : Site) (rs ra : Fin 32) (off : BitVec 32) (s : State) : Host.Outcome State Fault Refusal :=
  lift (storeN x rs ra off 2) s

/-- ST32 (R124). -/
def execSt32 (x : Site) (rs ra : Fin 32) (off : BitVec 32) (s : State) : Host.Outcome State Fault Refusal :=
  lift (storeN x rs ra off 4) s

/-- ST64 (R124). -/
def execSt64 (x : Site) (rs ra : Fin 32) (off : BitVec 32) (s : State) : Host.Outcome State Fault Refusal :=
  lift (storeN x rs ra off 8) s

/-- TLC_THR_STATE's code of a thread (03 R109). The table names no code for a wait on a register or on a place in the matrix
queue: it shows 3, as a thread does that waits on a bound (DESIGN CHOICE, log entry 70). -/
def Wait.code : Wait → Nat
  | .idle => 0
  | .ready => 1
  | .tokens _ _ => 2
  | .load | .stores | .bound | .reg | .check => 3
  | .felt _ => 4
  | .admission _ => 5
  | .outcome => 6
  | .halted => 7
  | .exited => 8
  | .barrier _ => 9

/-- Whether the Damask unit of logical tile `lt` is marked faulty (08 R265). -/
def Node.damaskFault (n : Node) (t : Nat) : Bool := (n.physTile (n.physOfKey t)).damask

/-- The register at offset `o` of tile key `t`'s TLC window (03 R107-R111, 05 R157, 08 R265, 20 R593). The model has no clock: how
many handshake cycles passed in which nothing issued (R81) is a free value. -/
def Node.tlcReg (n : Node) (t o : Nat) : Word :=
  let x := n.tile t
  match o with
  | 0x000 => 0x100
  | 0x008 => BitVec.ofNat 64 (2 * b2n x.hold + b2n x.dbgEn)
  | 0x010 => BitVec.ofNat 64 (sumOf (fun i => (x.thread i).wait.code * 16 ^ i) (List.range 8))
  | 0x018 => x.fault.word
  | 0x020 => BitVec.ofNat 64 x.fault.addr
  | 0x028 => x.flags.setWidth 64
  | 0x030 => BitVec.ofNat 64 (4 * b2n (n.damaskFault t) + 2 * b2n x.force + b2n (n.damaskFault t || x.force))
  | 0x038 => x.hsk + BitVec.ofNat 64 (Config.freeField n.free o)
  | 0x040 => x.issued
  | _ => 0

/-- The value of an LD from the issuing tile's TLC window: an aligned 64-bit read gives the register, any other zero
and an access event (02 R60). -/
def Node.windowLoad (n : Node) (t a size : Nat) : Word × Node :=
  if size = 8 ∧ a % 8 = 0 then (n.tlcReg t (a % 0x1000), if a % 0x1000 = 0x038 then n.takeFree else n) else (0, n.logAccess 2 a)

/-- The register image of a loaded value (R124). -/
def loadValue (v size : Nat) (signed : Bool) : Word :=
  if signed then BitVec.ofInt 64 (sgn v (8 * size)) else BitVec.ofNat 64 v

/-- Whether an access waits for a CXL link that is down (10 R317) or for a tile that a Tile reset holds (17 R508). -/
def Node.stalledAt (n : Node) (a : Nat) : Bool :=
  match n.place a with
  | .cxl => n.mems.stalled.contains (n.cxlLink a)
  | .sram lt _ => (n.tile lt).inRst
  | _ => false

/-- The load of a thread returns (R127): the value is read now and written to rd. An uncorrectable word taints the step
and its value is a free one (10 R321). -/
def loadDone (t : Nat) (i : Fin 8) (n : Node) : Node :=
  match (n.thread t i).load with
  | none => n
  | some l =>
    if n.stalledAt l.addr then n
    else
      let give (m : Node) (v : Word) : Node := m.modThread t i fun h =>
        if h.wait = .load then { h.setS l.rd v with wait := .ready, load := none } else { h with load := none }
      if ownWindow t l.addr l.size then
        let r := n.windowLoad t l.addr l.size
        give r.2 r.1
      else
        let r := n.readCheck t l.addr l.size
        ((give r.2.takeFree (loadValue (n.rdNat t l.addr l.size) l.size l.signed)).modTile t Tile.wake)

/-- LOAD_COMPLETE (R127). -/
def execLoadComplete (tile : Nat) (thr : Fin 8) (up : List Upset) (s : State) : Host.Outcome State Fault Refusal :=
  lift (fun n => loadDone tile thr (n.upsets up)) s

/-- Whether a readout of this thread is in the matrix queue: FRD and FRDX count as stores of the thread (05 R155). -/
def Tile.readoutOf (t : Tile) (i : Nat) : Bool := t.queue.any fun e => e.thr == i && (match e.op with
  | .frd .. | .frdx .. => true
  | _ => false)

/-- The oldest store of a thread is complete (R129): a thread that waited for its last store, with
no readout of its own left, becomes ready. A store behind a CXL link that is down stalls (10 R317). -/
def storeDone (t : Nat) (i : Fin 8) (n : Node) : Node :=
  let busy := (n.tile t).readoutOf i
  if (n.thread t i).stores.head?.any n.stalledAt then n
  else (n.modThread t i fun th =>
    let rest := th.stores.drop 1
    { th with stores := rest, wait := if th.wait = .stores ∧ rest.isEmpty ∧ !busy then .ready else th.wait }).modTile t Tile.wake

/-- STORE_COMPLETE (R129). -/
def execStoreComplete (tile : Nat) (thr : Fin 8) (s : State) : Host.Outcome State Fault Refusal :=
  lift (storeDone tile thr) s

/-- MFENCE (R129): the thread is not ready until every store it has issued is complete. -/
def execMfence (x : Site) (s : State) : Host.Outcome State Fault Refusal :=
  lift (fun n => n.issueAt x 1 false noWait fun m => m.modThread x.tile x.thr fun th =>
    { th.step with wait := if th.stores.isEmpty && !(m.tile x.tile).readoutOf x.thr then .ready else .stores }) s

/-- CMP.EQ (R130). -/
def execCmpEq (x : Site) (pd : Fin 8) (ra rb : Fin 32) (s : State) : Host.Outcome State Fault Refusal :=
  lift (cmpR x pd ra rb (· == ·)) s

/-- CMP.NE (R130). -/
def execCmpNe (x : Site) (pd : Fin 8) (ra rb : Fin 32) (s : State) : Host.Outcome State Fault Refusal :=
  lift (cmpR x pd ra rb (· != ·)) s

/-- CMP.LT (R130). -/
def execCmpLt (x : Site) (pd : Fin 8) (ra rb : Fin 32) (s : State) : Host.Outcome State Fault Refusal :=
  lift (cmpR x pd ra rb BitVec.slt) s

/-- CMP.GE (R130). -/
def execCmpGe (x : Site) (pd : Fin 8) (ra rb : Fin 32) (s : State) : Host.Outcome State Fault Refusal :=
  lift (cmpR x pd ra rb (fun a b => !a.slt b)) s

/-- CMP.LTU (R130). -/
def execCmpLtu (x : Site) (pd : Fin 8) (ra rb : Fin 32) (s : State) : Host.Outcome State Fault Refusal :=
  lift (cmpR x pd ra rb BitVec.ult) s

/-- CMP.GEU (R130). -/
def execCmpGeu (x : Site) (pd : Fin 8) (ra rb : Fin 32) (s : State) : Host.Outcome State Fault Refusal :=
  lift (cmpR x pd ra rb (fun a b => !a.ult b)) s

/-- CMP.ANY (R130). -/
def execCmpAny (x : Site) (pd : Fin 8) (ra rb : Fin 32) (s : State) : Host.Outcome State Fault Refusal :=
  lift (cmpR x pd ra rb (fun a b => (a &&& b) != 0)) s

/-- CMP.NONE (R130). -/
def execCmpNone (x : Site) (pd : Fin 8) (ra rb : Fin 32) (s : State) : Host.Outcome State Fault Refusal :=
  lift (cmpR x pd ra rb (fun a b => (a &&& b) == 0)) s

/-- CMPI.EQ (R130). -/
def execCmpiEq (x : Site) (pd : Fin 8) (ra : Fin 32) (imm : BitVec 32) (s : State) : Host.Outcome State Fault Refusal :=
  lift (cmpI x pd ra imm (· == ·)) s

/-- CMPI.NE (R130). -/
def execCmpiNe (x : Site) (pd : Fin 8) (ra : Fin 32) (imm : BitVec 32) (s : State) : Host.Outcome State Fault Refusal :=
  lift (cmpI x pd ra imm (· != ·)) s

/-- CMPI.LT (R130). -/
def execCmpiLt (x : Site) (pd : Fin 8) (ra : Fin 32) (imm : BitVec 32) (s : State) : Host.Outcome State Fault Refusal :=
  lift (cmpI x pd ra imm BitVec.slt) s

/-- CMPI.GE (R130). -/
def execCmpiGe (x : Site) (pd : Fin 8) (ra : Fin 32) (imm : BitVec 32) (s : State) : Host.Outcome State Fault Refusal :=
  lift (cmpI x pd ra imm (fun a b => !a.slt b)) s

/-- CMPI.LTU (R130). -/
def execCmpiLtu (x : Site) (pd : Fin 8) (ra : Fin 32) (imm : BitVec 32) (s : State) : Host.Outcome State Fault Refusal :=
  lift (cmpI x pd ra imm BitVec.ult) s

/-- CMPI.GEU (R130). -/
def execCmpiGeu (x : Site) (pd : Fin 8) (ra : Fin 32) (imm : BitVec 32) (s : State) : Host.Outcome State Fault Refusal :=
  lift (cmpI x pd ra imm (fun a b => !a.ult b)) s

/-- CMPI.ANY (R130). -/
def execCmpiAny (x : Site) (pd : Fin 8) (ra : Fin 32) (imm : BitVec 32) (s : State) : Host.Outcome State Fault Refusal :=
  lift (cmpI x pd ra imm (fun a b => (a &&& b) != 0)) s

/-- CMPI.NONE (R130). -/
def execCmpiNone (x : Site) (pd : Fin 8) (ra : Fin 32) (imm : BitVec 32) (s : State) : Host.Outcome State Fault Refusal :=
  lift (cmpI x pd ra imm (fun a b => (a &&& b) == 0)) s

/-- PLOG.AND (R131). -/
def execPlogAnd (x : Site) (pd pa : Fin 8) (na : Bool) (pb : Fin 8) (nb : Bool) (s : State) : Host.Outcome State Fault Refusal :=
  lift (plog x pd pa na pb nb and) s

/-- PLOG.OR (R131). -/
def execPlogOr (x : Site) (pd pa : Fin 8) (na : Bool) (pb : Fin 8) (nb : Bool) (s : State) : Host.Outcome State Fault Refusal :=
  lift (plog x pd pa na pb nb or) s

/-- PLOG.XOR (R131). -/
def execPlogXor (x : Site) (pd pa : Fin 8) (na : Bool) (pb : Fin 8) (nb : Bool) (s : State) : Host.Outcome State Fault Refusal :=
  lift (plog x pd pa na pb nb xor) s

end Sys2Proof.Machine
end

