-- ==== Sys2Proof/Machine/Streams.lean ====
section
/-! DEFINITION. Streams (09 R269-R287, R300, R301, 05 R182, R183): arming, contexts, generations, the transfer and its
completion, remote and multicast sides (11 R338, R341, R357, R358), and the input digests of armings (14 R449-R453). -/
namespace Sys2Proof.Machine

/-! ### Contexts (R269-R276) -/

/-- The engine that serves tile key `t`: the column of its physical tile. -/
def Node.engineOf (n : Node) (t : Nat) : Nat := physCol (n.physOfKey t)

/-- A free context of engine `e`, the lowest. -/
def Node.freeCtx (n : Node) (e : Nat) : Option Nat := (span (128 * e) 128).find? fun c => (n.ctx c).isNone

/-- The live context of descriptor `i` of tile key `t` (R271). -/
def Node.ctxOf (n : Node) (t i : Nat) : Option (Nat × Ctx) := n.ctxs.find? fun kv => kv.2.lt == t && kv.2.idx == i

/-- Replace context `c`. -/
def Node.setCtx (n : Node) (c : Nat) (x : Ctx) : Node := { n with ctxs := Map.put n.ctxs c x }

/-- Change context `c`, if it is live. -/
def Node.modCtx (n : Node) (c : Nat) (f : Ctx → Ctx) : Node :=
  match n.ctx c with
  | none => n
  | some x => n.setCtx c (f x)

/-- The descriptor of a context, as its slice loaded it. -/
def Node.ctxDesc (n : Node) (x : Ctx) : Option Desc := (n.tile x.lt).descAt x.idx

/-- Advance GEN in the descriptor store (R277): the new generation and the node. -/
def Node.nextGen (n : Node) (t i : Nat) : Nat × Node :=
  let d := ((n.tile t).desc i).getD []
  let g := (fld (dword d 2) 0 16 + 1) % 65536
  (g, n.modTile t fun x => { x with descs := Map.put x.descs i (setAt d 2 (setFld (dword d 2) 0 16 g)) })

/-- The parity of the committed step count (R101). -/
def Node.parity (n : Node) : Nat := n.stepCount.toNat % 2

/-- Whether an arming's side 1 is on this node (R272). -/
def Node.sideHere (n : Node) (d : Desc) : Bool := d.dloc || (!d.mcast && d.dnode == n.self)

/-- The descriptor as arming reads it: a DNODE that names this node is a local side 1. -/
def Node.armDesc (n : Node) (d : Desc) : Desc := { d with dloc := n.sideHere d }

/-- The other nodes on which an arming writes side 1. -/
def Node.sideNodes (n : Node) (d : Desc) : List Nat :=
  if d.dloc then [] else if d.mcast then (n.group d.dnode).filter (· ≠ n.self) else [d.dnode]

/-- Whether an arming counts against the bound on writes (R300): side 0 in the arming tile's SRAM, or a fill. -/
def Desc.ownSide (d : Desc) (lt par : Nat) : Bool := d.kind == 2 || (d.extents (d.read0 par)).all (extentIn lt)

/-- The signed element offset of a SARM (05 R182). -/
def sarmOff (w : Word) : Int := sgn (fld w 0 40) 40

/-! ### What a queued arming waits on (R258, R282, R290) -/

/-- The epoch with which a write at address `a` of this node is compared (R282). -/
def Node.epochAt (n : Node) (a : Nat) : Nat :=
  match n.place a with
  | .sram lt _ => (n.tile lt).epoch
  | _ => n.commit.epoch

/-- The first address of side 1. -/
def Desc.side1At (d : Desc) (par : Nat) : Nat := ((d.extents (d.write1 par)).map fun e => e.1.toNat).headD 0

/-- Armings of fill `i` in the table of `lt` that its schedule lists per step (R258). -/
def Tile.fillsListed (x : Tile) (i : Nat) : Nat :=
  sumOf (fun c : Comm => if c.kind = 3 ∧ c.idx = i then c.perStep else 0) x.comm

/-- Whether descriptor `d` is a fill of group `g`. -/
def fillOf (g : Nat) (d : List Word) : Bool := let p := parseDesc d; p.kind == 2 && p.group == g

/-- Whether every listed fill of group `g` has completed in this step, as tile key `t` meets it. -/
def Node.groupReady (n : Node) (t g : Nat) : Bool :=
  n.usedTiles.all fun lt =>
    let k := if lt = ltOf t then t else lt
    ((n.tile lt).descs.filter fun kv => fillOf g kv.2).all fun kv =>
      decide ((n.tile lt).fillsListed kv.1 ≤ Map.getD n.fills (256 * k + kv.1) 0)

/-- Whether side 0 of a prologue arming overlaps side 1 of a live epilogue context (R290). -/
def Node.behindEpilogue (n : Node) (c : Nat) (d : Desc) (par : Nat) : Bool :=
  d.pclass == 1 && d.kind == 1 && n.ctxs.any fun kv => kv.1 != c && (match n.ctxDesc kv.2 with
    | none => false
    | some e0 =>
      let e := (n.armDesc e0).moved kv.2.arm.off
      e.pclass == 2 && n.writesHere e
        && (d.extents (d.read0 par)).any fun p => (e.extents (e.write1 kv.2.arm.par)).any (overlap p))

/-- WAIT of a queued arming; zero when nothing but a slot is missing. -/
def Node.queuedWait (n : Node) (c : Nat) (x : Ctx) (d : Desc) : Nat :=
  if d.kind = 1 ∧ d.group ≠ 0 ∧ !n.groupReady x.lt d.group then 1
  else if n.behindEpilogue c d x.arm.par then 2
  else if n.writesHere d ∧ n.testAt (d.side1At x.arm.par) x.arm.epoch = .next then 3
  else 0

/-- STR_CTX_STATE (R276) of context `c`. OVERRUN stays, whatever becomes of the context, until a write of 1 clears it. -/
def Node.ctxWord (n : Node) (c : Nat) : Word :=
  let kept := setFld 0 7 1 (b2n (n.overruns.contains c))
  match n.ctx c with
  | none => kept
  | some x =>
    let (pc, wait) := match n.ctxDesc x with
      | none => (0, 0)
      | some d => (d.pclass, if x.state = 1 then n.queuedWait c x ((n.armDesc d).moved x.arm.off) else 0)
    setFld (setFld (setFld (setFld (setFld (setFld (setFld kept 52 12 (ltOf x.lt)) 44 8 x.idx) 28 16 x.gen)
      8 3 wait) 6 1 (b2n x.shadow.isSome)) 4 2 pc) 0 4 x.state

/-! ### Freeing -/

/-- Free context `c`. -/
def Node.freeCtxOf (n : Node) (c : Nat) (t : Nat) : Node :=
  (({ n with ctxs := Map.del n.ctxs c }).wakeAll).tryRestart t

/-! ### SARM (R182, R277-R279) -/

/-- What a SARM waits on: a bound of R300, or a free context (R277). A descriptor error waits on nothing. -/
def Node.sarmWait (n : Node) (x : Site) (an : Fin 8) (ra : Fin 32) : Option Wait :=
  match n.handle x an with
  | none => none
  | some i =>
    match (n.tile x.tile).descAt i with
    | none => none
    | some d0 =>
      if (n.tile x.tile).descHurt i then none else
      let d := (n.armDesc d0).moved (sarmOff ((n.thread x.tile x.thr).getS ra))
      if n.armBad d n.parity || (n.ctxOf x.tile i).isSome then none
      else if d.ownSide (ltOf x.tile) n.parity && decide (32 ≤ n.writesOf x.tile) then some .bound
      else if !d.ownSide (ltOf x.tile) n.parity && decide (64 ≤ n.readsOf x.tile) then some .bound
      else if (n.freeCtx (n.engineOf x.tile)).isNone then some .bound
      else none

/-- An arming that this SARM makes. -/
def Node.newArm (n : Node) (x : Site) (off : Int) : Arm :=
  { off := off, epoch := (n.tile x.tile).epoch, par := n.parity, thr := x.thr, pc := (n.thread x.tile x.thr).pc
    id := (n.tile x.tile).opSeq }

/-- A live context stores the arming in its shadow; one that replaces another sets OVERRUN (R278, R279). -/
def Node.armShadow (n : Node) (c : Nat) (x : Ctx) (a : Arm) : Node :=
  let n1 := n.setCtx c { x with shadow := some a }
  if x.shadow.isSome then
    let n2 : Node := { n1 with strStat := n1.strStat ||| 1, overruns := insertNew c n1.overruns }
    if isShadow x.lt then n2 else n2.event 5 x.lt (n2.ctxWord c)
  else n1

/-- A new context, its arming in effect in QUEUED (R277). -/
def Node.armNew (n : Node) (t i : Nat) (d : Desc) (a : Arm) : Node :=
  match n.freeCtx (n.engineOf t) with
  | none => n
  | some c =>
    let (g, n1) := n.nextGen t i
    n1.setCtx c { lt := t, idx := i, gen := g, state := 1, arm := a, shadow := none
                  writes := [], cells := [], sent := 0, pieces := [], acked := [], asked := [], todo := [], here := false
                  dest := n.sideNodes d, fails := false, dead := false, strag := false, own := d.ownSide (ltOf t) a.par }

/-- SARM. A descriptor that its store cannot give is an uncorrectable event, and the SARM does not issue (10 R320). -/
def execSarm (x : Site) (an : Fin 8) (ra : Fin 32) (s : State) : Host.Outcome State Fault Refusal :=
  lift (fun n => n.issueAt x 1 false (fun m => m.sarmWait x an ra) fun m =>
    match m.handle x an with
    | none => m.descInvalid x none
    | some i =>
      match (m.tile x.tile).descAt i with
      | none => m.descInvalid x (some i)
      | some d0 =>
        let off := sarmOff ((m.thread x.tile x.thr).getS ra)
        let d := (m.armDesc d0).moved off
        if (m.tile x.tile).descHurt i then m.innerBad x.tile
        else if m.armBad d m.parity then m.descInvalid x (some i)
        else
          let a := m.newArm x off
          let m1 := m.modTile x.tile fun t => { t with opSeq := t.opSeq + 1 }
          let m2 := match m1.ctxOf x.tile i with
            | some (c, k) => m1.armShadow c k a
            | none => m1.armNew x.tile i d a
          m2.advance x) s

/-- Bind a handle, if the slice loads the entry (R183). -/
def bindHandle (x : Site) (an : Fin 8) (i : Nat) (m : Node) : Node :=
  if ((m.tile x.tile).desc i).isNone then m.descInvalid x (some i)
  else m.modThread x.tile x.thr fun th => { th.step with a := Map.put th.a an i }

/-- SBIND. -/
def execSbind (x : Site) (an : Fin 8) (idx : BitVec 8) (s : State) : Host.Outcome State Fault Refusal :=
  lift (fun n => n.issueAt x 1 false noWait (bindHandle x an idx.toNat)) s

/-- SBINDR: entry ra[7:0]. -/
def execSbindr (x : Site) (an : Fin 8) (ra : Fin 32) (s : State) : Host.Outcome State Fault Refusal :=
  lift (fun n => n.issueAt x 1 false noWait fun m =>
    bindHandle x an (fld ((m.thread x.tile x.thr).getS ra) 0 8) m) s

/-- What SSTAT reads (R183, R276). -/
def Node.sstat (n : Node) (x : Site) (an : Fin 8) : Word :=
  match n.handle x an with
  | none => 0
  | some i =>
    match n.ctxOf x.tile i with
    | some (c, _) => n.ctxWord c
    | none =>
      let g := fld (dword (((n.tile x.tile).desc i).getD []) 2) 0 16
      setFld (setFld (setFld 0 52 12 (ltOf x.tile)) 44 8 i) 28 16 g

/-- SSTAT. -/
def execSstat (x : Site) (rd : Fin 32) (an : Fin 8) (s : State) : Host.Outcome State Fault Refusal :=
  lift (fun n => n.issueAt x 1 false noWait fun m =>
    let w := m.sstat x an
    m.modThread x.tile x.thr fun th => (th.setS rd w).step) s

/-! ### Stalls -/

/-- Whether a side lies on a CXL link whose requests stall (10 R317), or in a tile that a Tile reset holds (17 R508). -/
def Node.stalledSide (n : Node) (es : List (Int × Int)) : Bool :=
  es.any fun e => n.tileHolds e.1.toNat || n.place e.1.toNat == .cxl
    && (span (e.1.toNat / 64) ((e.2 - e.1).toNat / 64 + 2)).any fun l => n.mems.stalled.contains (n.cxlLink (l * 64))

/-! ### The transfer -/

/-- Number of local coordinates in walk order. -/
def Desc.walkNum (d : Desc) (order c : List Nat) : Nat :=
  ((List.range 5).foldl (fun (a : Nat × Nat) p =>
    let i := order.getD p p
    (a.1 + c.getD i 0 * a.2, a.2 * d.sizes.getD i 1)) (0, 1)).1

/-- The words that an element of a side and its scale touch. -/
def SideAt.words (s : SideAt) (l : Int) : List Nat :=
  let b := (s.bitOf l).toNat
  wordsOf (b / 8) (b % 8 / 8 + (b % 8 + s.width + 7) / 8) ++ (match s.scaleOf l with
    | none => []
    | some a => wordsOf a.toNat 1)

/-- The words of side 0 in the order in which its elements are read, each once. -/
def Desc.readOrder (d : Desc) (s : SideAt) (order : List Nat) : List Nat :=
  ((d.walk order).flatMap fun c => s.words (s.line c)).eraseDups

/-- The place in walk order of the first element of side 0 that word `w` holds a part of. -/
def Desc.placeOf (d : Desc) (s : SideAt) (order : List Nat) (w : Nat) : Nat :=
  (d.walk order).findIdx fun c => (s.words (s.line c)).contains w

/-- Elements in a beat of 128 bytes of side 0. -/
def beatOf (w k : Nat) : Nat := k * w / 1024

/-- One element write of side 1 with the scale byte that its block needs: once a block, with its first element. -/
def SideAt.put (s : SideAt) (l : Int) (v : Nat) (scale : Nat) (poison : Bool) : List EWrite :=
  let e : EWrite := { bit := (s.bitOf l).toNat, w := s.width, v := v, poison := poison }
  match s.scaleOf l with
  | none => [e]
  | some a =>
    if l % (blockElems s.bsz : Int) = 0 then [{ bit := 8 * a.toNat, w := 8, v := scale, poison := poison }, e] else [e]

/-- Where side 0 is read from: its source, or in a replay with FROMCAP the capture ring (14 R453). -/
abbrev Reader := List Nat → Int → Nat × Nat

/-- Side 0 as it lies in memory: an element's bits and its scale byte. -/
def Node.readSource (n : Node) (v : Nat) (s : SideAt) : Reader := fun _ l =>
  (n.rdBits v (s.bitOf l) s.width, match s.scaleOf l with
    | none => 0
    | some a => (n.rd v a.toNat).toNat)

/-- The element writes of a plain copy or a fill, in ascending linear index (R257), of the coordinates `cs`. -/
def Desc.writesOf (d : Desc) (par : Nat) (read : Reader) (cs : List (List Nat)) (poison : Bool) : List EWrite :=
  let w := d.write1 par
  let r := d.read0 par
  cs.flatMap fun c =>
    let l := w.line c
    if d.kind = 2 then w.put l (d.fill % 2 ^ w.width) d.sfill poison
    else let x := read c (r.line c); w.put l x.1 x.2 poison

/-- The value that a source element stands for. -/
def sourceVal (s : SideAt) (x : Nat × Nat) (l : Int) : Val :=
  match elemOf s.fmt with
  | none => .nan
  | some t =>
    let v := t.decode x.1
    if (s.scaleOf l).isNone then v else scaled x.2 v

/-- The records of an accumulate-write (08 R255), each with its address. -/
def Desc.cellsOf (d : Desc) (par : Nat) (read : Reader) (cs : List (List Nat)) : List (Nat × FCell) :=
  let w := d.write1 par
  let r := d.read0 par
  cs.map fun c => (((w.bitOf (w.line c)) / 8).toNat, (FCell.zero.take (elementEntry (sourceVal r (read c (r.line c)) (r.line c)))).1)

/-- Merge element writes on consecutive bits into runs of at most 8,192 bytes (11 R338). -/
def joinWrites : List EWrite → List EWrite
  | [] => []
  | e :: t =>
    match joinWrites t with
    | [] => [e]
    | f :: r =>
      if f.bit = e.bit + e.w ∧ (f.bit + f.w + 7) / 8 - e.bit / 8 ≤ 8192 then
        { bit := e.bit, w := e.w + f.w, v := e.v % 2 ^ e.w + f.v * 2 ^ e.w, poison := false } :: r
      else e :: f :: r

/-- The DATA message of a run (R338): whole bytes from its first, with FBIT and LBIT. -/
def dataMsg (epoch : Nat) (e : EWrite) : Nat × Msg :=
  let o := e.bit % 8
  let len := (o + e.w + 7) / 8
  (len, .streamData (e.bit / 8) epoch o ((e.bit + e.w - 1) % 8) (leBytes (e.v % 2 ^ e.w * 2 ^ o) len))

/-- The ACCW messages of records: at most 78 entries of 104 bytes each (R338). -/
def accwMsgs (epoch : Nat) (cells : List (Nat × FCell)) : List (Nat × Msg) :=
  (chunks 78 cells.length cells).map fun l =>
    (104 * l.length, .accw epoch (l.map fun ac => { addr := ac.1, cell := ac.2.record }))

/-- Number messages by the bytes sent up to the end of each. -/
def numbered (l : List (Nat × Msg)) : List (Nat × Msg) :=
  (l.foldl (fun (r : Nat × List (Nat × Msg)) p => (r.1 + p.1, r.2 ++ [(r.1 + p.1, p.2)])) (0, [])).2

/-- The digest of what an arming writes (14 R443), from the messages that would carry it. -/
def piecesDigest (l : List (Nat × Msg)) : Nat :=
  sumOf (fun p : Nat × Msg => match p.2 with
    | .streamData a _ _ _ b => writeDigest a b
    | .accw _ es => sumOf (fun e : AccEntry => writeDigest e.addr e.cell) es
    | _ => 0) l

/-! ### Landing on this node -/

/-- The lowest of two element differences (14 R453). -/
def lowerDiff (a : Option (Nat × Nat)) (b : Nat × Nat) : Option (Nat × Nat) :=
  match a with
  | none => some b
  | some x => if b.1 < x.1 ∨ (b.1 = x.1 ∧ b.2 < x.2) then some b else a

/-- A replay compares each element of a persistent side with what stands at its destination (14 R452). An uncorrectable word
that it reads there is an event (10 R320). -/
def Node.compareReplay (n0 : Node) (d : Desc) (par : Nat) (ws : List EWrite) : Node :=
  if !n0.job.replay || !d.side1.persist || d.accw then n0
  else
    let n := match n0.readWords false noView ((touched ws).map (· / 8)).eraseDups with
      | (none, m) => m
      | (some w, m) => m.uncorrectable noView 0 (w * 8)
    let s := d.write1 par
    let differs (e : EWrite) : Bool := n.rdBits noView e.bit e.w != e.v % 2 ^ e.w
    let bad := ws.filter differs
    let hit (c : List Nat) : Bool :=
      let l := s.line c
      bad.any fun e => e.bit == (s.bitOf l).toNat || (match s.scaleOf l with
        | none => false
        | some a => e.bit == 8 * a.toNat)
    let diff := (d.inOrder.filter hit).foldl (fun r c => lowerDiff r (d.tensor, d.gindex c)) n.tps.diff
    { n with tps := { n.tps with diff := diff } }

/-- The records of local regions that element writes touch, by address. -/
def Node.recsOf (n : Node) (ws : List EWrite) : List Nat :=
  (touched ws).foldl (fun l a => match n.localAt a with
    | none => l
    | some (_, r, b, k) => insertNew (r.recAddr b k) l) []

/-- A write into a local region adds the records it carries (12 R371). A record that came with poison is written poisoned
(10 R305). -/
def Node.landRecords (n : Node) (ws : List EWrite) : Node :=
  let image := n.land noView (ws.filter fun e => !e.poison)
  let hurt := n.recsOf (ws.filter (·.poison))
  (n.recsOf ws).foldl (fun m a =>
    if hurt.contains a then m.storePoison noView a 96
    else m.accumulate a (cellEntry (cellOf (image.rdBytes noView a 96)))) n

/-- An element write cut at byte boundaries. -/
def EWrite.bytewise (e : EWrite) : List EWrite :=
  let o := e.bit % 8
  (List.range e.len).map fun i =>
    let lo := if i = 0 then 0 else 8 * i - o
    let hi := Nat.min e.w (8 * (i + 1) - o)
    { e with bit := e.bit + lo, w := hi - lo, v := e.v / 2 ^ lo % 2 ^ (hi - lo) }

/-- Element writes with a byte in a local region, cut so that each lies wholly in one or wholly outside; the others as they
are. -/
def Node.cutAtLocal (n : Node) (ws : List EWrite) : List EWrite :=
  if n.job.red.isEmpty then ws
  else ws.flatMap fun e => if e.bytes.any fun a => (n.localAt a).isSome then e.bytewise else [e]

/-- The writes of an arming of tile key `t` land on this node: they are compared with the destination's epoch. Bytes of a
local region are added as records, others are written; the arming tile's own SRAM is reached in its own copy alone, and a
shadow's writes land nowhere else (R282, 12 R371, 14 R442, R443). -/
def Node.landArm (n : Node) (t : Nat) (d : Desc) (par epoch : Nat) (ws : List EWrite) (cells : List (Nat × FCell)) : Node :=
  let at0 := d.side1At par
  if isShadow t ∧ !n.lands t at0 then n
  else if n.testAt at0 epoch ≠ .now then n.stale
  else
    let n1 := n.compareReplay d par ws
    let cut := n1.cutAtLocal ws
    let here (e : EWrite) : Bool := (n1.localAt (e.bit / 8)).isSome
    let raw := cut.filter fun e => !here e
    let add := cut.filter here
    let n2 := if raw.isEmpty then n1 else n1.land t raw
    let n3 := if add.isEmpty then n2 else n2.landRecords add
    let n4 := cells.foldl (fun m ac => m.accumulate ac.1 (cellEntry ac.2)) n3
    if d.side1.persist then n4.persistWritten else n4

/-! ### Sending a remote side -/

/-- The bytes that every member has acknowledged (11 R358). -/
def Ctx.lag (x : Ctx) (nodes : List Nat) : Nat := (least (nodes.map fun d => Map.getD x.acked d 0)).getD 0

/-- The pieces that may be sent now: all of a unicast arming, those within the lag window of a multicast one. -/
def Ctx.sendable (x : Ctx) (mc : Bool) (nodes : List Nat) : List (Nat × Msg) :=
  if mc then x.pieces.filter fun p => decide (x.sent < p.1 ∧ p.1 ≤ x.lag nodes + 65536)
  else x.pieces.filter fun p => decide (x.sent < p.1)

/-- Bytes of an arming's messages in all. -/
def Ctx.total (x : Ctx) : Nat := (x.pieces.getLast?.map (·.1)).getD 0

/-- Send pieces in order, each to every node, while all of them can take it (R300, 11 R346): the node, and the bytes sent. -/
def Node.sendPieces (n : Node) (c : Nat) (mc : Bool) (nodes : List Nat) (sent : Nat) : List (Nat × Msg) → Node × Nat
  | [] => (n, sent)
  | p :: rest =>
    if nodes.all fun q => n.clear (OutMsg.make q 4 c mc none p.2) then
      (nodes.foldl (fun k q => k.send q 4 c mc none p.2) n).sendPieces c mc nodes p.1 rest
    else (n, sent)

/-- Send what may go, and a DONE_REQ to every node that has acknowledged everything (11 R338, R341, R358). The context is
DRAINING once the last piece has gone out, and in ERROR then where the beat after it could not be read (R275). This node's
own copy is written as its pieces go. -/
def Node.streamPush (n : Node) (c : Nat) : Node :=
  match n.ctx c with
  | none => n
  | some x =>
    match n.ctxDesc x with
    | none => n
    | some d0 =>
      let d := n.armDesc d0
      let nodes := n.sideNodes d
      if x.state ≠ 2 ∧ x.state ≠ 3 ∨ x.dead ∨ nodes.isEmpty then n
      else
        let (n1, sent) := n.sendPieces c d.mcast nodes x.sent (x.sendable d.mcast nodes)
        let all := decide (sent = x.total)
        if x.fails && all then n1.setCtx c { x with sent := sent, state := 4, pieces := [] }
        else
          let ask := if x.fails then [] else
            nodes.filter fun q => all && Map.getD x.acked q 0 == x.total && x.todo.contains q && !x.asked.contains q
          let a := d.side1At x.arm.par
          let base := (d.write1 x.arm.par).base
          let tok := !d.notok && (match remoteBad a 1 with
            | none => decide (Config.sramBase ≤ a ∧ a < Config.sramBase + Config.ltCount * 0x100000)
            | some _ => false)
          let n2 := n1.setCtx c { x with
            sent := sent, asked := x.asked ++ ask, state := if all then 3 else 2
            acked := if x.here then Map.put x.acked n.self sent else x.acked }
          ask.foldl (fun k q => k.send q 2 c d.mcast none
            (.doneReq base x.arm.epoch (Fin.ofNat 8 d.cthr) (Fin.ofNat 8 d.cctr) tok)) n2

/-- Contexts that wait for a peer look again. -/
def Node.pushStreams (n : Node) : Node := n.ctxs.foldl (fun m kv => m.streamPush kv.1) n

/-! ### Input digests and captures (14 R449, R451, R453) -/

/-- Whether the recorder lists descriptor `i` of tile `t`. -/
def Node.listed (n : Node) (t i : Nat) : Bool := bit n.tps.cfg 0 && n.job.recorder.contains (t, i)

/-- The bytes that the recorder hashes of an arming: side 0's encodings in walk order packed LSB-first, then its scale
bytes in block order. -/
def Desc.hashed (d : Desc) (par : Nat) (read : Reader) : List Byte :=
  let s := d.read0 par
  let cs := d.walk d.side1.order
  let enc := (cs.zip (List.range cs.length)).foldl (fun a ck => a + (read ck.1 (s.line ck.1)).1 * 2 ^ (s.width * ck.2)) 0
  let firsts := cs.filter fun c => (s.scaleOf (s.line c)).isSome && decide (s.line c % (blockElems s.bsz : Int) = 0)
  leBytes enc ((s.width * cs.length + 7) / 8) ++ firsts.map fun c => BitVec.ofNat 8 (read c (s.line c)).2

/-- Bytes of the capture ring. -/
def Node.capBytes (n : Node) : Nat := fld n.tps.cfg 40 24 * 2 ^ 20

/-- CAPN as it acts (R458). -/
def Node.capN (n : Node) : Nat := Nat.min 64 (fld n.tps.cfg 24 8)

/-- Write a capture, or note that it did not fit (R451). -/
def Node.capture (n : Node) (t i nth : Nat) (bs : List Byte) : Node :=
  if n.capN = 0 then n
  else
    let p := n.tps
    let a := fld p.capBase 20 28 * 2 ^ 20
    let live := p.dir.filter fun c => decide (p.capAtt < c.att + n.capN)
    let start := if p.capPos + bs.length ≤ n.capBytes then p.capPos else 0
    let free := live.all fun c => decide (a + start + bs.length ≤ c.addr ∨ c.addr + c.len ≤ a + start)
    if bs.length ≤ n.capBytes ∧ free then
      let k : Capture := { step := n.stepCount.toNat, lt := t, idx := i, nth := nth, addr := a + start
                           len := bs.length, att := p.capAtt }
      let n1 : Node := { n with tps := { p with capPos := start + bs.length, dir := live ++ [k] } }
      n1.store noView (a + start) bs
    else { n with tps := { p with captured := false, stat := setFld p.stat 0 1 1, dir := live } }

/-- The place of an arming that is now granted among those of its descriptor in the attempt (14 R453). -/
def Node.nthArm (n : Node) (x : Ctx) : Nat := Map.getD n.tps.armed (256 * x.lt + x.idx) 0

/-- Count a granted arming of its descriptor. -/
def Node.countArm (n : Node) (x : Ctx) : Node :=
  { n with tps := { n.tps with armed := Map.put n.tps.armed (256 * x.lt + x.idx) (n.nthArm x + 1) } }

/-- Hash a listed arming and capture its bytes. -/
def Node.recordInput (n0 : Node) (x : Ctx) (d : Desc) (read : Reader) : Node :=
  let nth := n0.nthArm x
  let n := n0.countArm x
  if d.kind = 1 ∧ !isShadow x.lt ∧ n.listed x.lt x.idx then
    let bs := d.hashed x.arm.par read
    let r : InDig := { lt := x.lt, idx := x.idx, gen := x.gen, len := bs.length, dig := sha384 bs }
    ({ n with tps := { n.tps with inputs := n.tps.inputs ++ [r] } }).capture x.lt x.idx nth bs
  else n

/-- The address of the recorded record of a replay (R461). -/
def Node.refRec (n : Node) : Nat := fld n.tps.ctl 6 42 * 64

/-- A SHA-384 value as its 48 bytes, first byte first. -/
def hashBytes (h : BitVec 384) : List Byte := beBytes h.toNat 48

/-- Whether the recorded record names the plan of this job (R453). -/
def Node.comparable (n : Node) : Bool := n.rdBytes noView (n.refRec + 64) 48 == hashBytes n.job.planHash

/-- In a replay with FROMCAP, where the capture ring holds the bytes of this arming (R453). -/
def Node.fromCapture (n : Node) (x : Ctx) : Option Capture :=
  let nth := n.nthArm x
  if n.job.replay && bit n.tps.ctl 1 && n.comparable && n.job.recorder.contains (ltOf x.lt, x.idx) then
    (n.tps.dir.filter fun c => c.step == n.stepCount.toNat && c.lt == ltOf x.lt && c.idx == x.idx && c.nth == nth).getLast?
  else none

/-- Side 0 as the capture ring holds it. -/
def Node.readCapture (n : Node) (d : Desc) (s : SideAt) (k : Capture) : Reader := fun c l =>
  let i := d.walkNum d.side1.order c
  let total := d.sizes.foldl (· * ·) 1
  let enc := bits (n.rdNat noView (k.addr + i * s.width / 8) (s.width / 8 + 2)) (i * s.width % 8) s.width
  let blk := i / blockElems s.bsz
  (enc, if (s.scaleOf l).isSome then (n.rd noView (k.addr + (s.width * total + 7) / 8 + blk)).toNat else 0)

/-! ### STREAM_GRANT (R275) -/

/-- A grant to an arming whose reads are sound: its writes wait to land or to be sent. Every read has been issued, so that a
context with nothing to send is DRAINING at once (R275). -/
def Node.grantSound (n : Node) (c : Nat) (x : Ctx) (d : Desc) (read : Reader) : Node :=
  let cs := d.inOrder
  let ws := if d.accw then [] else d.writesOf x.arm.par read cs false
  let cells := if d.accw then d.cellsOf x.arm.par read cs else []
  let msgs := numbered (if d.accw then accwMsgs x.arm.epoch cells else (joinWrites ws).map (dataMsg x.arm.epoch))
  let nodes := if isShadow x.lt then [] else n.sideNodes d
  let here := n.writesHere d
  let n1 := n.digest x.lt (piecesDigest msgs)
  let n2 := n1.setCtx c { x with
    state := if nodes.isEmpty then 3 else 2, writes := if here then ws else [], cells := if here then cells else []
    pieces := if nodes.isEmpty then [] else msgs, todo := nodes, here := here }
  (n2.takeFree).streamPush c

/-- A grant to an arming whose beat with place `k` in walk order carries an uncorrectable word (R275): earlier beats are
written, that beat is written poisoned on this node and not sent to another (10 R321), and the context enters ERROR once the
earlier beats have gone out. -/
def Node.grantBad (n : Node) (c : Nat) (x : Ctx) (d : Desc) (read : Reader) (k : Nat) : Node :=
  let w0 := (d.read0 x.arm.par).width
  let order := d.side1.order
  let good := d.inOrder.filter fun q => decide (beatOf w0 (d.walkNum order q) < beatOf w0 k)
  let hurt := d.inOrder.filter fun q => beatOf w0 (d.walkNum order q) == beatOf w0 k
  let nodes := if isShadow x.lt then [] else n.sideNodes d
  let ws := if d.accw then [] else d.writesOf x.arm.par read good false
  let cells := if d.accw then d.cellsOf x.arm.par read good else []
  let ps := if d.accw then [] else d.writesOf x.arm.par read hurt true
  let recs := if d.accw then (d.cellsOf x.arm.par read hurt).map (·.1) else []
  let msgs := numbered (if d.accw then accwMsgs x.arm.epoch cells else (joinWrites ws).map (dataMsg x.arm.epoch))
  let n1 := if n.writesHere d then
      let m := n.landArm x.lt d x.arm.par x.arm.epoch (ws ++ ps) cells
      recs.foldl (fun q a => q.storePoison x.lt a 96) m
    else n
  if nodes.isEmpty then (n1.takeFree).setCtx c { x with state := 4, shadow := none }
  else ((n1.takeFree).setCtx c { x with state := 2, shadow := none, pieces := msgs, todo := nodes, fails := true }).streamPush c

/-- STREAM_GRANT: a queued context whose waits are met becomes ACTIVE; side 0 is read now, up to its first beat with an
uncorrectable word. -/
def grant (c : Nat) (n : Node) : Node :=
  match n.ctx c with
  | none => n
  | some x =>
    match n.ctxDesc x with
    | none => n
    | some d0 =>
      let d := (n.armDesc d0).moved x.arm.off
      let r := d.read0 x.arm.par
      let order := d.side1.order
      let sides := (if d.kind = 1 then d.extents r else []) ++ (if n.writesHere d then d.extents (d.write1 x.arm.par) else [])
      if x.state ≠ 1 ∨ !n.on ∨ n.stalledSide sides ∨ n.queuedWait c x d ≠ 0 then n
      else if d.kind = 2 then n.grantSound c x d (fun _ _ => (0, 0))
      else
        match n.fromCapture x with
        | some cap =>
          let read := n.readCapture d r cap
          (match n.readCheck noView cap.addr cap.len with
            | (none, m) => (m.recordInput x d read).grantSound c x d read
            | (some w, m) => (m.countArm x).grantBad c x d read
                (Nat.min ((w * 8 - cap.addr) * 8 / r.width) (d.sizes.foldl (· * ·) 1 - 1)))
        | none =>
          let read := n.readSource x.lt r
          match n.readWords d.shared x.lt (d.readOrder r order) with
          | (none, m) => (m.recordInput x d read).grantSound c x d read
          | (some w, m) => ((m.uncorrectable x.lt 0 (w * 8)).countArm x).grantBad c x d read (d.placeOf r order w)

/-- STREAM_GRANT (R275). -/
def execStreamGrant (ctx : Nat) (up sent : List Upset) (s : State) : Host.Outcome State Fault Refusal :=
  lift (fun n => grant ctx (n.upsets (up ++ sent))) s

/-! ### STREAM_COMPLETE (R273, R275, R278, R281) -/

/-- Whether a STREAM message of context `c` waits to be sent or acknowledged. -/
def Node.outstanding (n : Node) (c : Nat) : Bool :=
  n.peers.any fun kv => (kv.2.unacked ++ kv.2.waiting).any fun m => m.ctx == c && (match m.msg with
    | .streamData .. | .accw .. | .doneReq .. => true
    | _ => false)

/-- What a token adds to an output digest (14 R443). -/
def tokenTerm (node lt thr ctr count : Nat) : Nat :=
  2 ^ 58 + (node * 2 ^ 18 + lt * 2 ^ 6 + thr * 8 + ctr) * 2 ^ 16 + count

/-- What the completion tokens of an arming add to its tile's digest (R273, 14 R443): one for each node on which side 1 lies in
tile SRAM, else the one that comes back to the arming tile. -/
def Node.streamSum (n : Node) (x : Ctx) (d : Desc) : Nat :=
  let a := d.side1At x.arm.par
  if Config.sramBase ≤ a ∧ a < Config.sramBase + Config.ltCount * 0x100000 then
    sumOf (fun node => tokenTerm node ((a - Config.sramBase) / 0x100000) d.cthr d.cctr 1)
      (if d.dloc then [n.self] else if d.mcast then n.group d.dnode else [d.dnode])
  else tokenTerm n.self (ltOf x.lt) d.cthr d.cctr 1

/-- The completion token of an arming (R273), where this node adds it; a shadow's goes into its digest alone (14 R443). -/
def Node.streamToken (n0 : Node) (x : Ctx) (d : Desc) : Node :=
  let n := if d.notok then n0 else n0.digest x.lt (n0.streamSum x d)
  if d.notok || isShadow x.lt then n
  else
    let a := d.side1At x.arm.par
    let inSram := decide (Config.sramBase ≤ a ∧ a < Config.sramBase + Config.ltCount * 0x100000)
    if !inSram then n.ownToken x.lt d.cthr d.cctr x.arm.epoch
    else if n.writesHere d then n.ownToken ((a - Config.sramBase) / 0x100000) d.cthr d.cctr x.arm.epoch
    else n

/-- The shadow takes effect (R278): GEN advances and the context is QUEUED again, counted by where its own side 0 lies
(R300). -/
def Node.nextArm (n : Node) (c : Nat) (x : Ctx) (a : Arm) : Node :=
  let (g, n1) := n.nextGen x.lt x.idx
  let own := match n.ctxDesc x with
    | none => x.own
    | some d => ((n.armDesc d).moved a.off).ownSide (ltOf x.lt) n.parity
  n1.setCtx c { x with
    gen := g, state := 1, arm := { a with par := n.parity }, shadow := none, writes := [], cells := [], sent := 0
    pieces := [], acked := [], asked := [], todo := [], here := false, fails := false, strag := false, own := own }

/-- An arming completes: fill counts, the bucket it fills, its token, and then its shadow or FREE. -/
def Node.finishCtx (n : Node) (c : Nat) (x : Ctx) (d : Desc) : Node :=
  let key := 256 * x.lt + x.idx
  let n1 : Node := if d.kind = 2 ∧ d.group ≠ 0 then { n with fills := Map.put n.fills key (Map.getD n.fills key 0 + 1) } else n
  let n2 := n1.streamToken x d
  let n3 := match x.shadow with
    | some a => (n2.nextArm c x a).wakeAll
    | none => n2.freeCtxOf c x.lt
  let n4 := if d.kind = 1 ∧ n.writesHere d ∧ !isShadow x.lt then
      (match n3.wholeIn ((d.extents (d.write1 x.arm.par)).headD (0, 0)) with
        | some (i, _) => n3.fillBucket i
        | none => n3)
    else n3
  n4.pushTokens

/-- STREAM_COMPLETE: an arming all of whose writes are done completes, unless they wait for a CXL link that is down (10 R317); a context in ERROR or of an abandoned attempt is
freed once nothing of it is outstanding. -/
def complete (c : Nat) (n : Node) : Node :=
  match n.ctx c with
  | none => n
  | some x =>
    match n.ctxDesc x with
    | none => n.freeCtxOf c x.lt
    | some d0 =>
      let d := (n.armDesc d0).moved x.arm.off
      if x.dead ∨ x.state = 4 then (if n.outstanding c then n else (n.freeCtxOf c x.lt).pushTokens)
      else if x.state ≠ 3 ∨ !x.todo.isEmpty ∨ !n.on ∨ (x.here ∧ n.testAt (d.side1At x.arm.par) x.arm.epoch = .next)
          ∨ (x.here ∧ n.stalledSide (d.extents (d.write1 x.arm.par))) then n
      else
        let n1 := if x.here then n.landArm x.lt d x.arm.par x.arm.epoch x.writes x.cells else n
        n1.finishCtx c { x with writes := [], cells := [], here := false } d

/-- STREAM_COMPLETE (R275). -/
def execStreamComplete (ctx : Nat) (s : State) : Host.Outcome State Fault Refusal := lift (complete ctx) s

/-! ### Replies and refusals of remote sides -/

/-- Drop what a context has not yet sent. -/
def Node.dropUnsent (n : Node) (c : Nat) : Node :=
  let ours (m : OutMsg) : Bool := m.ctx == c && (match m.msg with
    | .streamData .. | .accw .. | .doneReq .. => true
    | _ => false)
  { n with peers := Map.mapVals (fun p => { p with waiting := p.waiting.filter fun m => !ours m }) n.peers }

/-- A DONE from node `d` (R341): the reply to the DONE_REQ that the arming in effect has sent there. -/
def Node.streamDone (n : Node) (c d addr epoch : Nat) : Node :=
  match n.ctx c with
  | none => n
  | some x =>
    match n.ctxDesc x with
    | none => n
    | some e =>
      if x.asked.contains d ∧ epoch = x.arm.epoch ∧ addr = ((n.armDesc e).write1 x.arm.par).base then
        (n.setCtx c { x with todo := x.todo.filter (· ≠ d) }).pushTokens
      else n

/-- The bytes of a persistent side that a replay writes on another node are compared there (14 R452). No message carries what
the comparison finds: it is a free value (log entry 90). -/
def Node.compareThere (n : Node) (d : Desc) : Node :=
  if n.job.replay && !d.accw then
    match Config.freeDiff n.free with
    | none => n.takeFree
    | some i => { n.takeFree with tps := { n.tps with diff := lowerDiff n.tps.diff (d.tensor, i) } }
  else n

/-- An ACK covers bytes of an arming's DATA at node `d` (11 R358); a straggler may be reported again once A advances
(R359). Bytes of a persistent side have then been written there (13 R420), in a replay after a comparison (14 R452). -/
def Node.streamAcked (n : Node) (c d bytes : Nat) : Node :=
  match n.ctx c with
  | none => n
  | some x =>
    let nodes := match n.ctxDesc x with
      | none => []
      | some e => n.sideNodes (n.armDesc e)
    let y : Ctx := { x with acked := Map.put x.acked d (Map.getD x.acked d 0 + bytes) }
    let m := match n.ctxDesc x with
      | none => n
      | some e => if e.side1.persist then (n.compareThere e).persistWritten else n
    (m.setCtx c { y with strag := y.strag && y.lag nodes == x.lag nodes }).streamPush c

/-- Payload bytes of a STREAM message that carries data. -/
def streamBytes : Msg → Nat
  | .streamData _ _ _ _ b => b.length
  | .accw _ es => 104 * es.length
  | _ => 0

/-- A NAK stops a transfer (R274, 11 R351): the context enters ERROR and its arming thread takes a fault of class `cls`;
an abandoned arming raises none (R281). -/
def Node.streamRefused (n : Node) (c cls addr : Nat) : Node :=
  match n.ctx c with
  | none => n
  | some x =>
    let n1 := (n.dropUnsent c).setCtx c { x with state := 4, shadow := none, pieces := [], writes := [], cells := [] }
    if x.dead ∨ x.state = 4 then n1
    else n1.takeFault x.lt x.arm.thr cls x.arm.pc (if cls = 3 then BitVec.ofNat 32 x.idx else 0) (if cls = 2 then addr else 0)

/-- An outcome of Re-execute or Abort reaches the armings (R281): queued ones and shadows are discarded; others stop, and
are freed once their outstanding beats are acknowledged or refused. -/
def Node.abandonStreams (n : Node) : Node :=
  let live := n.ctxs.filter fun kv => kv.2.state != 1
  let n1 := live.foldl (fun m kv => m.dropUnsent kv.1) n
  let keep := live.filter fun kv => n1.outstanding kv.1
  { n1 with ctxs := keep.map fun kv => (kv.1, { kv.2 with
      dead := true, shadow := none, writes := [], cells := [], pieces := [], here := false }) }

end Sys2Proof.Machine
end

