-- ==== Sys2Proof/Machine/Voile.lean ====
section
/-! DEFINITION. Voile (05 R184, R185, 09 R296-R300): VPUT, VGET, their completion, and the messages of the path. -/
namespace Sys2Proof.Machine

/-! ### Issue -/

/-- Where a Voile operation is at fault when it issues (R185), if it is: the local range, the high bits of the remote
address, the remote range on this node, the node. Where more than one is, the first of these; a node that is not in the job
gives ra[47:0], and a VPUT that touches a local region the start of its remote range (DESIGN CHOICE, log entry 70). -/
def Node.voileBad (n : Node) (x : Site) (put : Bool) (len : Nat) (here : Bool) (node : Nat) (ra : Word) (off : Nat) :
    Option Nat :=
  let a := ra.toNat
  let t := ltOf x.tile
  if Config.sramBytes < off + len then some (sramAddr t Config.sramBytes)
  else if 2 ^ 48 ≤ a then some (a % 2 ^ 48)
  else if here then
    match n.badAddr a len with
    | some b => some b
    | none => if put ∧ (n.localHit a len).isSome then some a else none
  else if n.job.nnodes ≤ node then some a
  else none

/-- A free Voile slot of a tile, the lowest (R300). -/
def Tile.voileSlot (x : Tile) : Option Nat := (List.range 16).find? fun i => (Map.look x.voile i).isNone

/-- The Voile header of an operation (R296). -/
def VoileOp.header (o : VoileOp) (t slot : Nat) : VoileHdr :=
  { len := o.len, srcLt := ltOf t, thr := Fin.ofNat 8 o.thr, ctr := Fin.ofNat 8 o.ctr, epoch := o.epoch, tag := slot
    addr := o.addr }

/-- VPUT and VGET. The bytes of a put are read as it issues: one that would carry an uncorrectable word to another node sends
nothing and is over at once (10 R321; DEDUCED, log entry 71). A shadow's operation goes to no other node (14 R443). -/
def voile (x : Site) (put : Bool) (len : BitVec 8) (dthr ctr : Fin 8) (loc : Bool) (rn ra rb : Fin 32) (n : Node) : Node :=
  n.issueAt x 1 (loc && rn != 0)
    (fun m => if (m.tile x.tile).voileSlot.isNone then some .bound else none)
    fun m =>
      let th := m.thread x.tile x.thr
      let size := len.toNat + 1
      let a := th.getS ra
      let off := fld (th.getS rb) 0 19
      let node := fld (th.getS rn) 0 12
      let here := loc || node == m.self
      match m.voileBad x put size here node a off with
      | some b => m.outOfRange x b
      | none =>
        let src := sramAddr (ltOf x.tile) off
        match (m.tile x.tile).voileSlot with
        | none => m
        | some slot =>
          let (hurt, m) := if put then m.readCheck x.tile src size else (none, m)
          if hurt.isSome && !here then m.advance x else
          let data := if put then m.rdBytes x.tile src size else []
          let op : VoileOp :=
            { put := put, local_ := off, len := size, addr := a.toNat, node := if here then none else some node
              thr := dthr, ctr := ctr, epoch := (m.tile x.tile).epoch, by_ := x.thr, pc := th.pc
              id := (m.tile x.tile).opSeq, data := data, poison := hurt.isSome, arrived := false }
          let m1 := m.modTile x.tile fun t => { t with voile := Map.put t.voile slot op, opSeq := t.opSeq + 1 }
          let m2 := if put then m1.digest x.tile (writeDigest a.toNat data) else m1
          let m3 := if here || isShadow x.tile then m2 else
            m2.send node 7 0 false none (if put then .put (op.header x.tile slot) data else .get (op.header x.tile slot))
          (m3.takeFree).advance x

/-- VPUT (R184). -/
def execVput (x : Site) (len : BitVec 8) (dthr ctr : Fin 8) (loc : Bool) (rn ra rb : Fin 32) (s : State) :
    Host.Outcome State Fault Refusal := lift (voile x true len dthr ctr loc rn ra rb) s

/-- VGET (R184). -/
def execVget (x : Site) (len : BitVec 8) (dthr ctr : Fin 8) (loc : Bool) (rn ra rb : Fin 32) (s : State) :
    Host.Outcome State Fault Refusal := lift (voile x false len dthr ctr loc rn ra rb) s

/-! ### Retirement -/

/-- The slot becomes free; what waited on it looks again. -/
def Node.voileRetire (n : Node) (t slot : Nat) : Node :=
  ((((n.modTile t fun x => { x with voile := Map.del x.voile slot }).wakeAll).tryRestart t).pushTokens)

/-- The token of an operation goes into the digest of the tile that issued it (14 R443): to the tile whose SRAM a put wrote,
else back to the issuing tile (R185). -/
def Node.voileSum (n : Node) (t : Nat) (o : VoileOp) : Node :=
  let there := o.put && decide (Config.sramBase ≤ o.addr ∧ o.addr < Config.regBase)
  n.digest t (if there then tokenTerm (o.node.getD n.self) ((o.addr - Config.sramBase) / 0x100000) o.thr o.ctr 1
              else tokenTerm n.self (ltOf t) o.thr o.ctr 1)

/-- The token of an operation at tile `lt` (R185); a shadow sends none. -/
def Node.voileToken (n : Node) (t : Nat) (o : VoileOp) (lt : Nat) : Node :=
  let m := n.voileSum t o
  if isShadow t then m else m.ownToken lt o.thr o.ctr o.epoch

/-- Whether an operation's access to this node's memory waits (10 R317, 17 R508). -/
def Node.stalledRange (n : Node) (a len : Nat) : Bool := n.stalledSide [((a : Int), ((a + len : Nat) : Int))]

/-- The write of a node-local operation of tile key `t` (R282): compared with the destination's epoch, and held in its slot
where that is one behind. Bytes that were read with an uncorrectable error are written poisoned (10 R305). The bytes of a get
go into the digest of its tile (14 R443). -/
def Node.voileLand (n : Node) (t slot : Nat) (o : VoileOp) (a : Nat) (bs : List Byte) (tok : Nat) : Node :=
  match n.testAt a o.epoch with
  | .now =>
    let k := if o.put then n else n.digest t (writeDigest a bs)
    let m := if !k.lands t a then k else if o.poison then k.storePoison t a bs.length else k.store t a bs
    (m.voileToken t o tok).voileRetire t slot
  | .next => n.modTile t fun x => { x with voile := Map.put x.voile slot { o with arrived := true } }
  | .stale => (n.stale).voileRetire t slot

/-- What a node-local VGET finds in the words that it reads (10 R320): an uncorrectable one taints nothing where the
operation's attempt is over (R281). -/
def Node.voileRead (n : Node) (t : Nat) (o : VoileOp) : Bool × Node :=
  match n.readWords false t (wordsOf o.addr o.len) with
  | (none, m) => (false, m)
  | (some w, m) => (true, if o.epoch = (m.tile t).epoch then m.uncorrectable t 0 (w * 8) else m.ueAt t 0 (w * 8))

/-- VOILE_LOCAL_COMPLETE (R185): a node-local operation moves its bytes and retires, unless it waits for a CXL link that is
down, or whose address lies in a tile that a Tile reset holds (10 R317, 17 R508). A shadow's operation towards another node retires with its token in the digest; the bytes of a get come with
its logical tile's. -/
def voileDone (t slot : Nat) (n : Node) : Node :=
  match Map.look (n.tile t).voile slot with
  | none => n
  | some o =>
    if !n.on then n
    else if o.node.isSome then (if isShadow t then (n.voileSum t o).voileRetire t slot else n)
    else if n.stalledRange o.addr o.len then n
    else if o.put then
      let tok := match n.place o.addr with
        | .sram lt _ => lt
        | _ => ltOf t
      n.voileLand t slot o o.addr o.data tok
    else
      let (hurt, m) := n.voileRead t o
      (m.voileLand t slot { o with poison := hurt } (sramAddr (ltOf t) o.local_) (m.rdBytes t o.addr o.len) (ltOf t)).takeFree

/-- VOILE_LOCAL_COMPLETE (R185). -/
def execVoileLocalComplete (tile slot : Nat) (s : State) : Host.Outcome State Fault Refusal := lift (voileDone tile slot) s

/-! ### Messages (R296, R297, R282) -/

/-- A PUT of the destination's epoch is applied: its bytes, and the token where the address lies in tile SRAM. -/
def Node.applyPut (n : Node) (v : VoileHdr) (data : List Byte) : Node :=
  let n1 := n.store noView v.addr data
  match n1.place v.addr with
  | .sram lt _ => n1.addToken lt v.thr v.ctr 1
  | _ => n1

/-- The reply to a PUT (R297); it echoes the request's header. -/
def Node.answerPut (n : Node) (src : Nat) (v : VoileHdr) : Node := n.send src 3 0 false none (.putDone v)

/-- The reply to a GET: the bytes read. A read that finds an uncorrectable word sends none (10 R321). -/
def Node.answerGet (n : Node) (src : Nat) (v : VoileHdr) : Node :=
  match n.readCheck noView v.addr v.len with
  | (some _, m) => m
  | (none, m) => (m.send src 3 0 false none (.getData v (m.rdBytes noView v.addr v.len))).takeFree

/-- The operation that a reply from node `src` names. -/
def Node.voileOf (n : Node) (src : Nat) (v : VoileHdr) : Option VoileOp :=
  match Map.look (n.tile v.srcLt).voile v.tag with
  | none => none
  | some o => if o.node = some src then some o else none

/-- GET_DATA (R297): written at the local offset unless its epoch is not the tile's own; the VGET retires. A shadow of the tile, which sent no request, receives the bytes
too, and both digests take them (14 R442, R443). -/
def Node.applyGetData (n : Node) (src : Nat) (v : VoileHdr) (data : List Byte) : Node :=
  match n.voileOf src v with
  | none => n
  | some o =>
    let a := sramAddr v.srcLt o.local_
    let bs := data.take o.len
    if epochTest (n.tile v.srcLt).epoch v.epoch = .now then
      let m := (n.digest v.srcLt (writeDigest a bs)).digestShadow v.srcLt (writeDigest a bs)
      ((m.store noView a bs).voileToken v.srcLt o v.srcLt).voileRetire v.srcLt v.tag
    else (n.stale).voileRetire v.srcLt v.tag

/-- PUT_DONE (R297, R185): the VPUT retires; its token comes from here unless it wrote tile SRAM. -/
def Node.applyPutDone (n : Node) (src : Nat) (v : VoileHdr) : Node :=
  match n.voileOf src v with
  | none => n
  | some o =>
    let sram := decide (Config.sramBase ≤ o.addr ∧ o.addr < Config.regBase)
    (if sram then n.voileSum v.srcLt o else n.voileToken v.srcLt o v.srcLt).voileRetire v.srcLt v.tag

/-- A NAK refuses the request of a Voile operation (R185, 11 R351): it retires with a fault of class `cls`, unless its
attempt is over (R281). The operation has no descriptor: DETAIL of class 3 is a free value (log entry 32). -/
def Node.voileRefused (n : Node) (t slot cls addr : Nat) : Node :=
  match Map.look (n.tile t).voile slot with
  | none => n
  | some o =>
    let n1 := n.voileRetire t slot
    if o.epoch = (n.tile t).epoch then
      n1.takeFree.takeFault t o.by_ cls o.pc (if cls = 3 then n1.descDetail none else 0) (if cls = 2 then addr else 0)
    else n1

end Sys2Proof.Machine
end

