-- ==== Sys2Proof/Machine/Arrivals.lean ====
section
/-! DEFINITION. Arrivals that carry an epoch (09 R282): whether each is refused, applied, held or discarded, and its
effect (11 R338, R341, R351, R362, 09 R297, 12 R385, 14 R437). -/
namespace Sys2Proof.Machine

/-- What becomes of an arrival. A refusal carries the NAK code and DETAIL of R351. -/
inductive Fate
  | apply | hold | stale
  | refuse (code detail : Nat)
  deriving DecidableEq, Repr

/-- The fate that an epoch brings. -/
def fateOf (t : EpochTest) : Fate :=
  match t with
  | .now => .apply
  | .next => .hold
  | .stale => .stale

/-- Where a write of `len` bytes at `a` from another node is refused with ADDRESS: a hole, the register region, the
populated capacity (R351), a local region (12 R372). -/
def Node.writeRefused (n : Node) (a len : Nat) : Option Nat :=
  match n.badAddr a len with
  | some b => some b
  | none => if (n.localHit a len).isSome then some a else none

/-- An address refusal, or the fate that the epoch of its destination brings. -/
def Node.addrFate (n : Node) (bad : Option Nat) (a e : Nat) : Fate :=
  match bad with
  | some b => .refuse 2 (b % 65536)
  | none => fateOf (n.testAt a e)

/-- The fate of a message that carries an epoch. Others are applied as they come. -/
def Node.fate (n : Node) (h : Header) (m : Msg) : Fate :=
  match m with
  | .streamData a e _ _ b => n.addrFate (n.writeRefused a b.length) a e
  | .accw e es =>
    match es.findSome? fun x => n.writeRefused x.addr 96 with
    | some b => .refuse 2 (b % 65536)
    | none => fateOf (epochTest n.commit.epoch e)
  | .doneReq a e _ _ _ => fateOf (n.testAt a e)
  | .token lt _ _ _ e => if (n.tile lt).used then fateOf ((n.tile lt).test e) else .apply
  | .retract lt _ _ _ e => fateOf ((n.tile lt).test e)
  | .put v b => n.addrFate (n.writeRefused v.addr b.length) v.addr v.epoch
  | .get v => n.addrFate (n.badAddr v.addr v.len) v.addr v.epoch
  | .getData v _ => if (n.tile v.srcLt).inRst then .hold else .apply
  | .pre f e xs => if n.redRefused h.ctx 1 h.src f xs.length then .refuse 1 0 else fateOf (epochTest n.commit.epoch e)
  | .grid f e xs => if n.redRefused h.ctx 2 h.src f xs.length then .refuse 1 0 else fateOf (epochTest n.commit.epoch e)
  | .part f e bs => if n.redRefused h.ctx 3 h.src f bs.length then .refuse 1 0 else fateOf (epochTest n.commit.epoch e)
  | .report f e xs => if n.redRefused h.ctx 4 h.src f xs.length then .refuse 1 0 else fateOf (epochTest n.commit.epoch e)
  | .result f e bs => if n.redRefused h.ctx 5 h.src f bs.length then .refuse 1 0 else fateOf (epochTest n.commit.epoch e)
  | _ => .apply

/-- A STREAM DATA message writes its bits (R338). -/
def Node.applyData (n : Node) (a fbit lbit : Nat) (bs : List Byte) : Node :=
  let w := 8 * bs.length - fbit - (7 - lbit)
  if bs.isEmpty then n else n.land noView [{ bit := 8 * a + fbit, w := w, v := leNat bs / 2 ^ fbit, poison := false }]

/-- An ACCW message adds its entries (R338, 08 R255). -/
def Node.applyAccw (n : Node) (es : List AccEntry) : Node :=
  es.foldl (fun m e => m.accumulate e.addr (cellEntry (cellOf e.cell))) n

/-- A DONE_REQ adds its token and is answered (R338, 09 R273). -/
def Node.applyDoneReq (n : Node) (a thr ctr : Nat) (token : Bool) : Node :=
  match n.place a with
  | .sram lt _ => if token then n.addToken lt thr ctr 1 else n
  | _ => n

/-- A TOKEN message of the destination's epoch (04 R136). -/
def Node.applyToken (n : Node) (lt thr ctr count : Nat) : Node :=
  if (n.tile lt).used then n.addToken lt thr ctr count else n.misaddressed lt n.self

/-- The effect of an arrival whose epoch is its destination's. -/
def Node.applyMsg (n : Node) (h : Header) (m : Msg) : Node :=
  match m with
  | .streamData a _ f l b => n.applyData a f l b
  | .accw _ es => n.applyAccw es
  | .doneReq a e thr ctr tok => (n.applyDoneReq a thr ctr tok).send h.src 3 h.ctx false none (.done a e)
  | .token lt thr ctr c _ => n.applyToken lt thr ctr c
  | .retract lt s r _ e => n.retractAt lt h.src s r e
  | .put v b => (n.applyPut v b).answerPut h.src v
  | .get v => n.answerGet h.src v
  | .getData v b => n.applyGetData h.src v b
  | .pre f _ xs => n.applyPre h.ctx h.src f xs
  | .grid f _ xs => n.applyGrid h.ctx f xs
  | .part f _ bs => n.applyPart h.ctx h.src f h.res bs
  | .report f _ xs => n.applyReport h.ctx f xs
  | .result f _ bs => n.applyResult h.ctx h.src f h.res bs
  | _ => n

/-- What is left of an arrival that is discarded for its epoch (R282): STALE, and the answer that its issuer needs. -/
def Node.discard (n : Node) (h : Header) (m : Msg) : Node :=
  match m with
  | .doneReq a e _ _ _ => (n.stale).send h.src 3 h.ctx false none (.done a e)
  | .put v _ => (n.stale).answerPut h.src v
  | .get v => (n.stale).answerGet h.src v
  | .getData v b => n.applyGetData h.src v b
  | _ => n.stale

/-- Whether what an arrival reads or writes lies behind a CXL link that is down, so that it stalls (10 R317), or in a tile that a
Tile reset holds (17 R508). -/
def Node.msgStalled (n : Node) (m : Msg) : Bool :=
  match m with
  | .streamData a _ _ _ b => n.stalledRange a b.length
  | .accw _ es => es.any fun e => n.stalledRange e.addr 96
  | .put v b => n.stalledRange v.addr b.length
  | .get v => n.stalledRange v.addr v.len
  | _ => false

/-- Whether an arrival that is discarded for its epoch is answered with what it asked to read all the same (09 R282, R297). -/
def isGet : Msg → Bool
  | .get .. => true
  | _ => false

/-- Apply, hold or discard an arrival. The flag says that it is refused, with what code and detail. -/
def Node.arrival (n : Node) (h : Header) (m : Msg) : Node × Option (Nat × Nat) :=
  let hold : Node := { n with held := n.held ++ [(h, m)] }
  match n.fate h m with
  | .apply => (if n.msgStalled m then hold else n.applyMsg h m, none)
  | .hold => (hold, none)
  | .stale => (if isGet m && n.msgStalled m then hold else n.discard h m, none)
  | .refuse c d => (n, some (c, d))

/-- Node-local Voile writes that wait for their destination's epoch are tried again (R282). -/
def Node.releaseVoile (n : Node) : Node :=
  n.tiles.foldl (fun m kv => (kv.2.voile.filter (·.2.arrived)).foldl (fun k so => voileDone kv.1 so.1 k) m) n

/-- Held arrivals are judged again, in the order in which they came, when the node's epoch has advanced, a Tile
reset has ended or a CXL link is up again (R282, 11 R349, 17 R508, 10 R317). A refusal that the new state of the node brings is answered with a NAK. -/
def Node.releaseHeld (n : Node) : Node :=
  (n.oneInterval fun q => q.held.foldl (fun m hm =>
    match m.arrival hm.1 hm.2 with
    | (k, none) => k.freed hm.1
    | (k, some (c, d)) => (k.nak hm.1.src hm.1.vc hm.1.seq c d).freed hm.1) (({ q with held := [] } : Node).releaseVoile)).pfcAll

/-- The epoch that an arrival carries. -/
def epochOf : Msg → Option Nat
  | .streamData _ e _ _ _ => some e
  | .accw e _ => some e
  | .doneReq _ e _ _ _ => some e
  | .token _ _ _ _ e => some e
  | .retract _ _ _ _ e => some e
  | .put v _ => some v.epoch
  | .get v => some v.epoch
  | .getData v _ => some v.epoch
  | .pre _ e _ => some e
  | .grid _ e _ => some e
  | .part _ e _ => some e
  | .report _ e _ => some e
  | .result _ e _ => some e
  | _ => none

/-- START discards every arrival held for an epoch other than its own (03 R80); one that expects a reply is answered. -/
def Node.dropHeld (n : Node) (e : Nat) : Node :=
  n.held.foldl (fun m hm =>
    if epochOf hm.2 = some e then { m with held := m.held ++ [hm] } else (m.discard hm.1 hm.2).freed hm.1) { n with held := [] }

end Sys2Proof.Machine
end

