-- ==== Sys2Proof/Machine/Tapestry.lean ====
section
/-! DEFINITION. The Tapestry recorder (14 R449-R453, R458-R461): the record of an attempt and what a replay reports. Input
digests and captures are made where an arming reads (Machine/Streams.lean). -/
namespace Sys2Proof.Machine

/-! ### Replay (R452, R453) -/

/-- An input entry of the record at REF_REC: its logical tile, index, GEN, length and digest bytes. -/
def Node.refInput (n : Node) (k : Nat) : Nat × Nat × Nat × Nat × List Byte :=
  let a := n.refRec + 256 + 64 * k
  (n.rdNat noView a 2, n.rdNat noView (a + 2) 1, n.rdNat noView (a + 4) 2, n.rdNat noView (a + 8) 8, n.rdBytes noView (a + 16) 48)

/-- The input entries of the record at REF_REC. -/
def Node.refInputs (n : Node) : List (Nat × Nat × Nat × Nat × List Byte) :=
  (List.range (n.rdNat noView (n.refRec + 4) 2)).map n.refInput

/-- Whether an input digest comes before another: LT, then index, then GEN. -/
def InDig.before (a b : InDig) : Bool :=
  decide (a.lt < b.lt ∨ (a.lt = b.lt ∧ (a.idx < b.idx ∨ (a.idx = b.idx ∧ a.gen < b.gen))))

/-- Put an input digest into its place. -/
def insertDig (x : InDig) : List InDig → List InDig
  | [] => [x]
  | h :: t => if x.before h then x :: h :: t else h :: insertDig x t

/-- Input digests in the order of a record. -/
def sortDigs (l : List InDig) : List InDig := l.foldl (fun r x => insertDig x r) []

/-- The place of entry `k` among those of its descriptor in a list of (LT, index) pairs: an arming of the replay stands
for the recorded arming of its descriptor with the same place in GEN order. -/
def placeAmong (l : List (Nat × Nat)) (k : Nat) : Nat := ((l.take k).filter (some · == l[k]?)).length

/-- The lowest input whose digest differs from the record's (R453). -/
def Node.inputDiff (n : Node) : Option InDig :=
  let ins := sortDigs n.tps.inputs
  let refs := n.refInputs
  let keys := ins.map fun i => (i.lt, i.idx)
  let rkeys := refs.map fun r => (r.1, r.2.1)
  let whole := (n.rdNat noView (n.refRec + 3) 1) % 2 == 0
  ((ins.zip (List.range ins.length)).find? fun ik =>
    let want := (ik.1.lt, ik.1.idx, placeAmong keys ik.2)
    match (refs.zip (List.range refs.length)).find? fun rk => (rk.1.1, rk.1.2.1, placeAmong rkeys rk.2) == want with
    | none => whole
    | some rk => rk.1.2.2.2.1 != ik.1.len || rk.1.2.2.2.2 != hashBytes ik.1.dig).map (·.1)

/-- What a replay reports when the root has decided outcome `o`: KIND, and the fields and index that go with it. -/
def Node.replayKind (n : Node) (o : Nat) : Nat × Nat × Nat × Nat × Nat :=
  let refO := n.rdNat noView (n.refRec + 2) 1
  let wants := bit n.tps.ctl 1 || bit n.tps.ctl 2
  let last := if refO ≠ o then (3, 0, 0, 0, 0) else (0, 0, 0, 0, 0)
  if wants && !n.comparable then (4, 0, 0, 0, 0)
  else if refO = 1 then last
  else match (if bit n.tps.ctl 2 then n.inputDiff else none) with
    | some i => (1, 0, i.lt, i.idx, 0)
    | none => match n.tps.diff with
      | some d => (2, d.1, 0, 0, d.2)
      | none => last

/-- What a replay reads of the record at REF_REC: its header and, to compare digests, its input entries (10 R320). -/
def Node.refRead (n : Node) : Node :=
  match n.readCheck noView n.refRec 256 with
  | (some _, m) => m
  | (none, m) => if bit m.tps.ctl 2 then (m.readCheck noView (m.refRec + 256) (64 * m.rdNat noView (m.refRec + 4) 2)).2 else m

/-- TPS_REPLAY_RES and TPS_REPLAY_IDX at the decision of a replay (R452, R461). -/
def Node.replayFinish (n0 : Node) (o : Nat) : Node :=
  let n := n0.refRead
  let (k, tensor, lt, idx, gi) := n.replayKind o
  let r := setFld (setFld (setFld (setFld (setFld (setFld 0 32 32 tensor) 20 12 lt) 12 8 idx) 10 2 o) 7 3 k) 0 2 2
  { n with tps := { n.tps with resReg := r, idx := BitVec.ofNat 64 gi } }

/-! ### Records (R450, R451) -/

/-- The record that Tapestry has yet to write (14 R450). -/
def Node.dueRec (n : Node) (o : Nat) (wmark : Nat) : Due :=
  { outcome := o, captured := n.tps.captured, job := n.job.id, counts := n.commit.now, seed := n.job.seed, wmark := wmark
    node := n.self, epoch := n.commit.epoch, plan := n.job.planHash, inputs := n.tps.inputs, events := n.tps.events }

/-- An input entry of a record. -/
def InDig.bytes (i : InDig) : List Byte :=
  leBytes i.lt 2 ++ leBytes i.idx 1 ++ leBytes 0 1 ++ leBytes i.gen 2 ++ leBytes 0 2 ++ leBytes i.len 8 ++ hashBytes i.dig

/-- An event entry of a record. -/
def eventBytes (e : Nat × Nat × Word × Word) : List Byte :=
  leBytes e.1 1 ++ leBytes 0 1 ++ leBytes e.2.1 2 ++ leBytes e.2.2.1.toNat 4 ++ leBytes e.2.2.2.toNat 8

/-- Bytes of a record slot: SLOT_LOG2 from 2 to 10, other values act as 4 (R458). -/
def Node.slotBytes (n : Node) : Nat :=
  let l := fld n.tps.cfg 4 4
  1024 * 2 ^ (if 2 ≤ l ∧ l ≤ 10 then l else 4)

/-- The bytes of a record, with the hash of the configuration in force. -/
def Due.bytes (d : Due) (slot : Nat) (config : BitVec 384) : List Byte :=
  let room := (slot - 256) / 16
  let ni := Nat.min d.inputs.length (room / 4)
  let ne := Nat.min (Nat.min d.events.length 64) (room - 4 * ni)
  let trunc := decide (ni < d.inputs.length ∨ ne < Nat.min d.events.length 64)
  leBytes 1 2 ++ leBytes d.outcome 1 ++ leBytes (b2n trunc + 2 * b2n d.captured) 1 ++ leBytes ni 2 ++ leBytes ne 2
    ++ leBytes d.job 8 ++ leBytes d.counts.step.toNat 8 ++ leBytes d.counts.skips.toNat 8 ++ leBytes d.counts.cursor.toNat 8
    ++ leBytes d.seed.toNat 8 ++ leBytes d.wmark 8 ++ leBytes d.node 2 ++ leBytes d.epoch 1 ++ leBytes 0 5
    ++ hashBytes d.plan ++ hashBytes config ++ leBytes 0 96
    ++ ((sortDigs d.inputs).take ni).flatMap InDig.bytes ++ (d.events.take ne).flatMap eventBytes

/-- Write the oldest record that is due into the next slot of the ring. -/
def Node.writeRecord (n : Node) (config : BitVec 384) : Node :=
  match n.tps.due with
  | [] => n
  | d :: rest =>
    let slots := fld n.tps.cfg 8 16
    let next := fld n.tps.stat 16 16
    let a := fld n.tps.recBase 12 36 * 4096 + next * n.slotBytes
    let stat := setFld (setFld n.tps.stat 32 32 (fld n.tps.stat 32 32 + 1)) 16 16 (if next + 1 < slots then next + 1 else 0)
    let n1 : Node := { n with tps := { n.tps with due := rest, stat := stat } }
    n1.store noView a (d.bytes n.slotBytes config)

/-- `len` bytes of a store slot from byte `i`; a byte that no IMAGE fragment wrote reads as zero. -/
def Slot.part (s : Slot) (i len : Nat) : List Byte := (span i len).map fun k => Map.getD s.bytes k 0

/-- A little-endian field of an image header (19 R566). -/
def Slot.field (s : Slot) (i len : Nat) : Nat := leNat (s.part i len)

/-- The bytes of the image in a slot: header and body. -/
def Slot.image (s : Slot) : List Byte := s.part 0 (256 + s.field 16 8)

/-- SHA-384 of the base configuration and the overlay in force, one after the other. -/
def Sec.configHash (c : Sec) : BitVec 384 :=
  sha384 ((c.inForce.drop 1).flatMap fun k => match Map.look c.slots k with
    | none => []
    | some s => s.image)

/-- TAPESTRY_RECORD (R450): while GDDR7 can be written (10 R311). -/
def execTapestryRecord (s : State) : Host.Outcome State Fault Refusal :=
  lift (fun n => if n.on && s.tiersUp then n.writeRecord s.chip.sec.configHash else n) s

end Sys2Proof.Machine
end

