-- ==== Sys2Proof/Machine/Attempt.lean ====
section
/-! DEFINITION. Attempts of a step (03 R78-R80, R87, R96, R98-R102, 09 R281, 13 R405-R411, R419): step entry, shadow
assignments (14 R441, R442), the start of an attempt and the application of an outcome. -/
namespace Sys2Proof.Machine

/-! ### Step entry (R87, R96) -/

/-- The handles that the binding table gives thread `i`. -/
def handlesOf (bind : Map Nat) (i : Nat) : Map Nat :=
  (List.range 8).filterMap fun h => (Map.look bind (8 * i + h)).map fun d => (h, d)

/-- The scalar registers at step entry: s1 the committed step count, s2 the logical tile, s3 the thread. -/
def entryRegs (count : Word) (lt i : Nat) : Map Word := [(1, count), (2, BitVec.ofNat 64 lt), (3, BitVec.ofNat 64 i)]

/-- The step entry state of thread `i` of logical tile `lt`. It reads as ready from here on, also while its tile may not issue:
loaded and not started, held, or before its streams are free (DESIGN CHOICE, log entry 70; R109 names no code for that). -/
def Thread.enter (th : Thread) (count : Word) (lt i : Nat) (bind : Map Nat) : Thread :=
  if th.hasCode then
    { th.again with
      pc := th.entry, wait := .ready, a := handlesOf bind i
      s := entryRegs count lt i }
  else th.again

/-- A used tile at the beginning of an attempt with epoch `e`: its threads at step entry, its arrays released, its units
empty, its part of the attempt clear. It issues nothing before `tryRestart`. One that a Tile reset still holds starts no threads
in this attempt, which is tainted (17 R508: its threads wait for the next outcome after the release). -/
def Tile.enter (x : Tile) (count : Word) (lt e : Nat) : Tile :=
  { x with
    thr := x.thr.map fun kv => (kv.1, kv.2.enter count lt kv.1 x.bind)
    felt := [], queue := [], topk := [], checks := [], bars := [], epoch := e, tainted := x.taintNext || x.inRst, taintNext := false
    verdict := if x.taintNext || x.inRst then some 1 else none, nf := false, restart := true, parked := x.inRst, heldAt := none, digest := 0 }

/-- Every used tile enters an attempt with epoch `e`; shadows of the attempt before are gone. -/
def Node.enterTiles (n : Node) (e : Nat) : Node :=
  let lost := n.tiles.any fun kv => kv.2.hasFdbg
  let real := n.tiles.filter fun kv => decide (kv.1 < 4096)
  { n with
    tiles := real.map fun kv => (kv.1, if kv.2.used then kv.2.enter n.stepCount kv.1 e else kv.2)
    ctxs := n.ctxs.filter fun kv => decide (kv.2.lt < 4096)
    fdbgCtl := fdbgDropped lost n.fdbgCtl, fills := [] }

/-- START finds the used tiles at step entry of the epoch that it names: s1 takes the count, which a ROLLBACK may have set
since (R80, R87, 13 R421 step 7). Counters that tokens of the epoch have reached keep them (09 R282). -/
def Node.enterAgain (n : Node) : Node :=
  { n with tiles := n.tiles.map fun kv => (kv.1, if kv.2.used then
      { kv.2 with thr := kv.2.thr.map fun it => (it.1, if it.2.hasCode then { it.2 with s := entryRegs n.stepCount kv.1 it.1 } else it.2) }
    else kv.2) }

/-- A new step begins: faults seen in the step before and fences in it count no more (R105, 14 R438). -/
def Node.newStep (n : Node) : Node :=
  { n with tiles := Map.mapVals (fun x => { x with recur := [], fences := 0 }) n.tiles }

/-! ### Shadows (14 R441-R445, R447) -/

/-- SHADOW_EVERY as it acts (R454). -/
def Node.shadowEvery (n : Node) : Nat := Nat.min 64 (fld n.guard.chkCfg 0 7)

/-- Whether this step is a shadow step. -/
def Node.shadowStep (n : Node) : Bool := n.shadowEvery != 0 && n.stepCount.toNat % n.shadowEvery == 0

/-- A list from position `k` onwards, wrapping at its end. -/
def rotated (l : List Nat) (k : Nat) : List Nat := l.drop (k % l.length) ++ l.take (k % l.length)

/-- The assignments of die `d` at a shadow step. -/
def Node.assignDie (n : Node) (d : Nat) : List (Nat × Nat) :=
  (rotated (n.marked d) (if d = 0 then n.guard.ptr0 else n.guard.ptr1)).zip (n.spares d)

/-- Assign the shadows of an attempt, those of a mismatched attempt again (R445), and copy each tile to its shadow. -/
def Node.assignShadows (n : Node) : Node :=
  let kept := n.guard.keep.filter fun a => n.isSpare a.2
  let as := if !n.guard.keep.isEmpty then kept else if n.shadowStep then n.assignDie 0 ++ n.assignDie 1 else []
  let n1 : Node := { n with guard := { n.guard with shadows := as, matched := [] } }
  as.foldl (fun m a => (m.copyFinds a.1).setTile (4096 + a.1)
    { (m.tile a.1).copied with fault := .clear, voile := [], restart := true }) n1

/-- P_d advances by the number of healthy spares (R441). -/
def Node.advancePtr (n : Node) : Node :=
  let step (p d : Nat) : Nat := let l := (n.marked d).length; if l = 0 then p else (p + (n.spares d).length) % l
  { n with guard := { n.guard with ptr0 := step n.guard.ptr0 0, ptr1 := step n.guard.ptr1 1 } }

/-- The verified watermark (R447). -/
def Node.watermark (n : Node) : Nat := (least (n.usedTiles.map fun lt => Map.getD n.guard.tx lt 0)).getD 0

/-- What a Commit or Skip does for checks and shadows: t_x of the tiles whose shadows matched, the pointers, the counts of
R438, the assignments kept for a re-execution. -/
def Node.guardDecided (n : Node) : Node :=
  let c := n.stepCount.toNat
  let n1 := if n.shadowStep then
      let m : Node := { n with guard := { n.guard with tx := n.guard.matched.foldl (fun t lt => Map.put t lt c) n.guard.tx } }
      m.advancePtr
    else n
  { n1 with guard := { n1.guard with
      keep := [], phys := Map.mapVals (fun p => { p with chk := 0, turned := true, mism := 0 }) n1.guard.phys } }

/-! ### The start of an attempt -/

/-- Add 1 to every counter of the release list (13 R419). -/
def Node.addReleases (n : Node) : Node :=
  n.oneInterval fun k => k.job.release.foldl (fun m r => if (m.tile r.1).used then m.addToken r.1 r.2.1 r.2.2 1 else m) k

/-- An attempt starts, tainted where a tile already is (14 R437): shadows, entry allowances, the digests of the step, the release list, and the tiles that are
ready to. -/
def Node.startAttempt (n : Node) (h : Hwk) : Node :=
  let n1 : Node := { n with
    commit := { n.commit with running := true, tainted := n.commit.tainted || n.usedTiles.any fun lt => (n.tile lt).tainted }
    tps := { n.tps with inputs := [], armed := [], events := [], captured := n.capN != 0, capAtt := n.tps.capAtt + 1 } }
  let n2 := ((n1.assignShadows).entryAllowances h).digestStart
  let n3 := if n2.commit.released then n2.addReleases else n2
  (n3.tiles.map (·.1)).foldl (fun m t => m.tryRestart t) n3

/-! ### The mirror round (13 R417, R419) -/

/-- Send a CTRL message to every child. -/
def Node.toChildren (n : Node) (m : Msg) : Node := n.children.foldl (fun k d => k.send d 1 0 false none m) n

/-- The committed step count mod 2^32. -/
def Node.count32 (n : Node) : Nat := n.stepCount.toNat % 2 ^ 32

/-- MRELEASE for the current count is held from now on: forwarded, and acted on in a running attempt. -/
def Node.mrelease (n : Node) : Node :=
  let n1 := n.toChildren (.mrelease n.commit.epoch n.count32)
  let n2 : Node := { n1 with
    commit := { n1.commit with released := true }, gng := { n1.gng with state := if n1.gng.state = 2 then 0 else n1.gng.state } }
  (if n2.commit.running then n2.addReleases else n2).redReleased

/-- Whether this node has nothing of its own to seal before MREADY: no mirroring, a count set by a LAUNCH, or a sealed
mirror. -/
def Node.selfReady (n : Node) : Bool := !bit n.gng.cfg 0 || n.job.fresh || n.commit.sealed

/-- Send MREADY, or at the root MRELEASE, once this node and every child are ready for the current count. -/
def Node.checkReady (n : Node) : Node :=
  if n.job.started && !n.commit.readySent && n.selfReady && n.children.all n.commit.kidsReady.contains then
    let n1 : Node := { n with commit := { n.commit with readySent := true } }
    if n.job.node ≠ 0 then n1.send n1.parent 1 0 false none (.mready n1.commit.epoch n1.count32)
    else if n.commit.released then n1 else n1.mrelease
  else n

/-- A range of memory goes to `partner` in messages of up to 8,192 bytes that `mk` makes of the offset in the range and the
bytes, up to the first that cannot be read: the flag says that all of it went. -/
def Node.sendRange (n : Node) (partner src len : Nat) (mk : Nat → List Byte → Msg) : Bool × Node :=
  (List.range (ceilDiv len 8192)).foldl (fun (r : Bool × Node) k =>
    if r.1 then
      let size := Nat.min 8192 (len - 8192 * k)
      match r.2.readCheck noView (src + 8192 * k) size with
      | (some _, m) => (false, m)
      | (none, m) => (true, m.send partner 6 0 false none (mk (8192 * k) (m.rdBytes noView (src + 8192 * k) size)))
    else r) (true, n)

/-- The messages of one entry of the mirror table. -/
def Node.mirrorEntry (n : Node) (partner slot : Nat) (e : Nat × Nat × Nat × Nat) : Bool × Node :=
  n.sendRange partner (if slot = 0 then e.1 else e.2.1) e.2.2.1 fun off bs => .mirrorData slot (e.2.2.2 + off) bs

/-- The commit record of a SEAL or REND. -/
def Node.sealRec (n : Node) : SealRec :=
  { job := n.job.id, step := n.commit.now.step.toNat, skips := n.commit.now.skips.toNat, cursor := n.commit.now.cursor.toNat }

/-- Mirror the state of the committed step count, if mirroring is in force (R417). Where an entry cannot be read no SEAL goes
out: the slot would be taken for a whole copy. -/
def Node.mirror (n : Node) : Node :=
  if bit n.gng.cfg 0 then
    let slot := n.parity
    let partner := fld n.gng.cfg 12 12
    let n1 : Node := { n with gng := { n.gng with slot := slot, state := 1 } }
    let (whole, n2) := n1.job.mirror.foldl (fun (r : Bool × Node) e => if r.1 then r.2.mirrorEntry partner slot e else r) (true, n1)
    if whole then n2.send partner 6 0 false none (.seal slot n2.sealRec) else n2
  else n

/-! ### Outcomes (R99, R143, 13 R409) -/

/-- Every thread with code on every used tile has issued EXIT, and none STEND, and some thread has code (R143). -/
def Node.allExited (n : Node) : Bool :=
  let ts := n.usedTiles.flatMap fun lt => ((n.tile lt).thr.filter fun kv => kv.2.hasCode).map (·.2)
  !ts.isEmpty && ts.all fun th => th.wait == .exited

/-- The counts after an outcome: 0 Commit, 1 Skip, 2 Re-execute, 3 Abort. -/
def Counts.after (c : Counts) (o : Nat) : Counts :=
  match o with
  | 0 => { step := c.step + 1, skips := c.skips, cursor := c.cursor + 1 }
  | 1 => { step := c.step, skips := c.skips + 1, cursor := c.cursor + 1 }
  | _ => c

/-- The commit unit after an outcome: the counts, the commit records on Commit and Skip, the epoch, and nothing of the
attempt. The previous record is that of the Commit before: a rollback to it selects the previous copies (R420; DEDUCED, log
entry 72). -/
def Commit.after (c : Commit) (job o : Nat) : Commit :=
  let now := c.now.after o
  { c with
    now := now, epoch := (c.epoch + 1) % 256, running := false, tainted := false, abort := false, sent := none, fwd := none
    kids := [], last := o, ended := false
    cur := if o ≤ 1 then now else c.cur
    prev := if o = 0 then c.now else c.prev
    recJob := if o ≤ 1 then job else c.recJob
    pwritten := if o = 0 then false else c.pwritten
    sealed := if o = 0 then false else c.sealed
    kidsReady := if o = 0 then [] else c.kidsReady
    readySent := if o = 0 then false else c.readySent
    released := if o = 0 then false else c.released }

/-- The next attempt begins, unless a pending HOLD takes effect (R78). -/
def Node.proceed (n : Node) (h : Hwk) : Node :=
  if n.job.holdNext then { n with job := { n.job with held := true, holdNext := false } }
  else n.startAttempt h

/-- Effect of an outcome `o` on the node: reductions, streams, checks, counts, tiles. `ends` says that the job ends with
it (R79, R143). -/
def Node.outcomeEffect (n : Node) (o : Nat) (ends : Bool) (h : Hwk) : Node :=
  let n1 := n.redOutcomes (decide (o ≤ 1))
  let n2 := if 2 ≤ o then n1.abandonStreams else n1
  let n3 := if o ≤ 1 then n2.guardDecided else n2
  let w := if o ≤ 1 then n3.watermark else n3.guard.wmark
  let n4 : Node := { n3 with
    guard := { n3.guard with wmark := w, shadows := [], matched := [] }
    tps := { n3.tps with due := if bit n3.tps.cfg 0 then n3.tps.due ++ [n.dueRec o w] else n3.tps.due, inputs := [], armed := [], events := [] } }
  let n5 : Node := { n4 with commit := n4.commit.after n4.job.id o, job := { n4.job with fresh := n4.job.fresh && o != 0 } }
  if ends then n5.endJob
  else
    let n6 := n5.enterTiles n5.commit.epoch
    let n7 := if o ≤ 1 then n6.newStep else n6
    let n8 := if o = 0 then n7.mirror else n7
    ((n8.proceed h).checkReady).releaseHeld

/-- Apply an outcome decided by the root and forward it with the tag of its job, which may have ended with it (13 R409). A replay applies Abort instead of what was decided
(14 R452). -/
def Node.applyOutcome (n : Node) (o : Nat) (h : Hwk) : Node :=
  let kids := n.children
  let e := n.commit.epoch
  let tag := n.job.id % 2 ^ 32
  let eff := if n.job.replay then 3 else o
  let ends := eff == 3 || (decide (eff ≤ 1) && n.allExited)
  let n1 := if n.job.replay then n.replayFinish o else n
  let n2 := n1.outcomeEffect eff ends h
  kids.foldl (fun k d => k.sendFor tag d 1 0 false none (.outcome e o)) n2

/-! ### START (R80) -/

/-- Whether the job has not yet started or is held between steps. -/
def Node.startable (n : Node) : Bool := n.job.loaded && (!n.job.started || n.job.held)

/-- The round of R419 as START finds it. After a restore a node that was relaunched or rolled back must complete it again, so
each node says again that it is ready; a node whose mirror of the count was never sealed makes it again (DESIGN CHOICE, log
entry 73). -/
def Node.renewRound (n : Node) : Node :=
  let m : Node := { n with commit := { n.commit with readySent := false } }
  (if m.selfReady || m.gng.state != 0 then m else m.mirror).checkReady

/-- Apply START with epoch `e`: every used tile at step entry, every arrival of another epoch discarded. -/
def Node.applyStart (n : Node) (e : Nat) (h : Hwk) : Node :=
  let same := n.commit.epoch == e
  let n1 := n.dropHeld e
  let n2 : Node := { n1 with
    job := { n1.job with started := true, held := false }
    commit := { n1.commit with epoch := e, kids := if same then n1.commit.kids else [], sent := none, fwd := none } }
  let n3 := if same then n2.enterAgain else n2.enterTiles e
  ((n3.startAttempt h).renewRound).releaseHeld

/-- The start-refused event (20 R595 code 15). -/
def Node.startRefused (n : Node) (src count e : Nat) : Node :=
  n.event 15 0xFFFF (BitVec.ofNat 64 (count % 2 ^ 32 + e % 256 * 2 ^ 32 + src % 4096 * 2 ^ 40))

/-- START is applied, or discarded with an event (R80). -/
def Node.runStart (n : Node) (src count e : Nat) (h : Hwk) : Node :=
  if n.startable && count == n.count32 then n.applyStart e h else n.startRefused src count e

/-- Whether a START waits for the exit to Active. -/
def Node.startWaits (n : Node) : Bool := n.later.any fun w => match w with
  | .start .. => true
  | _ => false

end Sys2Proof.Machine
end

