-- ==== Sys2Proof/Machine/Control.lean ====
section
/-! DEFINITION. Branches, tokens, barriers, phases, step end, exit, retraction and DBGBRK (04 R132-R150). -/
namespace Sys2Proof.Machine

/-- A command whose effect on the node reads the governor's cap and limits in the always-on domain (02 R53: one
snapshot). -/
def liftH (f : Hwk → Node → Node) (s : State) : Host.Outcome State Fault Refusal := lift (f s.chip.hwk) s

/-! ### Branches (R132, R133) -/

/-- A branch: the thread writes its link, if any, and the pc. -/
def branch (x : Site) (f : Thread → Thread) (n : Node) : Node :=
  n.issueAt x 1 false noWait fun m => m.modThread x.tile x.thr f

/-- BR: pc = TARGET. -/
def execBr (x : Site) (target : BitVec 12) (s : State) : Host.Outcome State Fault Refusal :=
  lift (branch x fun th => { th with pc := target.toNat }) s

/-- CALL: rd = pc + 1; pc = TARGET. -/
def execCall (x : Site) (rd : Fin 32) (target : BitVec 12) (s : State) : Host.Outcome State Fault Refusal :=
  lift (branch x fun th => { th.setS rd (BitVec.ofNat 64 (th.pc + 1)) with pc := target.toNat }) s

/-- BRR: pc = ra[11:0]. -/
def execBrr (x : Site) (ra : Fin 32) (s : State) : Host.Outcome State Fault Refusal :=
  lift (branch x fun th => { th with pc := (th.getS ra).toNat % 4096 }) s

/-- CALLR: ra is read before rd is written. -/
def execCallr (x : Site) (rd ra : Fin 32) (s : State) : Host.Outcome State Fault Refusal :=
  lift (branch x fun th => { th.setS rd (BitVec.ofNat 64 (th.pc + 1)) with pc := (th.getS ra).toNat % 4096 }) s

/-- BDEC: rd = rd − 1, and the branch when rd is not zero; on s0 it decrements nothing and always branches. -/
def execBdec (x : Site) (rd : Fin 32) (target : BitVec 12) (s : State) : Host.Outcome State Fault Refusal :=
  lift (branch x fun th =>
    let v := th.getS rd - 1
    if v = 0 then (th.setS rd v).step else { th.setS rd v with pc := target.toNat }) s

/-! ### Tokens (R134-R138) -/

/-- TSEND: a COUNT of zero, and a NODE with LOC, are reserved. -/
def execTsend (x : Site) (node : BitVec 12) (loc : Bool) (lt : BitVec 12) (dthr ctr : Fin 8) (count : BitVec 16)
    (s : State) : Host.Outcome State Fault Refusal :=
  lift (fun n => n.issueAt x 1 (count == 0 || (loc && node != 0)) noWait fun m =>
    (m.sendToken x.tile x.thr loc node.toNat lt.toNat dthr ctr count.toNat).advance x) s

/-- TSENDR: destination from ra, count from rb; a count of zero sends nothing. -/
def execTsendr (x : Site) (ra rb : Fin 32) (s : State) : Host.Outcome State Fault Refusal :=
  lift (fun n => n.issueAt x 1 false noWait fun m =>
    let th := m.thread x.tile x.thr
    let d := th.getS ra
    let c := fld (th.getS rb) 0 16
    if c = 0 then m.advance x
    else (m.sendToken x.tile x.thr (bit d 18) (fld d 19 12) (fld d 0 12) (fld d 12 3) (fld d 15 3) c).advance x) s

/-- TOKEN_ARRIVAL (R89-R92). -/
def execTokenArrival (i : Nat) (s : State) : Host.Outcome State Fault Refusal := lift (arrive i) s

/-- The count of a TWAIT (R137). -/
def twaitCount (th : Thread) (r : Bool) (ra : Fin 32) (count : BitVec 16) : Nat :=
  if r then fld (th.getS ra) 0 16 else count.toNat

/-- TWAIT: waits until the counter holds the count, and subtracts it in the step of its issue (R89, R91). -/
def execTwait (x : Site) (ctr : Fin 8) (r : Bool) (ra : Fin 32) (count : BitVec 16) (s : State) :
    Host.Outcome State Fault Refusal :=
  lift (fun n =>
    let th := n.thread x.tile x.thr
    let c := twaitCount th r ra count
    n.issueAt x 1 (if r then count != 0 else ra != 0)
      (fun _ => if th.getK ctr < c then some (.tokens ctr c) else none)
      fun m => m.modThread x.tile x.thr fun h => (h.setK ctr (h.getK ctr - c)).step) s

/-- TREAD: rd = zext(k[CTR]). -/
def execTread (x : Site) (ctr : Fin 8) (rd : Fin 32) (s : State) : Host.Outcome State Fault Refusal :=
  lift (fun n => n.issueReg x 1 false fun th => th.setS rd (BitVec.ofNat 64 (th.getK ctr))) s

/-! ### Barriers (R139, R140) -/

/-- Whether every thread of the participant set has arrived or has no code. -/
def Tile.barDone (t : Tile) (mask : Nat) (arrived : List Nat) : Bool :=
  (List.range 8).all fun i => !mask.testBit i || arrived.contains i || !(t.thread i).hasCode

/-- Complete a barrier: every participant that waits on it becomes ready. -/
def Tile.releaseBar (t : Tile) (id : Nat) : Tile :=
  { t with
    bars := Map.del t.bars id
    thr := t.thr.map fun kv => (kv.1, if kv.2.wait = .barrier id then { kv.2 with wait := .ready } else kv.2) }

/-- BAR: joins barrier ID with MASK and the issuing thread as its participant set; another set than that of a thread
already waiting is an illegal instruction. -/
def execBar (x : Site) (mask : BitVec 8) (id : Fin 4) (s : State) : Host.Outcome State Fault Refusal :=
  lift (fun n => n.issueAt x 1 false noWait fun m =>
    let t := m.tile x.tile
    let set := mask.toNat ||| 2 ^ x.thr.val
    let old := (Map.look t.bars id).getD { mask := set, arrived := [] }
    if old.mask ≠ set then m.illegal x
    else
      let arrived := insertNew x.thr old.arrived
      let m1 := (m.advance x).setWait x (.barrier id)
      m1.modTile x.tile fun y =>
        let y1 := { y with bars := Map.put y.bars id { mask := set, arrived := arrived } }
        if y1.barDone set arrived then y1.releaseBar id else y1) s

/-! ### Phases and the end of a step (R97, R98, R141-R143) -/

/-- PMARK: a phase absent from the phase table, or not above the thread's last mark, is an illegal instruction; else the
thread waits until the governor has admitted the phase for its tile group. -/
def pmark (x : Site) (phase : BitVec 8) (h : Hwk) (n : Node) : Node :=
  n.issueAt x 1 false noWait fun m =>
    let t := m.tile x.tile
    let p := phase.toNat
    let late : Bool := match (t.thread x.thr).mark with
      | none => false
      | some q => decide (p ≤ q)
    if !t.inSum (some p) || late then m.illegal x
    else
      let (already, m1) := m.request x.tile p
      let m2 := m1.modThread x.tile x.thr fun th =>
        { th.step with mark := some p, wait := if already then .ready else .admission p }
      m2.govern h

/-- PMARK (R141). -/
def execPmark (x : Site) (phase : BitVec 8) (s : State) : Host.Outcome State Fault Refusal := liftH (pmark x phase) s

/-- STEND: the thread's work for the step ends; with V it votes non-finite where p[PV] XOR VN is 1. PV and VN are
reserved without V. -/
def stend (x : Site) (v : Bool) (pv : Fin 8) (vn : Bool) (h : Hwk) (n : Node) : Node :=
  n.issueAt x 1 (!v && (pv != 0 || vn)) noWait fun m =>
    let th := m.thread x.tile x.thr
    let vote := v && (th.getP pv ^^ vn)
    let m1 := m.modThread x.tile x.thr fun q => { q.step with vote := vote, wait := .outcome }
    let m2 := m1.modTile x.tile fun t => { t with nf := t.nf || vote }
    (if vote then m2.digest x.tile (2 ^ 60) else m2).govern h

/-- STEND (R142). -/
def execStend (x : Site) (v : Bool) (pv : Fin 8) (vn : Bool) (s : State) : Host.Outcome State Fault Refusal :=
  liftH (stend x v pv vn) s

/-- EXIT (R143): as STEND without a vote, and the thread counts towards the end of the job. -/
def execExit (x : Site) (s : State) : Host.Outcome State Fault Refusal :=
  liftH (fun h n => n.issueAt x 1 false noWait fun m =>
    (m.modThread x.tile x.thr fun q => { q.step with exited := true, wait := .exited }).govern h) s

/-- RETRACT (R145, R146): RETRACT tokens to every destination of the communication schedule, a tile event, a tainted
verdict at once; the thread does not halt. A shadow's retraction goes nowhere (14 R443). -/
def execRetract (x : Site) (reason : BitVec 8) (s : State) : Host.Outcome State Fault Refusal :=
  lift (fun n => n.issueAt x 1 false noWait fun m =>
    let pc := (m.thread x.tile x.thr).pc
    let m1 := m.advance x
    if isShadow x.tile then m1.modTile x.tile fun t => { t with tainted := true }
    else
      let m2 := m1.sendRetracts x.tile reason.toNat false
      let m3 := m2.event 3 x.tile (BitVec.ofNat 64 (reason.toNat + pc * 256))
      (m3.taintTile x.tile).recurrence x.tile true 0 x.thr pc) s

/-- DBGBRK (R150): nothing while debug mode is off; else the tile holds and a tile event carries CODE. -/
def execDbgbrk (x : Site) (code : BitVec 16) (s : State) : Host.Outcome State Fault Refusal :=
  lift (fun n => n.issueAt x 1 false noWait fun m =>
    let m1 := m.advance x
    if (m.tile x.tile).dbgEn then
      let m2 := m1.modTile x.tile fun t => { t with hold := true }
      if isShadow x.tile then m2 else m2.event 4 x.tile (code.setWidth 64)
    else m1) s

end Sys2Proof.Machine
end

