-- ==== Sys2Proof/Machine/Commit.lean ====
section
/-! DEFINITION. Verdicts and their tree (03 R98, R100, 13 R404-R410), shadow comparison (14 R444, R445, R448), and the
CTRL messages of the commit protocol (13 R406, R419). -/
namespace Sys2Proof.Machine

/-! ### Tile verdicts (R98, 09 R280, 14 R434) -/

/-- Whether a tile has finished the step as a clean verdict wants: every thread with code at STEND or EXIT, no stream,
Voile operation or long-running instruction outstanding, and every check of its readouts complete. -/
def Node.tileFinished (n : Node) (t : Nat) : Bool :=
  let x := n.tile t
  !x.restart && (x.thr.all fun kv => !kv.2.hasCode || kv.2.wait == .outcome || kv.2.wait == .exited)
    && !n.busy t && x.queue.isEmpty && x.topk.isEmpty && x.checks.isEmpty

/-- TILE_VERDICT: a used tile that has finished untainted reports clean. A tainted verdict is sent when the taint
arises. -/
def tileVerdict (t : Nat) (n : Node) : Node :=
  let x := n.tile t
  if n.commit.running && x.used && !isShadow t && !x.tainted && x.verdict.isNone && n.tileFinished t then
    n.modTile t fun y => { y with verdict := some 0 }
  else n

/-- TILE_VERDICT (R98). -/
def execTileVerdict (tile : Nat) (s : State) : Host.Outcome State Fault Refusal := lift (tileVerdict tile) s

/-! ### Module verdicts (R405, R407, R408) -/

/-- The non-finite mark of the module (R405). -/
def Node.nonFinite (n : Node) : Bool :=
  (n.usedTiles.any fun lt => (n.tile lt).nf)
    || n.job.red.any fun kv => (n.redCtx kv.1).nf && (kv.2.kind == 0 || n.redMe kv.2 == 0)

/-- The module verdict as it can be formed now: 0 clean, 1 tainted, 2 Abort, with the non-finite mark. -/
def Node.ownVerdict (n : Node) : Option (Nat × Bool) :=
  if n.commit.abort then some (2, false)
  else if n.commit.tainted then some (1, false)
  else if (n.usedTiles.all fun lt => (n.tile lt).verdict == some 0)
      && (n.job.red.all fun kv => (n.redCtx kv.1).complete)
      && (n.guard.shadows.all fun a => n.guard.matched.contains a.1) then some (0, n.nonFinite)
  else none

/-- This node's own verdict in the combination: the one it has formed, or the stronger one that it owes since (R405, R408: a
tainted or Abort verdict is formed at once). -/
def Node.standing (n : Node) : Option (Nat × Bool) :=
  match n.ownVerdict with
  | none => n.commit.sent
  | some v => if 1 ≤ v.1 then some v else n.commit.sent

/-- The combination of this node's verdict and its children's (R407). -/
def Node.combined (n : Node) : Option (Nat × Bool) :=
  let kids := n.commit.kids.map (·.2)
  let own : List (Nat × Bool) := match n.standing with
    | none => []
    | some v => [v]
  let worst := greatest ((own ++ kids).map (·.1))
  if worst ≠ 0 then some (worst, false)
  else if !own.isEmpty && n.children.all fun d => (Map.look n.commit.kids d).isSome then some (0, (own ++ kids).any (·.2))
  else none

/-- The root's decision (R407): 0 Commit, 1 Skip, 2 Re-execute, 3 Abort. -/
def decide407 (v : Nat × Bool) : Nat :=
  if v.1 = 2 then 3 else if v.1 = 1 then 2 else if v.2 then 1 else 0

/-- Send the combined verdict up if it is new, or decide at the root. -/
def Node.forward (n : Node) (h : Hwk) : Node :=
  match n.combined with
  | none => n
  | some v =>
    let stronger : Bool := match n.commit.fwd with
      | none => true
      | some f => decide (f.1 < v.1)
    if !stronger then n
    else
      let n1 : Node := { n with commit := { n.commit with fwd := some v } }
      if n.job.node = 0 then n1.applyOutcome (decide407 v) h
      else n1.send n1.parent 1 0 false none (.verdict n1.commit.epoch v.1 v.2)

/-- MODULE_VERDICT: the module verdict is formed, if it is new, and goes into the combination. -/
def moduleVerdict (h : Hwk) (n : Node) : Node :=
  if !n.commit.running then n
  else match n.ownVerdict with
    | none => n
    | some v =>
      let stronger : Bool := match n.commit.sent with
        | none => true
        | some f => decide (f.1 < v.1)
      (if stronger then { n with commit := { n.commit with sent := some v } } else n).forward h

/-- MODULE_VERDICT (R405). -/
def execModuleVerdict (s : State) : Host.Outcome State Fault Refusal := liftH moduleVerdict s

/-! ### CTRL messages of the tree (a message that comes behind a START that waits, waits too: R340) -/

/-- A verdict of the current epoch from a child goes into the combination (R407); one of another epoch is discarded. Where no
attempt runs here yet it waits for START. -/
def Node.addVerdict (n : Node) (src e v : Nat) (nf : Bool) (h : Hwk) : Node :=
  if n.children.contains src && e == n.commit.epoch && decide (v ≤ 2) then
    let stronger : Bool := match Map.look n.commit.kids src with
      | none => true
      | some f => decide (f.1 < v)
    if stronger then
      let n1 : Node := { n with commit := { n.commit with kids := Map.put n.commit.kids src (v, nf) } }
      if n1.commit.running then n1.forward h else n1
    else n
  else n

/-- A VERDICT from node `src`, behind a START that waits (11 R340). -/
def Node.takeVerdict (n : Node) (src e v : Nat) (nf : Bool) (h : Hwk) : Node :=
  if n.startWaits then { n with later := n.later ++ [.verdict src e v nf] } else n.addVerdict src e v nf h

/-- An OUTCOME from the parent takes effect at once (R409). -/
def Node.addOutcome (n : Node) (src e o : Nat) (h : Hwk) : Node :=
  if n.job.started && n.job.node != 0 && src == n.parent && e == n.commit.epoch && decide (o ≤ 3) then n.applyOutcome o h
  else n

/-- An OUTCOME, behind a START that waits. -/
def Node.takeOutcome (n : Node) (src e o : Nat) (h : Hwk) : Node :=
  if n.startWaits then { n with later := n.later ++ [.outcome src e o] } else n.addOutcome src e o h

/-- START (03 R80), with what its attempt owes the tree at once: a taint that arose before it, or children's verdicts (R405,
R407). -/
def Node.startAll (n : Node) (src count e : Nat) (h : Hwk) : Node :=
  let m := n.runStart src count e h
  if !m.commit.running then m
  else if m.commit.tainted then moduleVerdict h m
  else if m.commit.kids.isEmpty then m else m.forward h

/-- A CTRL START reaches a node that holds the job: forwarded first, then applied or discarded, after the exit to Active
where the module is not there (15 R479; log entry 43). -/
def Node.takeStart (n : Node) (src count e : Nat) (h : Hwk) : Node :=
  let n1 := n.toChildren (.start count e)
  if n1.asleep then { n1 with later := n1.later ++ [.start src count e] } else n1.startAll src count e h

/-- An MREADY from a child (R419). A node that holds MRELEASE for the count answers a child that has been relaunched since (log
entry 73). -/
def Node.takeMready (n : Node) (src count : Nat) : Node :=
  if n.children.contains src && count == n.count32 then
    let n1 : Node := { n with commit := { n.commit with kidsReady := insertNew src n.commit.kidsReady } }
    if n1.commit.released then n1.send src 1 0 false none (.mrelease n1.commit.epoch n1.count32) else n1.checkReady
  else n

/-- An MRELEASE from the parent (R419). -/
def Node.takeMrelease (n : Node) (src count : Nat) : Node :=
  if n.job.node != 0 && src == n.parent && count == n.count32 && !n.commit.released then n.mrelease else n

/-! ### Shadow comparison (R444, R445, R448) -/

/-- The shadow of `lt` has finished: as a tile does, or because one of its threads has halted on a fault. -/
def Node.shadowFinished (n : Node) (lt : Nat) : Bool :=
  n.tileFinished (4096 + lt) || ((n.tile (4096 + lt)).thr.any fun kv => kv.2.wait == .halted)

/-- Count a mismatch for a physical tile. -/
def Node.countMismatch (n : Node) (p : Nat) : Node := n.setPhys p { n.physTile p with mism := (n.physTile p).mism + 1 }

/-- The assignments of the re-execution (R445), from what an earlier mismatch has already kept: the mismatched tile gets the
first spare of its die that has taken part in no mismatch, and a tile that had that spare takes the one given up; with no such
spare they stay. -/
def Node.keepAssign (n : Node) (lt q : Nat) : List (Nat × Nat) :=
  let base := if n.guard.keep.isEmpty then n.guard.shadows else n.guard.keep
  match (n.spares (dieOf lt)).find? fun p => (n.physTile p).mism == 0 with
  | none => base
  | some r => base.map fun a => (a.1, if a.1 = lt then r else if a.2 = r then q else a.2)

/-- A late detection (R448): ERM_LATE takes W, ERM_CHK_EVT records kind 7, the event carries W, and Abort is requested. 20
R595 gives code 6 the ERM_CHK_EVT word: the rules conflict, and R448 is followed (DESIGN CHOICE, log entry 88). -/
def Node.lateDetection (n : Node) (lt p : Nat) : Node :=
  let w := BitVec.ofNat 64 n.guard.wmark
  let n1 : Node := { n with guard := { n.guard with
    late := n.guard.wmark, chkEvt := firstEvt n.guard.chkEvt (chkWord 7 lt 0 0 p 0 0) } }
  ((n1.event 6 lt w).noteEvt 10 lt 0 w).requestAbort

/-- A mismatch of tile `lt` with its shadow on physical tile `q`. -/
def Node.mismatch (n : Node) (lt q : Nat) : Node :=
  let p := n.physOf lt
  let n1 := (n.countMismatch p).countMismatch q
  let n2 := ((n1.chkEvent 2 lt 0 0 p 0 0).noteEvt 3 lt (BitVec.ofNat 64 q) 0).taintTile lt
  let n3 : Node := { n2 with guard := { n2.guard with keep := n2.keepAssign lt q } }
  let n4 := if 2 ≤ (n3.physTile q).mism then n3.fenceShadow lt q else n3
  if 2 ≤ (n4.physTile p).mism then (n4.lateDetection lt p).fence lt else n4

/-- SHADOW_COMPARE: once a tile and its shadow have both finished, their digests are compared. -/
def shadowCompare (lt : Nat) (n : Node) : Node :=
  match n.guard.shadows.find? (·.1 == lt) with
  | none => n
  | some a =>
    if !n.commit.running || n.guard.matched.contains lt || (n.tile lt).tainted || !n.tileFinished lt || !n.shadowFinished lt then n
    else if (n.tile lt).digest = (n.tile (4096 + lt)).digest then
      { n with guard := { n.guard with matched := n.guard.matched ++ [lt] } }
    else n.mismatch lt a.2

/-- SHADOW_COMPARE (R444). -/
def execShadowCompare (lt : Nat) (s : State) : Host.Outcome State Fault Refusal := lift (shadowCompare lt) s

end Sys2Proof.Machine
end

