-- ==== Sys2Proof/Machine/Gingham.lean ====
section
/-! DEFINITION. Gingham (13 R415-R421): the inbound slots, seals, and the restore of a partner. -/
namespace Sys2Proof.Machine

/-- Bytes of a slot (R425). -/
def Node.gngSlotBytes (n : Node) : Nat := fld n.gng.cfg 24 20 * 2 ^ 20

/-- First address of inbound slot `s`. -/
def Node.gngSlot (n : Node) (s : Nat) : Nat := fld n.gng.inbase 20 28 * 2 ^ 20 + s * n.gngSlotBytes

/-- The partner node. -/
def Node.gngPartner (n : Node) : Nat := fld n.gng.cfg 12 12

/-- Where a DATA or RDATA message is refused with ADDRESS (R418): a range that leaves the slot, or memory that is not
there. -/
def Node.mirrorRefused (n : Node) (slot off len : Nat) : Option Nat :=
  let a := n.gngSlot slot + off
  if n.gngSlotBytes < off + len then some (n.gngSlot slot + n.gngSlotBytes) else n.badAddr a len

/-- A mirror DATA message: the first to a slot clears its seal record (R417). -/
def Node.takeMirror (n : Node) (slot off : Nat) (bs : List Byte) : Node :=
  let n1 : Node := if n.gng.fresh.contains slot then n else
    let m : Node := { n with gng := { n.gng with fresh := n.gng.fresh ++ [slot] } }
    m.store noView (n.gngSlot slot) (leBytes 0 64)
  n1.store noView (n1.gngSlot slot + off) bs

/-- The 64 bytes of a seal record. -/
def sealBytes (r : SealRec) : List Byte := leBytes r.job 8 ++ leBytes r.step 8 ++ leBytes r.skips 8 ++ leBytes r.cursor 8 ++ leBytes 0 32

/-- A SEAL: the seal record is written, and SEAL_ACK returned (R417). -/
def Node.takeSeal (n : Node) (src slot : Nat) (r : SealRec) : Node :=
  let n1 : Node := { n with gng := { n.gng with fresh := n.gng.fresh.filter (· ≠ slot) } }
  (n1.store noView (n1.gngSlot slot) (sealBytes r)).send src 3 0 false none (.sealAck slot)

/-- A SEAL_ACK: this node's mirror is sealed (R419). -/
def Node.takeSealAck (n : Node) (src slot : Nat) : Node :=
  if src = n.gngPartner ∧ slot = n.gng.slot ∧ (n.gng.state = 1 ∨ n.gng.state = 4) then
    let n1 : Node := { n with gng := { n.gng with state := 2 }, commit := { n.commit with sealed := true } }
    n1.checkReady
  else n

/-- The bytes of a restored range that an entry of the mirror table covers go to the copy of the present count (R421
step 6). -/
def Node.restoreEntry (n : Node) (off : Nat) (bs : List Byte) (e : Nat × Nat × Nat × Nat) : Node :=
  let base := if n.parity = 0 then e.1 else e.2.1
  let lo := Nat.max off e.2.2.2
  let hi := Nat.min (off + bs.length) (e.2.2.2 + e.2.2.1)
  if lo < hi then n.store noView (base + (lo - e.2.2.2)) ((bs.drop (lo - off)).take (hi - lo)) else n

/-- An RDATA message (R421). -/
def Node.takeRdata (n : Node) (off : Nat) (bs : List Byte) : Node :=
  n.job.mirror.foldl (fun m e => m.restoreEntry off bs e) { n with gng := { n.gng with state := 3 } }

/-- A REND is checked against the job and its count, and answered with REND_ACK (R421). -/
def Node.takeRend (n : Node) (src slot : Nat) (r : SealRec) : Node :=
  if r.job = n.job.id ∧ r.step = n.stepCount.toNat then
    ({ n with gng := { n.gng with state := 0 } } : Node).send src 3 0 false none (.rendAck slot)
  else n

/-- A REND_ACK ends the push at the sender. -/
def Node.takeRendAck (n : Node) : Node :=
  if n.gng.state = 3 then { n with gng := { n.gng with state := 0 } } else n

/-- The seal record of slot `s`, as its first 32 bytes. -/
def Node.sealOf (n : Node) (s : Nat) : SealRec :=
  let w (k : Nat) : Nat := n.rdNat noView (n.gngSlot s + 8 * k) 8
  { job := w 0, step := w 1, skips := w 2, cursor := w 3 }

/-- PUSH (R421 step 5): the whole slot after its seal record as RDATA, then REND. Where a word cannot be read no more goes out
(10 R321). -/
def Node.pushSlot (n : Node) (s : Nat) : Node :=
  let n1 : Node := { n with gng := { n.gng with state := 3 } }
  let (whole, n2) := n1.sendRange n.gngPartner (n.gngSlot s + 64) (n.gngSlotBytes - 64) fun off bs => .rdata s (64 + off) bs
  if !whole then n2
  else
    match n2.readCheck noView (n2.gngSlot s) 32 with
    | (some _, m) => m
    | (none, m) => m.send m.gngPartner 6 0 false none (.rend s (m.sealOf s))

end Sys2Proof.Machine
end

