-- ==== Sys2Proof/Machine/Net.lean ====
section
/-! DEFINITION. The Weavo transport (11 R328-R366): what every arriving message goes through, HELLO and sessions,
acknowledgement, refusal, retransmission, link-level replay, and the frames that carry no Weavo message. -/
namespace Sys2Proof.Machine

/-! ### Frames (R332, R337, R339, R347, R348) -/

/-- Count a frame that is discarded without an answer. -/
def Node.discardFrame (n : Node) : Node := { n with bycode := n.bycode + 1 }

/-- Count a discarded frame on its sub-port too. -/
def Node.discardOn (n : Node) (p s : Nat) : Node :=
  let x := n.sub p s
  (n.setSub p s { x with discards := x.discards + 1 }).discardFrame

/-- Whether a sub-port takes frames in. -/
def Sub.open_ (x : Sub) : Bool := x.up && !x.fenced

/-- Resend from a link sequence (R348): counted in REPLAYS; the eighth without progress asserts the Link reset source. -/
def Node.linkResend (n : Node) (p s fromSeq : Nat) : Node :=
  let x := n.sub p s
  let r := Map.getD n.ports p 0
  let n1 : Node := { n.setSub p s { x with resends := x.resends + 1 } with
    ports := Map.put n.ports p (if r = 65535 then r else r + 1), out := n.out ++ [.resend p s fromSeq] }
  if 8 ≤ x.resends + 1 then n1.raise 13 (4 * p + s) else n1

/-- What waits goes as far as it may: frames that a sub-port did not take, messages, then what stream contexts have yet to
offer. -/
def Node.goOn (n : Node) : Node := ((n.framesGo).flushAll).pushStreams

/-- The link header of a frame that came on a direct port (R348): LACK frees the buffer below it, RREQ asks for a resend. -/
def Node.linkAcks (n : Node) (p s : Nat) (l : LinkHdr) : Node :=
  let x := n.sub p s
  let below (q : Nat) : Bool := let d := (l.lack + 2 ^ 24 - q) % 2 ^ 24; decide (1 ≤ d ∧ d < 2 ^ 23)
  let keep := if l.lackv then x.replay.filter fun e => !below e.1 else x.replay
  let moved := decide (keep.length < x.replay.length)
  let n1 := n.setSub p s { x with
    replay := keep, resends := if moved then 0 else x.resends, lackOut := if l.lackv then l.lack else x.lackOut }
  let n2 := if l.rreq then n1.linkResend p s l.lack else n1
  if moved then n2.goOn else n2

/-- A link-control frame of this side's: the next sequence, and the one that it expects (R347). -/
def Node.linkFrame (n : Node) (p s : Nat) (rreq : Bool) : Node :=
  let x := n.sub p s
  { n with out := n.out ++ [.link p s { lseq := x.lseq, lackv := true, rreq := rreq, lack := x.expect }] }

/-- A frame was lost (R348): a replay is requested, once until the next LACK_REFRESH (the 2 µs of the rule are not modelled; log
entry 74). -/
def Node.requestReplay (n : Node) (p s : Nat) : Node :=
  let x := n.sub p s
  if x.rreqDue then n else (n.setSub p s { x with rreqDue := true }).linkFrame p s true

/-- The link layer of a frame with a Weavo message: on a direct port only the frame of the expected sequence goes on. The flag
says that the frame goes on; a frame that has a link header on a switched port, or none on a direct one, is discarded
(DEDUCED from R339: its UDP length is wrong). -/
def Node.linkTake (n : Node) (f : Frame) : Bool × Node :=
  match f.link with
  | none => if n.isDirect f.port f.sub then (false, n.discardOn f.port f.sub) else (true, n)
  | some l =>
    if !n.isDirect f.port f.sub then (false, n.discardOn f.port f.sub)
    else
      let m := n.linkAcks f.port f.sub l
      let x := m.sub f.port f.sub
      if l.lseq % 2 ^ 24 = x.expect then
        (true, m.setSub f.port f.sub { x with expect := (x.expect + 1) % 2 ^ 24, rreqDue := false })
      else (false, (m.requestReplay f.port f.sub).discardOn f.port f.sub)

/-- The tests of a frame before its link header is read (R332): its sub-port's VLAN, the UDP checksum, options and fragments,
the UDP port. -/
def Node.frameOk (n : Node) (f : Frame) : Bool :=
  f.sumOk && f.plain && f.udpPort == fld n.tshCfg 16 16 && (match n.subCfg f.port f.sub with
    | none => false
    | some c => f.vlan == c.vlan)

/-- The tests of a Weavo header (R337, R339): RES where it is allowed, the UDP length, LEN. `vc` is the channel of its type. -/
def headOk (h : Header) (vc : Nat) (res : Bool) : Bool :=
  h.vc == vc && (res || h.res.isNone)
    && h.frame.udpLen == udpBytes h.res.isSome h.len + 8 * b2n h.frame.link.isSome && decide (h.len ≤ 8192)

/-- The tests of who sent a message to whom: the source address is one that the node table lists for the node that SRC names,
on whatever route (R332), and DST names this module (R331; another's message is discarded, DEDUCED, log entry 74). -/
def Node.fromListed (n : Node) (h : Header) : Bool :=
  (n.routes h.src).any (·.ip == h.frame.src) && h.dst == n.self

/-- A frame with a Weavo message arrives: whether it passes every test, and the node after them. A frame that does not pass is
counted and not answered. -/
def Node.gate (n : Node) (h : Header) (vc : Nat) (res listed : Bool) : Bool × Node :=
  if !n.on || !(n.sub h.frame.port h.frame.sub).open_ then (false, n)
  else if !n.frameOk h.frame then (false, n.discardOn h.frame.port h.frame.sub)
  else
    let (go, m) := n.linkTake h.frame
    if !go then (false, m)
    else if !headOk h vc res || !(listed || m.fromListed h) then (false, m.discardOn h.frame.port h.frame.sub)
    else (true, m)

/-- `f` is what the message of a frame does where the frame passes. -/
def Node.takeFrame (n : Node) (h : Header) (vc : Nat) (res listed : Bool) (f : Node → Node) : Node :=
  let r := n.gate h vc res listed
  if r.1 then f r.2 else r.2

/-! ### Receiving a message -/

/-- Whether the peer has completed HELLO (R354). -/
def Peer.known (p : Peer) : Bool := p.session.isSome && !p.limit.isEmpty

/-- Credit that comes with any message (R343): a grant never lowers a limit. -/
def Node.takeGrant (n : Node) (d : Nat) (g : Option (Nat × Nat)) : Node :=
  match g with
  | none => n
  | some (vc, l) =>
    let p := n.peer d
    if p.known && raises (Map.getD p.limit vc 0) l then
      ((n.setPeer d { p with limit := Map.put p.limit vc l }).flush d (p.waiting.length)).pushStreams
    else n

/-- A packet marked CE sets ECE in the next ACK of its channel (R333). -/
def Node.takeMark (n : Node) (h : Header) : Node :=
  if h.ce && bit n.tshCfg 2 then
    let p := n.peer h.src
    n.setPeer h.src { p with eceDue := insertNew h.vc p.eceDue }
  else n

/-- The effect of an accepted message, and its refusal if it is refused. -/
def Node.msgEffect (n : Node) (hw : Hwk) (h : Header) (m : Msg) : Node × Option (Nat × Nat) :=
  match m with
  | .done a e => (n.streamDone h.ctx h.src a e, none)
  | .verdict e v nf => (n.takeVerdict h.src e v nf hw, none)
  | .outcome e o => (n.takeOutcome h.src e o hw, none)
  | .mready _ c => (n.takeMready h.src c, none)
  | .mrelease _ c => (n.takeMrelease h.src c, none)
  | .start c e => (n.takeStart h.src c e hw, none)
  | .mirrorData s o b =>
    match n.mirrorRefused s o b.length with
    | some a => (n, some (2, a % 65536))
    | none => (n.takeMirror s o b, none)
  | .seal s r => (n.takeSeal h.src s r, none)
  | .sealAck s => (n.takeSealAck h.src s, none)
  | .rdata s o b =>
    match (if n.gngSlotBytes < o + b.length then some (n.gngSlot s + n.gngSlotBytes) else none) with
    | some a => (n, some (2, a % 65536))
    | none => (n.takeRdata o b, none)
  | .rend s r => (n.takeRend h.src s r, none)
  | .rendAck _ => (n.takeRendAck, none)
  | .putDone v => (n.applyPutDone h.src v, none)
  | .unknown => (n, some (1, 0))
  | _ => n.arrival h m

/-- Whether some multicast group of this node's table lists it (R351 code 9). -/
def Node.inSomeGroup (n : Node) : Bool := n.job.mcast.any fun kv => kv.2.contains n.self

/-- A message in its turn: its sequence is accepted, and it is refused or has its effect (R349, R351). -/
def Node.accept (n : Node) (hw : Hwk) (h : Header) (m : Msg) : Node :=
  let p := n.peer h.src
  let n1 := n.setPeer h.src { p with
    nextAcc := Map.put p.nextAcc h.vc ((h.seq + 1) % 2 ^ 32), ackDue := insertNew h.vc p.ackDue }
  if h.ver ≠ 1 then n1.nak h.src h.vc h.seq 1 0
  else if !n1.job.loaded ∨ h.jobtag ≠ n1.job.id % 2 ^ 32 then
    (match m with
      | .unknown => n1.nak h.src h.vc h.seq 1 0
      | _ => n1.nak h.src h.vc h.seq 3 0)
  else if h.mc ∧ !n1.inSomeGroup then n1.nak h.src h.vc h.seq 9 0
  else
    match n1.msgEffect hw h m with
    | (k, none) => k
    | (k, some (c, d)) => k.nak h.src h.vc h.seq c d

/-- Messages held behind a gap are accepted as far as they follow on (R340); a further gap behind them is reported (R349). -/
def Node.drainEarly (n : Node) (hw : Hwk) (d vc : Nat) : Nat → Node
  | 0 => n
  | fuel + 1 =>
    let p := n.peer d
    match p.early.find? fun hm => hm.1.vc == vc && hm.1.seq == Map.getD p.nextAcc vc 0 with
    | none => if p.early.any (·.1.vc == vc) then n.nak d vc (Map.getD p.nextAcc vc 0) 4 0 else n
    | some hm => ((n.setPeer d { p with early := p.early.erase hm }).accept hw hm.1 hm.2).drainEarly hw d vc fuel

/-- A message whose frame is sound, from a node that has completed HELLO (R340, R349): one in its turn is accepted, a duplicate
answered with an ACK, one ahead of a gap held, and the gap reported once. -/
def Node.inOrder (n : Node) (hw : Hwk) (h : Header) (m : Msg) : Node :=
  let p := n.peer h.src
  let next := Map.getD p.nextAcc h.vc 0
  let ahead := (h.seq + 2 ^ 32 - next) % 2 ^ 32
  if ahead = 0 then (n.accept hw h m).drainEarly hw h.src h.vc p.early.length
  else if 2 ^ 31 ≤ ahead then n.sendAck h.src h.vc
  else if p.early.any fun hm => hm.1.vc == h.vc && hm.1.seq == h.seq then n
  else
    let n1 := n.setPeer h.src { p with early := p.early ++ [(h, m)] }
    if p.early.any (·.1.vc == h.vc) then n1 else n1.nak h.src h.vc next 4 0

/-- A Weavo message that takes a sequence number arrives (R339-R351); one from a node that has not completed HELLO is refused
with NO_PEER. One of a type or sub-type that version 1 does not know travels on whatever channel it names. -/
def Node.receive (n : Node) (hw : Hwk) (h : Header) (m : Msg) : Node :=
  n.takeFrame h (if h.odd then h.vc else vcOf m h.vc) (isReduce m) false fun k =>
    if !(k.peer h.src).known then k.nakBack h h.seq h.vc 8 0
    else
      (((k.takeGrant h.src h.grant).takeMark h).inOrder hw h (if h.odd then .unknown else m)).pfcAll

/-- The command of a message that arrives. -/
def onMsg (h : Header) (m : Msg) (s : State) : Host.Outcome State Fault Refusal := liftH (fun hw n => n.receive hw h m) s

/-- STREAM_DATA (R338). -/
def execStreamData (h : Header) (addr epoch fbit lbit : Nat) (data : List Byte) (s : State) :
    Host.Outcome State Fault Refusal := onMsg h (.streamData addr epoch fbit lbit data) s
/-- ACCW (R338). -/
def execAccw (h : Header) (epoch : Nat) (entries : List AccEntry) (s : State) : Host.Outcome State Fault Refusal :=
  onMsg h (.accw epoch entries) s
/-- DONE_REQ (R338). -/
def execDoneReq (h : Header) (addr epoch : Nat) (cthr cctr : Fin 8) (token : Bool) (s : State) :
    Host.Outcome State Fault Refusal := onMsg h (.doneReq addr epoch cthr cctr token) s
/-- DONE (R341). -/
def execDone (h : Header) (addr epoch : Nat) (s : State) : Host.Outcome State Fault Refusal := onMsg h (.done addr epoch) s
/-- PRE (12 R379). -/
def execPre (h : Header) (first epoch : Nat) (entries : List (BitVec 16)) (s : State) : Host.Outcome State Fault Refusal :=
  onMsg h (.pre first epoch entries) s
/-- GRID (12 R379). -/
def execGrid (h : Header) (first epoch : Nat) (entries : List (BitVec 16)) (s : State) : Host.Outcome State Fault Refusal :=
  onMsg h (.grid first epoch entries) s
/-- PART (12 R378). -/
def execPart (h : Header) (first epoch : Nat) (blocks : List TBlock) (s : State) : Host.Outcome State Fault Refusal :=
  onMsg h (.part first epoch blocks) s
/-- REPORT (12 R380). -/
def execReport (h : Header) (first epoch : Nat) (entries : List (BitVec 16)) (s : State) : Host.Outcome State Fault Refusal :=
  onMsg h (.report first epoch entries) s
/-- RESULT (12 R378). -/
def execResult (h : Header) (first epoch : Nat) (blocks : List TBlock) (s : State) : Host.Outcome State Fault Refusal :=
  onMsg h (.result first epoch blocks) s
/-- TOKEN (R338). -/
def execToken (h : Header) (lt : Nat) (thr ctr : Fin 8) (count epoch : Nat) (s : State) : Host.Outcome State Fault Refusal :=
  onMsg h (.token lt thr ctr count epoch) s
/-- VERDICT (13 R407). -/
def execVerdict (h : Header) (epoch v : Nat) (nf : Bool) (s : State) : Host.Outcome State Fault Refusal :=
  onMsg h (.verdict epoch v nf) s
/-- OUTCOME (13 R409). -/
def execOutcome (h : Header) (epoch o : Nat) (s : State) : Host.Outcome State Fault Refusal := onMsg h (.outcome epoch o) s
/-- MREADY (13 R419). -/
def execMready (h : Header) (epoch count : Nat) (s : State) : Host.Outcome State Fault Refusal := onMsg h (.mready epoch count) s
/-- MRELEASE (13 R419). -/
def execMrelease (h : Header) (epoch count : Nat) (s : State) : Host.Outcome State Fault Refusal :=
  onMsg h (.mrelease epoch count) s
/-- RETRACT_TOKEN (14 R437). -/
def execRetractToken (h : Header) (lt srcLt reason : Nat) (hw : Bool) (epoch : Nat) (s : State) :
    Host.Outcome State Fault Refusal := onMsg h (.retract lt srcLt reason hw epoch) s
/-- CTRL_START (03 R80). -/
def execCtrlStart (h : Header) (count epoch : Nat) (s : State) : Host.Outcome State Fault Refusal := onMsg h (.start count epoch) s
/-- MIRROR_DATA (13 R417). -/
def execMirrorData (h : Header) (slot offset : Nat) (data : List Byte) (s : State) : Host.Outcome State Fault Refusal :=
  onMsg h (.mirrorData slot offset data) s
/-- SEAL (13 R417). -/
def execSeal (h : Header) (slot : Nat) (r : SealRec) (s : State) : Host.Outcome State Fault Refusal := onMsg h (.seal slot r) s
/-- SEAL_ACK (13 R419). -/
def execSealAck (h : Header) (slot : Nat) (s : State) : Host.Outcome State Fault Refusal := onMsg h (.sealAck slot) s
/-- RDATA (13 R421). -/
def execRdata (h : Header) (slot offset : Nat) (data : List Byte) (s : State) : Host.Outcome State Fault Refusal :=
  onMsg h (.rdata slot offset data) s
/-- REND (13 R421). -/
def execRend (h : Header) (slot : Nat) (r : SealRec) (s : State) : Host.Outcome State Fault Refusal := onMsg h (.rend slot r) s
/-- REND_ACK (13 R421). -/
def execRendAck (h : Header) (slot : Nat) (s : State) : Host.Outcome State Fault Refusal := onMsg h (.rendAck slot) s
/-- PUT (09 R297). -/
def execPut (h : Header) (v : VoileHdr) (data : List Byte) (s : State) : Host.Outcome State Fault Refusal := onMsg h (.put v data) s
/-- GET (09 R297): `up` is what silicon changed before it. -/
def execGet (h : Header) (v : VoileHdr) (up : List Upset) (s : State) : Host.Outcome State Fault Refusal :=
  liftH (fun hw n => (n.upsets up).receive hw h (.get v)) s
/-- GET_DATA (09 R297). -/
def execGetData (h : Header) (v : VoileHdr) (data : List Byte) (s : State) : Host.Outcome State Fault Refusal :=
  onMsg h (.getData v data) s
/-- PUT_DONE (09 R297). -/
def execPutDone (h : Header) (v : VoileHdr) (s : State) : Host.Outcome State Fault Refusal := onMsg h (.putDone v) s

/-! ### HELLO and sessions (R353-R355) -/

/-- Put a frame on one route, if its sub-port is up and not fenced. -/
def Node.emitOn (n : Node) (r : Route) (h : WireHdr) (mk : Packet → Out) : Node :=
  if (n.sub r.port r.sub).open_ then n.emitVia r h.vc 0 h mk else n

/-- Send a message to a host by the way on which its request came (19 R558): the sub-port, the copper port with its address `ip`, or
I3C, which carries no packet. -/
def Node.hostSend (n : Node) (p : MPath) (h : Header) (ip typ len : Nat) (tspec : Word) (mk : Option Packet → Out) : Node :=
  let hdr := n.hostHeader typ h.ctx len tspec
  match p with
  | .i3c => { n with out := n.out ++ [mk none] }
  | .copper => { n with out := n.out ++ [mk (some (n.copperPacket ip h.ctx hdr))] }
  | .weavo =>
    n.emitOn { port := h.frame.port, sub := h.frame.sub, mac := 0, ip := h.frame.src } hdr fun f => mk (some f)

/-- A NAK to a host (11 R352, 19 R558): NSEQ is zero and CTX is echoed. I3C carries none. -/
def Node.hostNak (n : Node) (p : MPath) (h : Header) (ip code : Nat) : Node :=
  if p = .i3c then n else n.hostSend p h ip 10 0 (nakSpec 0 0 code 0) (.hostNak h.frame.src h.ctx code)

/-- A RESPONSE (19 R564), VERSION 1; its detail is a free value. -/
def Node.response (n : Node) (p : MPath) (h : Header) (ip op status seq : Nat) : Node :=
  n.hostSend p h ip 8 16 (mgmtSpec 2)
    (.response p h.frame.src h.ctx 1 op status seq (Config.responseDetail op status seq % 2 ^ 32))

/-- The HELLO that this node sends on a route (R353). Priority flow control is unavailable on an untagged sub-port (R332). -/
def Node.helloBody (n : Node) (r : Route) (reply : Bool) : HelloBody :=
  let direct := n.isDirect r.port r.sub
  { vermask := 2, reply := reply, direct := direct, llr := direct
    pfc := bit n.tshCfg 1 && (n.subCfg r.port r.sub).any (·.vlan != 0), node := n.self, port := r.port
    sub := r.sub, lanes := (n.sub r.port r.sub).lanes, serial := n.serial.toNat, session := n.session % 2 ^ 32 }

/-- The room that this node offers in a HELLO (R345, R353). -/
def helloRoom : HelloRoom := { credits := (List.range 8).map initCredit, maxpay := 8192 }

/-- Send a HELLO to peer `d` on its route number `i`. -/
def Node.sendHello (n : Node) (d i : Nat) (reply : Bool) : Node :=
  match (n.routes d)[i]? with
  | none => n
  | some r => n.emitOn r { n.header 1 0 d 0 with len := 64, jobtag := 0 } (.hello d i (n.helloBody r reply) helloRoom)

/-- The Voile operations of a tile that a peer reset retires: those towards `d` whose request has been sent. -/
def Node.retireVoile (n : Node) (d : Nat) (kept : List (Nat × Nat)) (t : Nat) : Node :=
  ((n.tile t).voile.filter fun kv => kv.2.node == some d && !kept.contains (t, kv.1)).foldl
    (fun m kv => m.voileRetire t kv.1) n

/-- The tile and slot of a Voile request. -/
def voileKey : Msg → Option (Nat × Nat)
  | .put v _ => some (v.srcLt, v.tag)
  | .get v => some (v.srcLt, v.tag)
  | _ => none

/-- Whether a message belongs to stream context `c`. -/
def OutMsg.ofCtx (m : OutMsg) (c : Nat) : Bool := m.ctx == c && (match m.msg with
  | .streamData .. | .accw .. | .doneReq .. => true
  | _ => false)

/-- Whether a message is part of a mirror or a push (13 R417, R421). -/
def ofMirror : Msg → Bool
  | .mirrorData .. | .seal .. | .rdata .. | .rend .. => true
  | _ => false

/-- An arming retires without effect; its shadow, if any, takes effect. -/
def Node.retireArm (n : Node) (c : Nat) (x : Ctx) : Node :=
  match x.shadow with
  | some a => (n.nextArm c x a).wakeAll
  | none => n.freeCtxOf c x.lt

/-- A peer announced another session (R355): its unacknowledged messages and all state of its channels go, armings whose
messages went, or whose DONE is awaited, and Voile operations whose request went retire without effect, and the step is
tainted. What waits of a mirror or push of which a message went is dropped with it. Of an arming that retires the shadow takes
effect (R278): no message of it is gone. The staging that empties may end a pause (R334). -/
def Node.peerReset (n : Node) (d session : Nat) : Node :=
  let p := n.peer d
  let gone := n.ctxs.filter fun kv => (kv.2.asked.contains d && kv.2.todo.contains d) || p.unacked.any (·.ofCtx kv.1)
  let kept := p.waiting.filterMap fun m => voileKey m.msg
  let torn := p.unacked.any (ofMirror ·.msg)
  let stays (m : OutMsg) : Bool := !gone.any (m.ofCtx ·.1) && !(torn && ofMirror m.msg)
  let n1 := n.setPeer d { Peer.fresh with session := some session, waiting := p.waiting.filter stays }
  let idle := torn || (d == n.gngPartner && (n.gng.state == 1 || n.gng.state == 3 || n.gng.state == 4))
  let n2 : Node := { n1 with
    held := n1.held.filter fun hm => hm.1.src != d, gng := { n1.gng with state := if idle then 0 else n1.gng.state } }
  let n3 := gone.foldl (fun m kv => (m.dropUnsent kv.1).retireArm kv.1 kv.2) n2
  let n4 := (n3.tiles.map (·.1)).foldl (fun m t => m.retireVoile d kept t) n3
  ((n4.pushTokens.pfcAll).noteEvt 7 0xFFFF (BitVec.ofNat 64 d) 0).taint.peerEvent 3 0 d 0

/-- A route becomes usable once it has carried a request and a reply in both directions (R354); the first under this pair
of sessions starts the sequences and credits. -/
def Node.checkRoute (n : Node) (d i : Nat) (credits : List Nat) : Node :=
  let p := n.peer d
  if p.reqSeen.contains i && p.repSeen.contains i && !p.usable.contains i then
    let start (q : Peer) : Peer := { q with
      sendSeq := [], nextAcc := [], limit := (List.range 8).map fun v => (v, credits.getD v 0)
      granted := (List.range 8).map fun v => (v, initCredit v) }
    let p1 : Peer := { p with usable := insertNew i p.usable }
    let p2 := bif p.limit.isEmpty then start p1 else p1
    (((n.setPeer d p2).flush d p.waiting.length).pushStreams).pushTokens
  else n

/-- A HELLO of version 1 on a route (R354). -/
def Node.helloRoute (n : Node) (b : HelloBody) (credits : List Nat) (i : Nat) : Node :=
  let q := n.peer b.node
  (if b.reply then n.setPeer b.node { q with repSeen := insertNew i q.repSeen }
    else (n.setPeer b.node { q with reqSeen := insertNew i q.reqSeen }).sendHello b.node i true).checkRoute b.node i credits

/-- A HELLO arrives from the node that it names (R353: NODE equals SRC): what it says is kept for the comparison with the
expected topology, a new session resets the peer, and every route by the frame's sub-port and source address has carried it. -/
def helloIn (h : Header) (b : HelloBody) (room : HelloRoom) (n : Node) : Node :=
  n.takeFrame h 0 false false fun k =>
    let key := 4 * h.frame.port + h.frame.sub
    let told : Node := { k with told := (key, b) :: k.told.filter fun t => !(t.1 == key && t.2.node == b.node) }
    if b.node ≠ h.src then k.discardOn h.frame.port h.frame.sub
    else if !b.vermask.testBit 1 ∨ h.ver ≠ 1 then told.nakBack h 0 0 1 0
    else
      let p := told.peer b.node
      let n1 := match p.session with
        | none => told.setPeer b.node { p with session := some b.session }
        | some s => if s = b.session then told else told.peerReset b.node b.session
      let n2 := ((n1.takeGrant b.node h.grant).takeMark h)
      (n2.routesBy h.src h.frame.port h.frame.sub h.frame.src).foldl (fun m i => m.helloRoute b room.credits i) n2

/-- HELLO (R354). -/
def execHello (h : Header) (b : HelloBody) (room : HelloRoom) (s : State) : Host.Outcome State Fault Refusal :=
  lift (helloIn h b room) s

/-- HELLO_REPEAT (R354): a request that has had no reply on its route is sent again. -/
def execHelloRepeat (peer route : Nat) (s : State) : Host.Outcome State Fault Refusal :=
  lift (fun n => if n.on && !(n.peer peer).repSeen.contains route then n.sendHello peer route false else n) s

/-! ### ACK, NAK and retransmission (R333, R349, R351) -/

/-- What an ACK of message `m` does for its owner. -/
def Node.acked (n : Node) (d : Nat) (m : OutMsg) : Node :=
  match m.msg with
  | .streamData .. | .accw .. => n.streamAcked m.ctx d (streamBytes m.msg)
  | .part .. | .report .. => n.redAcked m.ctx m.msg
  | _ => n

/-- Whether sequence `s` lies below `a`. -/
def seqBelow (s a : Nat) : Bool := let d := (a + 2 ^ 32 - s) % 2 ^ 32; decide (1 ≤ d ∧ d < 2 ^ 31)

/-- The sender's rate limit after an ECE on an ACK of any channel (R333): to 7/8, not below 1/64, once in 50 µs. -/
def Peer.ece (p : Peer) (e : Bool) : Peer :=
  if e && !p.cut then
    { p with rate := if p.rate * (7 / 8) < 1 / 64 then 1 / 64 else p.rate * (7 / 8), cut := true }
  else p

/-- An ACK of a peer that has completed HELLO. -/
def Node.takeAck (n : Node) (h : Header) (seq vc : Nat) (ece : Bool) : Node :=
  let p := n.peer h.src
  if !p.known then n
  else
    let hit (m : OutMsg) : Bool := m.vc == vc && seqBelow m.seq seq
    let done := p.unacked.filter hit
    let p1 : Peer := ({ p with
      unacked := p.unacked.filter fun m => !hit m, unreach := p.unreach && done.isEmpty } : Peer).ece (ece && bit n.tshCfg 2)
    let n1 := n.setPeer h.src p1
    ((done.foldl (fun m x => m.acked h.src x) n1).takeGrant h.src h.grant).takeMark h

/-- A message that takes no sequence number, of a version other than 1, is refused (R351). The NAK names channel and sequence 0,
which no message of its sender's has (DESIGN CHOICE, log entry 101). -/
def Node.ofVersion (n : Node) (h : Header) (f : Node → Node) : Node := if h.ver ≠ 1 then n.nakBack h 0 0 1 0 else f n

/-- An ACK arrives, on the channel that it acknowledges (R337). -/
def ackIn (h : Header) (seq vc : Nat) (ece : Bool) (n : Node) : Node :=
  n.takeFrame h vc false false fun k => k.ofVersion h fun m => m.takeAck h seq vc ece

/-- ACK (R349). -/
def execAck (h : Header) (ackseq avc : Nat) (ece : Bool) (s : State) : Host.Outcome State Fault Refusal :=
  lift (ackIn h ackseq avc ece) s

/-- The address that a NAK's DETAIL completes: the first at or above `a` with those low bits. -/
def nakAddr (a detail : Nat) : Nat :=
  let b := a / 65536 * 65536 + detail % 65536
  if b < a then b + 65536 else b

/-- The address that a NAK's DETAIL completes of a range of `len` bytes from `a`, if it lies in it. -/
def nakIn? (a len detail : Nat) : Option Nat := if nakAddr a detail < a + len then some (nakAddr a detail) else none

/-- The address that a NAK with code ADDRESS names of the message that it refuses. Of an ACCW several records may hold an address
with the low bits that DETAIL gives, and the spec does not say which is named: the first in message order (DESIGN CHOICE, log
entry 93). -/
def msgAddr (m : Msg) (detail : Nat) : Nat :=
  match m with
  | .streamData a .. => nakAddr a detail
  | .accw _ es => (es.findSome? fun e => nakIn? e.addr 96 detail).getD (nakAddr (((es.head?).map (·.addr)).getD 0) detail)
  | .doneReq a .. => nakAddr a detail
  | .put v _ => nakAddr v.addr detail
  | .get v => nakAddr v.addr detail
  | _ => nakAddr 0 detail

/-- The tile event about a refused message that no arming and no operation made (R351): code 1, as other tile events have; its
tile where the message names the sender's, and DETAIL a free value, since no fault is recorded (DESIGN CHOICE, log entry 75). -/
def Node.tileEvent (n : Node) (m : Msg) : Node :=
  (n.takeFree).event 1 (match m with
    | .retract _ lt _ _ _ => lt
    | _ => 0xFFFF) (BitVec.ofNat 64 (Config.freeField n.free 0))

/-- What the sender does about a message refused for good (R351). -/
def Node.refused (n : Node) (d : Nat) (m : OutMsg) (code detail : Nat) : Node :=
  let n1 := if code = 1 then n.peerEvent 4 0 d 0 else n
  let n2 := if code = 9 then n1.peerEvent 5 (match n1.ctx m.ctx with
      | none => 0
      | some x => ((n1.ctxDesc x).map (·.dnode)).getD 0) d 0 else n1
  let cls := if code = 2 then 2 else 3
  if code = 9 then n2
  else if m.ofCtx m.ctx then n2.streamRefused m.ctx cls (msgAddr m.msg detail)
  else match voileKey m.msg with
    | some (t, slot) => n2.voileRefused t slot cls (msgAddr m.msg detail)
    | none => if code = 1 ∨ code = 3 then n2.tileEvent m.msg else n2

/-- Send a kept message again, with RETX (R349), where its route takes it. -/
def Node.resendMsg (n : Node) (d : Nat) (m : OutMsg) : Node :=
  let p := n.peer d
  if !n.routeTakes m then n
  else
    let m1 : OutMsg := { m with tries := m.tries + 1 }
    (n.setPeer d { p with unacked := p.unacked.map fun x => if x = m then m1 else x }).emitMsg m1 true

/-- A NAK of a node: a gap is resent, a peer that does not know this node is sent HELLO again, and any other code ends the
message. -/
def Node.takeNak (n : Node) (h : Header) (seq vc code detail : Nat) : Node :=
  let n0 := (n.takeGrant h.src h.grant).takeMark h
  let p := n0.peer h.src
  match p.unacked.find? fun m => m.vc == vc && m.seq == seq with
  | none => if code = 1 ∧ vc = 0 then n0.peerEvent 4 0 h.src 0 else n0
  | some m =>
    if code = 4 then n0.resendMsg h.src m
    else if code = 8 then (List.range (n0.routes h.src).length).foldl (fun k i => k.sendHello h.src i false) n0
    else (n0.setPeer h.src { p with unacked := p.unacked.erase m }).refused h.src m code detail

/-- A NAK arrives, on the channel that it refuses (R337). -/
def nakIn (h : Header) (seq vc code detail : Nat) (n : Node) : Node :=
  n.takeFrame h vc false false fun k => k.ofVersion h fun m => m.takeNak h seq vc code detail

/-- NAK (R351). -/
def execNak (h : Header) (nseq nvc code detail : Nat) (s : State) : Host.Outcome State Fault Refusal :=
  lift (nakIn h nseq nvc code detail) s

/-- A message has gone without an ACK for its timeout (R349): after sixteen transmissions the peer is reported once. -/
def rto (d vc seq : Nat) (n : Node) : Node :=
  let p := n.peer d
  match p.unacked.find? fun m => m.vc == vc && m.seq == seq with
  | none => n
  | some m =>
    let n1 := if 16 ≤ m.tries ∧ !p.unreach then (n.setPeer d { p with unreach := true }).peerEvent 2 0 d 0 else n
    let n2 : Node := if 16 ≤ m.tries ∧ d = n1.gngPartner ∧ n1.gng.state = 1 then { n1 with gng := { n1.gng with state := 4 } } else n1
    n2.resendMsg d m

/-- RETRANSMISSION_TIMEOUT (R349). -/
def execRetransmissionTimeout (peer vc seq : Nat) (s : State) : Host.Outcome State Fault Refusal :=
  lift (fun n => if n.on then rto peer vc seq n else n) s

/-- ACK_DUE (R349): the ACK of a channel that has accepted messages goes out. -/
def execAckDue (peer vc : Nat) (s : State) : Host.Outcome State Fault Refusal :=
  lift (fun n => if n.on && (n.peer peer).ackDue.contains vc then n.sendAck peer vc else n) s

/-- ECN_RATE_RAISE (R333): 50 µs have passed without an ECE: the limit rises by 1/64 of the port rate, up to the port rate, and the
next ECE may lower it. -/
def execEcnRateRaise (peer : Nat) (s : State) : Host.Outcome State Fault Refusal :=
  lift (fun n =>
    let p := n.peer peer
    n.setPeer peer { p with cut := false, rate := if 1 < p.rate + 1 / 64 then 1 else p.rate + 1 / 64 }) s

/-- A multicast arming whose window is full, nothing of what is left may go (R358), and whose A stands (R359). -/
def straggler (c : Nat) (n : Node) : Node :=
  match n.ctx c with
  | none => n
  | some x =>
    match n.ctxDesc x with
    | none => n
    | some d =>
      let nodes := n.sideNodes (n.armDesc d)
      let a := x.lag nodes
      if fld n.timers 32 20 = 0 ∨ !d.mcast ∨ x.strag ∨ x.dead ∨ x.state ≠ 2 ∨ x.sent = x.total ∨
          !(x.sendable true nodes).isEmpty ∨ nodes.isEmpty then n
      else match nodes.find? fun q => Map.getD x.acked q 0 == a with
        | none => n
        | some q => (n.setCtx c { x with strag := true }).peerEvent 1 d.dnode q c

/-- STRAGGLER_TIMEOUT (R359). -/
def execStragglerTimeout (ctx : Nat) (s : State) : Host.Outcome State Fault Refusal := lift (straggler ctx) s

/-! ### Direct links (R347, R348) -/

/-- A link-control frame (R347, R348): what its header says, and an LSEQ other than the one expected shows that frames were
lost. -/
def linkIn (p s : Nat) (l : LinkHdr) (n : Node) : Node :=
  if !n.on || !(n.sub p s).open_ || !n.isDirect p s then n
  else if l.lseq % 2 ^ 24 = (n.sub p s).expect then n.linkAcks p s l
  else (n.linkAcks p s l).requestReplay p s

/-- LINK_CONTROL (R347). -/
def execLinkControl (port sub lseq lack : Nat) (lackv rreq : Bool) (s : State) : Host.Outcome State Fault Refusal :=
  lift (linkIn port sub { lseq := lseq, lackv := lackv, rreq := rreq, lack := lack }) s

/-- LINK_REPLAY_TIMEOUT (R348): the oldest buffered frame has seen no progress for 20 µs. A fenced sub-port sends idle frames
alone (18 R543). -/
def execLinkReplayTimeout (port sub : Nat) (s : State) : Host.Outcome State Fault Refusal :=
  lift (fun n =>
    let x := n.sub port sub
    match x.replay.head? with
    | none => n
    | some e => if n.on && x.open_ && n.isDirect port sub then n.linkResend port sub e.1 else n) s

/-- LACK_REFRESH (R348): a link-control frame carries this side's LACK; a lost frame may be asked for again. -/
def execLackRefresh (port sub : Nat) (s : State) : Host.Outcome State Fault Refusal :=
  lift (fun n =>
    let x := n.sub port sub
    if n.on && x.open_ && n.isDirect port sub then (n.setSub port sub { x with rreqDue := false }).linkFrame port sub false else n) s

/-! ### Frames without a Weavo message (R328, R332, R334) -/

/-- An address request for this sub-port's own address is answered with its MAC. -/
def Node.answerAddr (n : Node) (p s ip : Nat) (v6 : Bool) (mk : Nat → Out) : Node :=
  match n.subCfg p s with
  | none => n
  | some c =>
    if n.on && (n.sub p s).open_ && c.ip == ip && bit n.tshCfg 3 == v6 then
      { n with out := n.out ++ [mk c.mac] }
    else n

/-- ARP (R328). -/
def execArp (port sub ip : Nat) (s : State) : Host.Outcome State Fault Refusal :=
  lift (fun n => n.answerAddr port sub ip false (Out.arp port sub ip)) s

/-- NEIGHBOUR_DISCOVERY (R328). -/
def execNeighbourDiscovery (port sub ip : Nat) (s : State) : Host.Outcome State Fault Refusal :=
  lift (fun n => n.answerAddr port sub ip true (Out.neighbour port sub ip)) s

/-- PRIORITY_FLOW_CONTROL (R334): honoured while PFC is 1 on a tagged sub-port; what a pause held goes on at its end. -/
def execPriorityFlowControl (port sub prio : Nat) (pause : Bool) (s : State) : Host.Outcome State Fault Refusal :=
  lift (fun n =>
    match n.subCfg port sub with
    | none => n
    | some c =>
      let x := n.sub port sub
      if n.on && bit n.tshCfg 1 && c.vlan != 0 && x.up && decide (prio < 8) then
        (if pause then n.setSub port sub { x with paused := insertNew prio x.paused }
         else (n.setSub port sub { x with paused := x.paused.filter (· ≠ prio) }).goOn)
      else n) s

/-- FRAME_DISCARDED (R332): a frame that arrives broken is counted and not answered. -/
def execFrameDiscarded (port sub reason : Nat) (s : State) : Host.Outcome State Fault Refusal :=
  lift (fun n => if n.on && (n.sub port sub).up && decide (reason < 8) then n.discardOn port sub else n) s

end Sys2Proof.Machine
end

