-- ==== Sys2Proof/Machine/Launch.lean ====
section
/-! DEFINITION. LAUNCH (03 R64-R78, 11 R352): the assembly of a slice, its checks and refusals, and loading it. -/
namespace Sys2Proof.Machine

/-! ### Bytes of a slice -/

/-- `len` bytes of an image from `off`. -/
def cut (b : List Byte) (off len : Nat) : List Byte := (b.drop off).take len

/-- The little-endian number in `len` bytes from `off`. -/
def num (b : List Byte) (off len : Nat) : Nat := leNat (cut b off len)

/-- Whether `len` bytes from `off` are zero. -/
def zeroAt (b : List Byte) (off len : Nat) : Bool := (cut b off len).all (· == 0)

/-- A section of the directory (R69), with the bytes it spans. -/
structure Sect where
  typ   : Nat
  lt    : Nat
  count : Nat
  off   : Nat
  body  : List Byte
  deriving DecidableEq, Repr

/-- Directory entry `i`. -/
def sectAt (b : List Byte) (i : Nat) : Sect :=
  let e := cut b (256 + 24 * i) 24
  { typ := num e 0 2, lt := num e 2 2, count := num e 4 4, off := num e 8 8, body := cut b (num e 8 8) (num e 16 8) }

/-- Bytes that the directory gives section `i`. -/
def sectLen (b : List Byte) (i : Nat) : Nat := num b (256 + 24 * i + 16) 8

/-- Whether a section type is a tile section (R70). -/
def tileType (t : Nat) : Bool := decide (1 ≤ t ∧ t ≤ 7)
/-- Whether a section type is a node section. -/
def nodeType (t : Nat) : Bool := decide (16 ≤ t ∧ t ≤ 21)

/-- Entry size of a section type; MCAST's is that of its directory (R70, R73). -/
def entrySize : Nat → Nat
  | 1 => 8 | 2 => 2 | 3 => 256 | 4 => 2 | 5 => 16 | 6 => 16 | 7 => 2
  | 16 => 2 | 17 => 64 | 18 => 8 | 19 => 32 | 20 => 4 | _ => 4

/-- COUNT limit of a section type. -/
def countLimit : Nat → Nat
  | 1 => 4096 | 2 => 8 | 3 => 256 | 4 => 64 | 5 => 1024 | 6 => 256 | 7 => 1024
  | 16 => 65536 | 17 => 4096 | 18 => 4096 | 19 => 1024 | 20 => 2304 | _ => 4096

/-- The group entries of an MCAST section: first entry and member count. -/
def Sect.groups (s : Sect) : List (Nat × Nat) := (List.range s.count).map fun g => (num s.body (8 * g) 4, num s.body (8 * g + 4) 2)

/-- Bytes that a section's COUNT and type need. -/
def Sect.needs (s : Sect) : Nat :=
  match s.typ with
  | 6 => 16 * (s.count + 1)
  | 18 => 8 * s.count + 2 * greatest (s.groups.map fun g => g.1 + g.2)
  | t => entrySize t * s.count

/-- The entries of a section, each as its bytes. -/
def Sect.entries (s : Sect) : List (List Byte) := (List.range s.count).map fun i => cut s.body (entrySize s.typ * i) (entrySize s.typ)

/-- Entries of two bytes as numbers. -/
def Sect.halves (s : Sect) : List Nat := s.entries.map leNat

/-- The section of a type and tile; an absent one is empty (R69). -/
def sectOf (ss : List Sect) (typ lt : Nat) : Sect :=
  (ss.find? fun s => s.typ == typ && s.lt == lt).getD { typ := typ, lt := lt, count := 0, off := 0, body := [] }

/-- The LT field of a node section. -/
def nodeLt : Nat := 0xFFFF

/-- The logical tiles that tile sections name, rising. -/
def tilesIn (ss : List Sect) : List Nat :=
  (ss.foldl (fun (m : Map Unit) s => if tileType s.typ then Map.put m s.lt () else m) []).map (·.1)

/-! ### The checks of R74 and of the tables' own chapters -/

/-- Reserved bits and ranges of the header (R68). R74 and R77 do not say what an NSEC outside 1 to 65,536 or an NNODES outside 1
to 4,096 gets: it is refused with VERSION, as other faults of the form are (DESIGN CHOICE, log entry 70). -/
def headerOk (b : List Byte) : Bool :=
  let nodes := num b 18 2
  decide (352 ≤ b.length) && num b 0 2 == 1 && num b 3 1 == 1 && num b 2 1 == 0 &&
  decide (1 ≤ num b 4 4 ∧ num b 4 4 ≤ 65536 ∧ num b 16 2 < 4096 ∧ 1 ≤ nodes ∧ nodes ≤ 4096 ∧ num b 20 2 < 4096
    ∧ num b 16 2 < nodes) && zeroAt b 22 2 && zeroAt b 80 176

/-- A directory entry alone: type, LT, COUNT, alignment and place (R69, R74). -/
def sectOk (b : List Byte) (nsec i : Nat) : Bool :=
  let s := sectAt b i
  let l := sectLen b i
  (tileType s.typ && decide (s.lt ≤ 2303) || nodeType s.typ && s.lt == nodeLt) &&
  decide (s.count ≤ countLimit s.typ ∧ s.off % 8 = 0 ∧ s.needs ≤ l) &&
  (if l = 0 then decide (s.off ≤ b.length) else decide (256 + 24 * nsec ≤ s.off ∧ s.off + l ≤ b.length - 96))

/-- Whether sections `i` and `j` differ in type or tile and do not overlap. -/
def sectApart (b : List Byte) (i j : Nat) : Bool :=
  let s := sectAt b i
  let t := sectAt b j
  !(s.typ == t.typ && s.lt == t.lt) &&
  (sectLen b i == 0 || sectLen b j == 0 || decide (s.off + sectLen b i ≤ t.off ∨ t.off + sectLen b j ≤ s.off))

/-- The directory as a whole. -/
def directoryOk (b : List Byte) : Bool :=
  let n := num b 4 4
  decide (256 + 24 * n + 96 ≤ b.length) && (List.range n).all fun i =>
    sectOk b n i && (List.range i).all fun j => sectApart b i j

/-- Every section. -/
def sectionsOf (b : List Byte) : List Sect := (List.range (num b 4 4)).map (sectAt b)

/-- Whether an instruction word is a FALLOC of a strict array (R578). -/
def strictWord (w : List Byte) : Bool :=
  match decodeTile 0 0 (BitVec.ofNat 64 (leNat w)) with
  | .falloc _ _ st => st
  | _ => false

/-- Reserved bits of a COMM entry (R71). A KIND of 0 or above 4, which the table calls reserved and R74 does not name, refuses the slice
too (DESIGN CHOICE, log entry 92). -/
def commOk (e : List Byte) : Bool :=
  let peer := num e 2 2
  let node := num e 4 2
  decide (1 ≤ num e 0 1 ∧ num e 0 1 ≤ 4 ∧ num e 1 1 < 64) && bits peer 12 3 == 0 && bits node 12 3 == 0 &&
  !(peer.testBit 15 && node != 0) && zeroAt e 7 1 && zeroAt e 12 4

/-- Entry `k` of a phase table, the header being entry 0 (R468). -/
def phaseBytes (s : Sect) (k : Nat) : List Byte := cut s.body (16 * k) 16

/-- A phase table obeys R468. -/
def phasesOk (s : Sect) : Bool :=
  s.body.isEmpty ||
  (num s.body 0 2 == s.count && zeroAt s.body 2 2 && zeroAt s.body 12 4 && decide (1 ≤ num s.body 8 4) &&
    (List.range s.count).all fun k =>
      let e := phaseBytes s (k + 1)
      zeroAt e 1 3 && zeroAt e 12 4 && decide (1 ≤ num e 8 4) &&
        (k == 0 || decide (num (phaseBytes s k) 0 1 < num e 0 1)))

/-- The sections of tile `lt`. -/
def tileOk (ss : List Sect) (nonexact : Bool) (lt : Nat) : Bool :=
  let has (t : Nat) : Bool := ss.any fun s => s.typ == t && s.lt == lt
  has 1 && has 2 &&
  (nonexact || !(sectOf ss 1 lt).entries.any strictWord) &&
  (sectOf ss 2 lt).halves.all (fun v => bits v 12 3 == 0) &&
  (sectOf ss 4 lt).halves.all (fun v => bits v 8 7 == 0) &&
  (sectOf ss 5 lt).entries.all commOk && phasesOk (sectOf ss 6 lt) &&
  (match (sectOf ss 7 lt).halves with
    | [] => true
    | h :: t => decide (h < 2) && t.all (fun v => decide (v < 2 ^ 15)))

/-- The member list that an entry of the reduction table names (R369). -/
def memberList (nd : Sect) (off m : Nat) : List Nat := (List.range m).map fun i => num nd.body (off + 2 * i) 2

/-- Whether a list rises strictly. -/
def rising : List Nat → Bool
  | [] => true
  | [_] => true
  | a :: b :: t => decide (a < b) && rising (b :: t)

/-- The regions of a reduction-table entry: local records, residues, entries, both thinning copies (R368, R389). -/
def RedEnt.regions (r : RedEnt) : List (Nat × Nat) :=
  [(r.localB, 6144 * r.nblk), (r.residB, 8 * r.nblk), (r.predB, 2 * r.nblk)]
    ++ if r.thin = 1 then [] else [(r.thinB, 2 * (5128 * r.nblk))]

/-- An entry of the reduction table, decoded (R368). -/
def redEntOf (nd : Sect) (e : List Byte) : RedEnt :=
  let w (i : Nat) : Word := BitVec.ofNat 64 (num e (8 * i) 8)
  { kind := fld (w 0) 0 2, direct := bit (w 0) 2, transit := fld (w 0) 3 2, nfmt := fld (w 0) 5 4
    thin := fld (w 0) 9 6 + 1, notok := bit (w 0) 15, tokLt := fld (w 0) 16 12, tokThr := fld (w 0) 28 3
    tokCtr := fld (w 0) 31 3, fills := fld (w 0) 34 16, nblk := fld (w 1) 0 20
    members := memberList nd (fld (w 2) 0 32) (fld (w 1) 32 13)
    localB := fld (w 3) 0 48, residB := fld (w 4) 0 48, predB := fld (w 5) 0 48, thinB := fld (w 6) 0 48 }

/-- Reserved bits of an entry of the reduction table. -/
def redBitsOk (e : List Byte) : Bool :=
  let w (i : Nat) : Word := BitVec.ofNat 64 (num e (8 * i) 8)
  fld (w 0) 50 14 == 0 && fld (w 1) 20 12 == 0 && fld (w 1) 45 19 == 0 && fld (w 2) 32 32 == 0 &&
  fld (w 3) 48 16 == 0 && fld (w 4) 48 16 == 0 && fld (w 5) 48 16 == 0 && fld (w 6) 48 16 == 0 && w 7 == 0

/-- The checks that R368 asks of one entry. -/
def Node.redEntOk (n : Node) (nonexact : Bool) (nd : Sect) (self : Nat) (e : List Byte) : Bool :=
  let r := redEntOf nd e
  let m := num e 12 4 % 2 ^ 13
  redBitsOk e && decide (r.kind ≤ 1 ∧ r.transit ≤ 2 ∧ 1 ≤ r.fills ∧ 1 ≤ m ∧ m ≤ 4096 ∧ r.localB % 64 = 0) &&
  (if r.kind = 0 then decide (8192 ≤ r.nblk ∧ r.nblk ≤ 524288) else r.nblk == 1) &&
  (if r.transit = 2 then (r.nfmt == 0 || r.nfmt == 2) && nonexact else r.nfmt == 0) &&
  (r.thin != 1 || r.thinB == 0) && decide (num e 16 4 + 2 * m ≤ 2 * nd.count) &&
  rising r.members && r.members.contains self && r.members.all (fun d => decide (d < 4096)) &&
  r.regions.all fun g => n.tierExtent ((g.1 : Int), (g.1 + g.2 - 1 : Nat))

/-- Whether no region of one entry overlaps a region of another. -/
def regionsApart : List RedEnt → Bool
  | [] => true
  | r :: t => (t.all fun q => r.regions.all fun a => q.regions.all fun b => decide (a.1 + a.2 ≤ b.1 ∨ b.1 + b.2 ≤ a.1))
      && regionsApart t

/-- The node sections. R74 names only the reserved bits of MCAST: a member count of 0 or above 4,096, members out of order and a
member range past the array are refused with VERSION too (DESIGN CHOICE, log entry 70). -/
def Node.nodeSectsOk (n : Node) (nonexact : Bool) (ss : List Sect) (self : Nat) : Bool :=
  let nd := sectOf ss 16 nodeLt
  let mc := sectOf ss 18 nodeLt
  nd.halves.all (fun v => decide (v < 4096)) &&
  (sectOf ss 17 nodeLt).entries.all (n.redEntOk nonexact nd self) &&
  regionsApart ((sectOf ss 17 nodeLt).entries.map (redEntOf nd)) &&
  (mc.groups.all fun g =>
    let ms := memberList mc (8 * mc.count + 2 * g.1) g.2
    decide (1 ≤ g.2 ∧ g.2 ≤ 4096 ∧ g.1 + g.2 ≤ 65536) && rising ms && ms.all (fun d => decide (d < 4096))) &&
  (List.range mc.count).all (fun g => zeroAt mc.body (8 * g + 6) 2) &&
  (sectOf ss 19 nodeLt).entries.all (fun e => zeroAt e 6 2 && zeroAt e 14 2) &&
  (sectOf ss 20 nodeLt).entries.all (fun e => decide (leNat e < 2 ^ 18)) &&
  (sectOf ss 21 nodeLt).entries.all (fun e => decide (num e 0 2 < 4096) && zeroAt e 3 1)

/-- The form of a slice (R74, R368, R468, R578). -/
def Node.sliceOk (n : Node) (nonexact : Bool) (b : List Byte) : Bool :=
  headerOk b && directoryOk b &&
  (let ss := sectionsOf b
   let lts := tilesIn ss
   num b 20 2 == greatest lts && lts.all (tileOk ss nonexact) && n.nodeSectsOk nonexact ss (num b 16 2))

/-- Keys that may sign plan slices (19 R561). -/
def Node.planKeys (n : Node) : List Nat :=
  match n.cfg with
  | none => []
  | some c => (c.keys.filter (·.plan)).map (·.key)

/-- Whether a slice's last 96 bytes are a signature of the rest under a listed key with role PLAN (R65, R69, 19 R561). -/
def Node.signedSlice (n : Node) (b : List Byte) : Bool :=
  n.planKeys.any fun k => ecdsaVerify k (b.take (b.length - 96)) (b.drop (b.length - 96))

/-- Why a complete assembly of `stop` bytes is refused, as a NAK code of 11 R351 (R74, R77, R78, R352). -/
def Node.launchRefusal (n : Node) (nonexact : Bool) (all : List Byte) (stop : Nat) : Option Nat :=
  let len := num all 24 8
  let b := all.take len
  if n.job.loaded ∧ (num all 8 8 ≠ n.job.id ∨ !n.job.held) then some 5
  else if stop ≠ len + 32 then some 6
  else if !n.signedSlice b then some 6
  else if !n.sliceOk nonexact b then some 1
  else if !((tilesIn (sectionsOf b)).all n.backed) then some 7
  else none

/-! ### Loading -/

/-- A communication-schedule entry (R71). -/
def commOf (e : List Byte) : Comm where
  kind := num e 0 1
  thr := num e 1 1 % 8
  ctr := bits (num e 1 1) 3 3
  peerLt := num e 2 2 % 4096
  loc := (num e 2 2).testBit 15
  peerNode := num e 4 2 % 4096
  mc := (num e 4 2).testBit 15
  idx := num e 6 1
  perStep := num e 8 4

/-- Entries `k` of a list with the numbers they stand at. -/
def numberedFrom {α β : Type} (f : α → Option β) : Nat → List α → Map β
  | _, [] => []
  | k, a :: t => match f a with
    | some b => (k, b) :: numberedFrom f (k + 1) t
    | none => numberedFrom f (k + 1) t

/-- Tile `lt` as its sections load it (R64, R66, R70-R72); its SRAM, its epoch and its TLC registers stay. -/
def Tile.load (x : Tile) (ss : List Sect) (lt : Nat) : Tile :=
  let ph := sectOf ss 6 lt
  let ck := (sectOf ss 7 lt).halves
  { x.unload with
    used := true
    imem := numberedFrom (fun e => some (BitVec.ofNat 64 (leNat e))) 0 (sectOf ss 1 lt).entries
    thr := numberedFrom (fun (v : Nat) => if v.testBit 15 then
      some { Thread.idle with hasCode := true, entry := v % 4096 } else none) 0 (sectOf ss 2 lt).halves
    descs := numberedFrom (fun e => some ((chunks 8 32 e).map fun w => BitVec.ofNat 64 (leNat w))) 0 (sectOf ss 3 lt).entries
    bind := numberedFrom (fun (v : Nat) => if v.testBit 15 then some (v % 256) else none) 0 (sectOf ss 4 lt).halves
    comm := (sectOf ss 5 lt).entries.map commOf
    phases := (List.range ph.count).map fun k =>
      let e := phaseBytes ph (k + 1)
      { phase := num e 0 1, energy := num e 4 4, cycles := num e 8 4 }
    allow := if ph.body.isEmpty then (0, 1) else (num ph.body 4 4, num ph.body 8 4)
    shadowOk := ck.head?.any (·.testBit 0)
    heldReads := (ck.drop 1).map fun v => (bits v 12 3, v % 4096) }

/-- The job that a slice and its launch record make; what runs of a held job stays (R78). -/
def Job.load (j : Job) (b rec_ : List Byte) (replay : Bool) : Job :=
  let ss := sectionsOf b
  let mc := sectOf ss 18 nodeLt
  let nd := sectOf ss 16 nodeLt
  { loaded := true, id := num b 8 8, node := num b 16 2, nnodes := num b 18 2, highLt := num b 20 2
    planHash := BitVec.ofNat 384 (leNat (cut b 32 48).reverse)
    seed := if j.loaded then j.seed else BitVec.ofNat 64 (num rec_ 0 8)
    started := j.started, held := j.held, holdNext := j.holdNext, fresh := if j.loaded then j.fresh else true
    replay := replay
    mcast := numberedFrom (fun g => some (memberList mc (8 * mc.count + 2 * g.1) g.2)) 0 mc.groups
    mirror := (sectOf ss 19 nodeLt).entries.map fun e => (num e 0 6, num e 8 6, num e 16 8, num e 24 8)
    release := (sectOf ss 20 nodeLt).entries.map fun e =>
      (leNat e % 4096, bits (leNat e) 12 3, bits (leNat e) 15 3)
    recorder := (sectOf ss 21 nodeLt).entries.map fun e => (num e 0 2, num e 2 1)
    red := numberedFrom (fun e => some (redEntOf nd e)) 0 (sectOf ss 17 nodeLt).entries }

/-- The counts of a launch record (R352). -/
def countsOf (rec_ : List Byte) : Counts :=
  { step := BitVec.ofNat 64 (num rec_ 8 8), skips := BitVec.ofNat 64 (num rec_ 16 8), cursor := BitVec.ofNat 64 (num rec_ 24 8) }

/-- The commit unit of a job that begins with counts `c`: both commit records hold them (13 R409; log entry 29). -/
def Commit.launch (u : Commit) (job : Nat) (c : Counts) : Commit :=
  { Commit.idle with now := c, cur := c, prev := c, recJob := job, epoch := u.epoch, last := u.last }

/-- What loading a reduction table zeroes (12 R371, R389): local records, residues and thinning copies. -/
def Node.zeroBuckets (n : Node) (red : Map RedEnt) : Node :=
  red.foldl (fun m kv =>
    let r := kv.2
    let m1 := (m.zeroRange r.localB (6144 * r.nblk)).zeroRange r.residB (8 * r.nblk)
    if r.thin = 1 then m1 else m1.zeroRange r.thinB (2 * (5128 * r.nblk))) n

/-- Every tile of the slice loaded; a tile that only the slice before used is unloaded. -/
def Node.loadTiles (n : Node) (ss : List Sect) : Node :=
  let old : Map Tile := n.tiles.map fun kv => (kv.1, if kv.2.used then kv.2.unload else kv.2)
  let n1 : Node := { n with tiles := old.filter fun kv => decide (kv.1 < 4096) }
  (tilesIn ss).foldl (fun m lt => m.modTile lt fun x =>
    { ((x.load ss lt).enter m.stepCount lt m.commit.epoch) with recur := [], fences := 0 }) n1

/-- Load a slice that passed its checks (R76 steps 4 and 5, R78): tiles, tables, counts, checks, recorder, governor and,
for a job not yet loaded, the job tag. -/
def Node.loadSlice (n : Node) (b rec_ : List Byte) : Node :=
  let fresh := !n.job.loaded
  let job := n.job.load b rec_ (bit n.tps.ctl 0)
  let commit := if fresh then n.commit.launch job.id (countsOf rec_) else n.commit
  let n1 : Node := { n with
    job := job, commit := commit, red := Map.mapVals RedCtx.rest n.red, fills := []
    tps := { n.tps with
      inputs := [], events := [], diff := none
      resReg := if job.replay then 1 else setFld n.tps.resReg 0 2 0 }
    gov := { n.gov with reqs := [], tgs := Map.mapVals (fun g => { g with alpha := 1, gated := true }) n.gov.tgs }
    jobTag := if fresh then some job.id else n.jobTag }
  let n2 := (n1.loadTiles (sectionsOf b)).zeroBuckets job.red
  let tx : Map Nat := n2.usedTiles.map fun lt =>
    (lt, if fresh then n2.stepCount.toNat else Map.getD n.guard.tx lt n2.stepCount.toNat)
  let n3 : Node := { n2 with guard := { n2.guard with
    tx := tx, shadows := [], matched := [], keep := [], ptr0 := if fresh then 0 else n.guard.ptr0
    ptr1 := if fresh then 0 else n.guard.ptr1, late := 0 } }
  { n3 with guard := { n3.guard with wmark := n3.watermark } }

/-- A complete assembly is checked and loaded or refused (R76). The host hears of either by the way of the fragment that completed it
(R352): a NAK, or a RESPONSE with OPCODE 0x00 and the full job identity as SEQ. -/
def Node.takeLaunch (n : Node) (nonexact : Bool) (h : Header) : Node :=
  match Map.look n.asm h.frame.src with
  | none => n
  | some a =>
    let stop := a.stop.getD 0
    let all := (a.bytes.map (·.2)).take stop
    let n1 : Node := { n with asm := Map.del n.asm h.frame.src }
    match n1.launchRefusal nonexact all stop with
    | some c => n1.hostNak .weavo h 0 c
    | none =>
      let len := num all 24 8
      let n2 := n1.loadSlice (all.take len) (all.drop len)
      n2.response .weavo h 0 0 0 n2.job.id

/-! ### Fragments (R352) -/

/-- Let the bytes `d` from `off` on be held; they replace bytes already held there. -/
def putRun (m : Map Byte) (off : Nat) (d : List Byte) : Map Byte :=
  (m.filter fun kv => decide (kv.1 < off)) ++ (d.zipIdx.map fun bi => (off + bi.2, bi.1))
    ++ m.filter fun kv => decide (off + d.length ≤ kv.1)

/-- Bytes held without a gap from `k` on. -/
def gapless : Map Byte → Nat → Nat
  | [], k => k
  | (a, _) :: t, k => if a = k then gapless t (k + 1) else k

/-- The assembly of a host after a fragment: one with another job tag begins anew. -/
def Node.assemble (n : Node) (f : Fragment) : Asm :=
  let new : Asm := { tag := f.h.jobtag, bytes := [], stop := none }
  let old : Asm := match Map.look n.asm f.host with
    | some a => if a.tag = f.h.jobtag then a else new
    | none => new
  { old with
    bytes := putRun old.bytes f.offset f.data
    stop := if f.last then some (f.offset + f.data.length) else old.stop }

/-- A fragment from a host that may launch: one that ends a slice, or follows one that did, is answered with an ACK; a slice
held whole is handled, or kept until the module is Active (15 R479). -/
def Node.takeFragment (n : Node) (f : Fragment) (nonexact : Bool) : Node :=
  let a := n.assemble f
  let n1 : Node := { n with asm := Map.put n.asm f.host a }
  match a.stop with
  | none => n1
  | some e =>
    let have_ := gapless a.bytes 0
    let n2 := n1.hostSend .weavo f.h 0 9 0 (ackSpec have_ 0 false) (.launchAck f.host f.h.ctx have_)
    if have_ < e then n2
    else if n2.asleep then { n2 with later := n2.later ++ [.launch f.h] }
    else n2.takeLaunch nonexact f.h

/-- The entry of HOSTS for an address. -/
def Node.hostCfg (n : Node) (a : Nat) : Option HostCfg := n.cfg.bind fun c => c.hosts.find? (·.addr == a)

/-- A LAUNCH fragment: from an address that HOSTS does not name it is discarded (R332, R352), from a host without the
LAUNCH bit refused (19 R576). -/
def launch (f : Fragment) (nonexact : Bool) (n : Node) : Node :=
  n.takeFrame f.h 0 false (n.hostCfg f.host).isSome fun k =>
    match k.hostCfg f.host with
    | none => k.discardFrame
    | some c =>
      if f.h.ver ≠ 1 then k.hostNak .weavo f.h 0 1
      else if !c.launch then k.hostNak .weavo f.h 0 6
      else k.takeFragment f nonexact

/-- LAUNCH (03 R76-R78, 11 R352). -/
def execLaunch (f : Fragment) (s : State) : Host.Outcome State Fault Refusal :=
  whole (fun st => { st with node := launch f st.chip.sec.nonexact st.node }) s

/-- The module is Active again: what waited for it is handled, oldest first (15 R479). -/
def Node.wakeLater (n : Node) (nonexact : Bool) (h : Hwk) : Node :=
  n.later.foldl (fun m w => match w with
    | .launch h => m.takeLaunch nonexact h
    | .start src c e => m.startAll src c e h
    | .verdict src e v nf => m.addVerdict src e v nf h
    | .outcome src e o => m.addOutcome src e o h) { n with asleep := false, later := [] }

end Sys2Proof.Machine
end

