-- ==== Sys2Proof/Machine/Power.lean ====
section
/-! DEFINITION. What reaches the governor from outside (15 R463-R467, R472, R477) and the power states (R478-R480). -/
namespace Sys2Proof.Machine

/-! ### Readings -/

/-- The sample of U that the meter's tap and the domains now give: a new one at a tap update (`next`), else in place of the
newest (R471). -/
def Node.setU (n : Node) (m : Meter) (next : Bool) : Node :=
  { n with gov := n.gov.average (n.tapU m.pMain m.pAux :: if next then n.gov.samples else n.gov.samples.tail) }

/-- The governor takes a domain's reading (R463); the budget follows, and what fits is admitted (R471, R474). -/
def Node.reading (n : Node) (h : Hwk) (m : Meter) (domain deciWatt : Nat) : Node :=
  let n1 : Node := if domain < 64 then n.setTg domain { n.tg domain with power := deciWatt }
    else { n with gov := { n.gov with dpower := Map.put n.gov.dpower domain deciWatt } }
  (n1.setU m false).admitFits h

/-- The governor runs: X-core is on and out of reset. -/
def State.governed (s : State) : Bool := s.chip.chr.held.isNone && s.chip.pins.domains.contains 64

/-- REGULATOR_READING (R463). -/
def execRegulatorReading (domain deciWatt : Nat) (s : State) : Host.Outcome State Fault Refusal :=
  whole (fun st => if st.governed then
    { st with node := st.node.reading st.chip.hwk st.chip.meter domain deciWatt } else st) s

/-- α_g after an update (R477): `m` measured and `e` estimated power in W. -/
def alphaStep (a m e : Rat) : Rat :=
  let r := a + (m / e - a) / 8
  if r < 1 / 2 then 1 / 2 else if 2 < r then 2 else r

/-- The sum of the estimates of a group's admitted requests with α taken as 1. -/
def Node.plainEstimate (n : Node) (g : Nat) : Rat :=
  ((n.gov.reqs.filter fun r => r.admitted && r.g == g).map fun r => kFactor r.v * n.declaredSum g r.phase).foldl (· + ·) 0

/-- The α update of one tile group. The spec states no quotient where the estimate is zero: it is a free value. -/
def Node.alphaOf (n : Node) (g : Nat) : Node :=
  if !(n.gov.reqs.any fun r => r.admitted && r.g == g) then n
  else
    let x := n.tg g
    let e := n.plainEstimate g
    if e = 0 then (n.setTg g { x with alpha := alphaStep x.alpha (Config.freeRatio n.free) 1 }).takeFree
    else n.setTg g { x with alpha := alphaStep x.alpha ((x.power : Rat) / 10) e }

/-- ALPHA_UPDATE (R477). -/
def execAlphaUpdate (s : State) : Host.Outcome State Fault Refusal :=
  liftH (fun h n => ((List.range 64).foldl (fun m g => m.alphaOf g) n).admitFits h) s

/-! ### Temperatures (R467) -/

/-- The number of a sensor in `Pins.hot`. -/
def sensorNum : Sensor → Nat
  | .tg g b => 2 * g + b2n b
  | .x k => 128 + k

/-- The governor's copy of a reading. -/
def Node.putTemp (n : Node) (s : Sensor) (c : Nat) : Node :=
  match s with
  | .tg g false => n.setTg g { n.tg g with tempA := c }
  | .tg g true => n.setTg g { n.tg g with tempB := c }
  | .x k => { n with gov := { n.gov with xtemps := Map.put n.gov.xtemps k c } }

/-- Whether a target action's hold on a group ends: its temperature is below its target minus 5 °C, and X is not above
its own target (R467). -/
def Node.cooled (n : Node) (h : Hwk) (g : Nat) : Bool :=
  decide ((n.tg g).temp + 5 < h.ttgt ∧ n.xtemp ≤ h.xtgt)

/-- End the holds that have cooled. -/
def Node.unthrottle (n : Node) (h : Hwk) : Node :=
  (List.range 64).foldl (fun m g => if (m.tg g).throttle && m.cooled h g then
    m.setTg g { m.tg g with throttle := false } else m) n

/-- A tile group's conditions that begin with this reading. -/
def Node.groupHeat (n : Node) (h : Hwk) (g before : Nat) : Node :=
  let t := (n.tg g).temp
  let n1 := if before ≤ h.ttgt ∧ h.ttgt < t then n.govEvent 1 g 0 t 0 else n
  if before ≤ 105 ∧ 105 < t then
    let n2 := (n1.govEvent 2 g 0 t 0).lowerTo g 0
    n2.setTg g { n2.tg g with throttle := true }
  else n1

/-- X's conditions that begin with this reading. -/
def Node.xHeat (n : Node) (h : Hwk) (k before : Nat) : Node :=
  let t := n.xtemp
  let n1 := if before ≤ h.xtgt ∧ h.xtgt < t then n.govEvent 3 0 0 t k else n
  if before ≤ 105 ∧ 105 < t then
    (List.range 64).foldl (fun m g => let m1 := m.lowerTo g 0; m1.setTg g { m1.tg g with throttle := true })
      (n1.govEvent 4 0 0 t k)
  else n1

/-- The governor acts on a reading. -/
def Node.heat (n : Node) (h : Hwk) (s : Sensor) (c : Nat) : Node :=
  let n1 := n.putTemp s c
  let n2 := match s with
    | .tg g _ => n1.groupHeat h g (n.tg g).temp
    | .x k => n1.xHeat h k n.xtemp
  (n2.unthrottle h).admitFits h

/-- The thermal trip (R467, 17 R502 source 3): THERM_N low and the source asserted from a reading of 115 °C or above. -/
def Node.trip (n : Node) (s : Sensor) (c : Nat) : Node :=
  let n1 := match s with
    | .tg g _ => n.govEvent 5 g 0 c 0
    | .x k => n.govEvent 5 0 0 c k
  { n1 with therm := true }.raise 3 0

/-- TEMPERATURE_EVENT (R467): a sensor reads `c` °C. -/
def execTemperatureEvent (sn : Sensor) (c : Nat) (s : State) : Host.Outcome State Fault Refusal :=
  whole (fun st =>
    let k := sensorNum sn
    let p := st.chip.pins
    let hot := if 105 ≤ c then insertNew k p.hot else p.hot.filter (· ≠ k)
    let st1 : State := { st with chip := { st.chip with pins := { p with hot := hot } } }
    let st2 : State := if st.governed then { st1 with node := st1.node.heat st.chip.hwk sn c } else st1
    if 115 ≤ c ∧ p.thermN then { st2 with node := st2.node.trip sn c }
    else if !p.thermN && hot.isEmpty then
      { st2 with chip := { st2.chip with pins := { st2.chip.pins with thermN := true } }.letGo 3 }
    else st2) s

/-- THERMAL_LOWER_TIMER (R467): 1 ms of the condition of a tile group, or of X, has passed; what then fits is admitted
(R474). -/
def execThermalLowerTimer (g : Option Nat) (s : State) : Host.Outcome State Fault Refusal :=
  whole (fun st =>
    let n := st.node
    let h := st.chip.hwk
    if !st.governed then st
    else match g with
      | some k => if h.ttgt < (n.tg k).temp then { st with node := (n.lowerOne k).admitFits h } else st
      | none => if h.xtgt < n.xtemp then { st with node := ((List.range 64).foldl (fun m k => m.lowerOne k) n).admitFits h } else st) s

/-- STARVATION_ADMISSION (R472): the oldest pending request is admitted at code 0 without a budget test; outside Active nothing
is admitted (R479). -/
def execStarvationAdmission (s : State) : Host.Outcome State Fault Refusal :=
  lift (fun n => match n.pendingReqs with
    | [] => n
    | r :: _ => if n.asleep then n else (n.govEvent 6 r.g (r.phase.getD 0) 0 0).admitAt r.g r.phase 0) s

/-- VOLTAGE_CHANGE_COMPLETE (R465): the tile group has moved one setting towards its target. -/
def execVoltageChangeComplete (g : Nat) (s : State) : Host.Outcome State Fault Refusal :=
  lift (fun n =>
    let x := n.tg g
    if x.powered then
      n.setTg g { x with vset := if x.vset < x.target then x.vset + 1 else if x.target < x.vset then x.vset - 1 else x.vset }
    else n) s

/-! ### Power states -/

/-- Every tile group gated. -/
def Node.gateAll (n : Node) : Node :=
  { n with gov := { n.gov with tgs := Map.mapVals Tg.gate n.gov.tgs } }

/-- Whether a transition to power state `t` may begin (R479); `far` says that the request came over the copper port or
the sideband. -/
def State.mayPower (s : State) (t : Nat) (far : Bool) : Bool :=
  let p := s.chip.pins
  let j := s.node.job
  p.trans.isNone && (match p.pstate, t with
    | 0, 1 => !j.loaded || j.held
    | 1, 0 | 2, 0 => true
    | 0, 2 | 1, 2 => !j.loaded
    | 0, 3 | 1, 3 | 2, 3 => !j.loaded
    | 3, 0 => far && p.pwrOk
    | _, _ => false)

/-- Begin a transition. From Dormant the module boots from phase 0, with the state that a stay in Dormant leaves (17
R519). -/
def State.beginPower (s : State) (t : Nat) : State :=
  let c := s.chip
  if c.pins.pstate = 3 then
    let d := c.resetTo 1 true
    { s with
      node := s.node.resetTo 1
      chip := { d with
        pins := { d.pins with pstate := 3, trans := some 0 }
        boot := { d.boot with running := true, phase := 0 } } }
  else
    { s with
      node := if t = 0 then s.node else ({ s.node with asleep := true }).gateAll
      chip := { c with
        pins := { c.pins with trans := some t }
        boot := { c.boot with exit_ := if t = 0 ∧ c.pins.pstate = 2 then 3 else 0 } } }

/-- A tile group whose supply is off: what the governor last read and estimated of it stays (17 R519). -/
def Tg.down (g : Tg) : Tg := { Tg.off with tempA := g.tempA, tempB := g.tempB, throttle := g.throttle, power := g.power, alpha := g.alpha }

/-- Every tile group powered and gated at setting 0, with what was last read and estimated of each. -/
def Node.tgsBack (n : Node) : Map Tg :=
  (List.range 64).map fun g => (g, { (n.tg g).down with powered := true, gated := true })

/-- Standby: tile groups off, their tiles' contents lost (17 R519). -/
def Node.standby (n : Node) : Node :=
  { n with tiles := [], gov := { n.gov with reqs := [], tgs := Map.mapVals Tg.down n.gov.tgs } }

/-- Dormant: the tiers' contents are lost, the links are down, and no path but the copper port and the sideband is
served. -/
def Node.dormant (n : Node) : Node :=
  let m := n.standby
  { m with
    on := false, subs := [], peers := [], told := [], asm := [], fcache := [], fcAlt := []
    mems := { m.mems with
      data := [], zero := [], bad := [], soft := [], rx := [], linkUp := [], stalled := [], wbq := [], filled := none }
    gov := { Gov.reset with tgs := [] } }

/-- The exit to Active ends: tile groups on, those with an admitted request ungated (R474), and what waited is handled. -/
def State.toActive (s : State) : State :=
  let n0 := s.node
  let n1 : Node := if s.chip.pins.pstate = 2 then { n0 with gov := { n0.gov with tgs := n0.tgsBack } } else n0
  { s with
    node := n1.retargetAll.wakeLater s.chip.sec.nonexact s.chip.hwk
    chip := { s.chip with
      pins := { s.chip.pins with pstate := 0, trans := none }, boot := { s.chip.boot with exit_ := 0, failed := [], dmsk := [], again := false } } }

/-- The end of a transition, if one is in progress: an exit from Standby ends once its self-test, maps and firmware
broadcast have run (18 R526), an exit from Dormant with READY. -/
def State.endPower (s : State) : State :=
  let c := s.chip
  match c.pins.trans with
  | none => s
  | some 0 =>
    if c.pins.pstate = 1 ∨ (c.pins.pstate = 2 ∧ c.boot.exit_ = 8) then s.toActive else s
  | some 1 => { s with chip := { c with pins := { c.pins with pstate := 1, trans := none } } }
  | some 2 => { s with node := s.node.standby, chip := { c with pins := { c.pins with pstate := 2, trans := none } } }
  | some _ =>
    ({ s with node := s.node.dormant
              chip := { c with pins := { c.pins with pstate := 3, trans := none, domains := [], pairOn := false } } } : State).testWatch

/-- POWER_TRANSITION_COMPLETE (R479). -/
def execPowerTransitionComplete (s : State) : Host.Outcome State Fault Refusal := whole State.endPower s

end Sys2Proof.Machine
end

