-- ==== Sys2Proof/Machine/Resets.lean ====
section
/-! DEFINITION. The pins and events that assert and release reset sources, and the release of a reset (17 R500-R514,
21 R602-R613, 10 R317). -/
namespace Sys2Proof.Machine

/-- Source `src` asserts, and the node asks nothing further. -/
def asserts (src tgt : Nat) (s : State) : Host.Outcome State Fault Refusal := whole (fun st => st.assertSource src tgt) s

/-! ### Power-on and the level sources -/

/-- The always-on supply falls below its threshold: everything that it feeds is lost, the test access port is reset (R515)
and source 0 asserts; the meter stops unless VTEST feeds it (16 R486, R498). -/
def State.auxLost (s : State) : State :=
  let c := s.chip
  let d : Chip := { c with
    pins := { c.pins with aux := false }
    sec := { c.sec with tapReset := true, tapInstr := 1, scan := [] }
    chr := { c.chr with asserted := [], targets := [], minHeld := [], held := none, seqOn := false, stopped := false, ran := false }
    meter := { c.meter with running := c.meter.running && c.meter.vtest } }
  let r := { s with chip := d }.assertSource 0 0
  { r with chip := { r.chip with chr := { r.chip.chr with stopped := true } } }

/-- Whether the filter takes a low pulse of `ns` (R511): on REFCLK from 416 ns on, in any case from 1 µs on and never
below 200 ns; between, it may or may not. -/
def pulseTaken (onRef : Bool) (free ns : Nat) : Bool :=
  if 1000 ≤ ns then true
  else if ns < 200 then false
  else if onRef ∧ 416 ≤ ns then true
  else Config.pulseTaken free

/-- RESET_N (R511): the pin has been low for `ns`. While the always-on clock is stopped a pulse is lost, and a pin still
low is processed once the clock runs (R500). -/
def execResetN (ns : Nat) (s : State) : Host.Outcome State Fault Refusal :=
  whole (fun st =>
    if pulseTaken (!st.chip.chr.clksel) st.node.free ns then
      { st with
        node := st.node.takeFree
        chip := { st.chip with pins := { st.chip.pins with resetN := false } } }.assertSource 1 0
    else { st with node := st.node.takeFree }) s

/-- RESET_N_RETURNS_HIGH (R502). -/
def execResetNReturnsHigh (s : State) : Host.Outcome State Fault Refusal :=
  onChip (fun c => { c with pins := { c.pins with resetN := true } }.letGo 1) s

/-- PWR_OK (R502 source 2, 21 R603): a sustained low asserts source 2; 10 ms of high release it. -/
def execPwrOk (high : Bool) (s : State) : Host.Outcome State Fault Refusal :=
  whole (fun st =>
    let st1 : State := { st with chip := { st.chip with pins := { st.chip.pins with pwrOk := high } } }
    if high then { st1 with chip := st1.chip.letGo 2 } else st1.assertSource 2 0) s

/-- REGULATOR_FAULT (R502 source 10): a regulator of domains 0-69. -/
def execRegulatorFault (domain : Nat) (s : State) : Host.Outcome State Fault Refusal :=
  whole (fun st =>
    if 69 < domain then st
    else
      { st with chip := { st.chip with pins := { st.chip.pins with
          regBad := insertNew domain st.chip.pins.regBad } } }.assertSource 10 0) s

/-- REGULATOR_REPORTS_GOOD (R502): every such regulator reports good. -/
def execRegulatorReportsGood (s : State) : Host.Outcome State Fault Refusal :=
  onChip (fun c => { c with pins := { c.pins with regBad := [] } }.letGo 10) s

/-- REFCLK_FAULT (R501): the monitor latches the fault. With CLKSEL 0 Chrysalis stops with its clock and acts on the latch
once REFCLK runs again; else source 15 asserts now. -/
def execRefclkFault (s : State) : Host.Outcome State Fault Refusal :=
  whole (fun st =>
    let c := st.chip
    let d : Chip := { c with chr := { c.chr with refOk := false, stopped := c.chr.stopped || !c.chr.clksel } }
    { st with chip := d }.assertSource 15 0) s

/-- When the clock starts, level sources whose condition stands are processed (R500), and those release whose condition ended
while it stood still. -/
def State.levels (s : State) : State :=
  let r := [1, 2, 3, 10, 15].foldl (fun st k =>
    if st.chip.stands k && !(st.chip.chr.asserted.any (·.1 == k)) then st.assertSource k 0 else st) s
  { r with chip := [1, 2, 3, 10].foldl Chip.letGo r.chip }

/-- The supply has been valid, with the always-on clock running, for 1 ms: the straps are sampled (R500, 21 R607), level
sources that stand are processed, and source 0 releases. Its clock is the fallback oscillator with STRAP_CLKSEL, bit 2 of
`straps`, else REFCLK: while that does not run nothing happens. -/
def State.auxValid (s : State) (straps : Nat) : State :=
  let c := s.chip
  if !c.chr.refOk && !straps.testBit 2 then s
  else
    let d : Chip := { c with
      pins := { c.pins with aux := true, straps := straps % 4 }
      chr := { c.chr with clksel := straps.testBit 2, stopped := false, ran := true } }
    let r := ({ s with chip := d } : State).levels
    { r with chip := r.chip.letGo 0 }

/-- POWER_ON (R502 source 0): the supply is invalid, or has been valid with the clock running for 1 ms; `straps` is what the
strap pins then read: ADDR0, ADDR1, CLKSEL. A supply that was valid all along changes nothing. -/
def execPowerOn (p : AuxSupply) (s : State) : Host.Outcome State Fault Refusal :=
  whole (fun st => if !p.valid then st.auxLost else if st.chip.pins.aux then st else st.auxValid p.straps) s

/-- REFCLK_RUNS_AGAIN (R501, R502): REFCLK has been good for 1 ms. A stopped Chrysalis first acts on its latch. Without its
supply it only finds REFCLK there when the supply returns. -/
def execRefclkRunsAgain (s : State) : Host.Outcome State Fault Refusal :=
  whole (fun st =>
    let c := st.chip
    if !c.pins.aux then { st with chip := { c with chr := { c.chr with refOk := true } } }
    else
      let st1 : State := { st with chip := { c with chr := { c.chr with refOk := true, stopped := false } } }
      let st2 := if c.chr.stopped then (st1.assertSource 15 0).levels else st1
      { st2 with chip := st2.chip.letGo 15 }) s

/-! ### Minimum-hold and target sources -/

/-- MANAGEMENT_WATCHDOG (R502 source 4). -/
def execManagementWatchdog (s : State) : Host.Outcome State Fault Refusal := asserts 4 0 s

/-- BLOCK_LOCK_LOSS (R502 source 13): a sub-port that is up. -/
def execBlockLockLoss (port sub : Nat) (s : State) : Host.Outcome State Fault Refusal :=
  whole (fun st => if (st.node.sub port sub).up then st.assertSource 13 (4 * port + sub) else st) s

/-- A CXL link goes down (10 R317): source 14 asserts with the link as its target. -/
def State.linkDown (s : State) (l : Nat) : State :=
  if s.node.mems.linkUp.contains l then s.assertSource 14 l else s

/-- CXL_LINK_DOWN (10 R317). -/
def execCxlLinkDown (l : Nat) (s : State) : Host.Outcome State Fault Refusal := whole (fun st => st.linkDown l) s

/-- A CXL link that was down is up, and what waited for it is judged again (10 R317). -/
def Node.cxlBack (n : Node) (l : Nat) : Node :=
  (({ n with mems := { n.mems with
      linkUp := insertNew l n.mems.linkUp, stalled := n.mems.stalled.filter (· ≠ l)
      cxmCfg := setFld n.mems.cxmCfg (2 + l) 1 1 } } : Node).wakeAll).releaseHeld

/-- CXL_LINK_RETRAINED (10 R317): the link is up, and its stalled requests are reissued. Only a link whose PRSNT_N is low trains (21
R613), and only once its reset has ended (17 R506). -/
def execCxlLinkRetrained (l : Nat) (s : State) : Host.Outcome State Fault Refusal :=
  whole (fun st =>
    if st.node.mems.stalled.contains l && !Map.getD st.chip.pins.prsntN l true && !st.chip.chr.targets.contains (14, l) then
      { st with node := st.node.cxlBack l }
    else st) s

/-- CXL_RETRAIN_TIMEOUT (10 R317, R320, R321): a link still down after 100 ms is a failed link. -/
def execCxlRetrainTimeout (l : Nat) (s : State) : Host.Outcome State Fault Refusal :=
  lift (fun n => if n.mems.stalled.contains l then (n.taint.ueRecord 3 2 l 0).raise 8 0 else n) s

/-- PRSNT_N (21 R613): after ready a change to high is a link that goes down; a change to low waits for the next sequence,
whose phase 5 reads the pin. -/
def execPrsntN (l : Nat) (high : Bool) (s : State) : Host.Outcome State Fault Refusal :=
  whole (fun st =>
    let st1 : State := { st with chip := { st.chip with pins := { st.chip.pins with
      prsntN := Map.put st.chip.pins.prsntN l high } } }
    if high && st.chip.boot.ready then st1.linkDown l else st1) s

/-! ### The ends of holds -/

/-- The hold of a Tile reset of logical tile `lt` ends: what waited for the tile is judged again (R508). -/
def Node.tileFree (n : Node) (lt : Nat) : Node := ((n.modTile lt fun x => { x with inRst := false }).wakeAll).releaseHeld

/-- RESET_HOLD_END (R506): the oldest running hold ends, a Tile or Link target's first; a minimum-hold source then
releases, a level source once its condition has ended. A stopped Chrysalis processes nothing (R500). -/
def execResetHoldEnd (s : State) : Host.Outcome State Fault Refusal :=
  if s.chip.chr.stopped then .next s
  else match s.chip.chr.targets, s.chip.chr.minHeld with
  | (src, tgt) :: t, _ =>
    whole (fun st =>
      let c : Chrys := { st.chip.chr with targets := t }
      { st with
        node := if src = 12 ∧ !t.contains (12, tgt) then st.node.tileFree tgt else st.node
        chip := { st.chip with chr := c } }) s
  | [], src :: t => onChip (fun c => { c with chr := { c.chr with minHeld := t } }.letGo src) s
  | [], [] => .next s

/-- Whether the sequence makes bring-up start at phase 0 (R512). -/
def Chrys.fromPhase0 (c : Chrys) : Bool := c.fromDorm || c.seqSrcs.any fun s => s == 0 || s == 2 || s == 10 || s == 15

/-- RESET_RELEASE (R504, R507 step 7): every source has released, and bring-up starts. The columns that the reset powered off
(02 R49) are powered again: here where bring-up leaves out phase 0 (DEDUCED, log entry 78), else by that phase. -/
def execResetRelease (s : State) : Host.Outcome State Fault Refusal :=
  whole (fun st =>
    let c := st.chip
    if c.chr.held.isSome && c.chr.asserted.isEmpty && c.chr.minHeld.isEmpty && !c.chr.stopped then
      let n := st.node
      { st with
        node := if c.chr.fromPhase0 then n else { n with gov := { n.gov with tgs := tgsPowered } }
        chip := { c with
          chr := { c.chr with held := none }
          boot := { c.boot with running := true, phase := if c.chr.fromPhase0 then 0 else 1 } } }
    else st) s

/-! ### Retraining of a sub-port (R509, 18 R545) -/

/-- The topology event of a mismatch (20 R595 code 10) and its record (18 R555). -/
def topoWord (cls policy port sub node lanes : Nat) : Word :=
  setFld (setFld (setFld (setFld (setFld (setFld 0 59 3 cls) 57 2 policy) 54 3 port) 52 2 sub) 40 12 node) 32 8 lanes

/-- The lanes in use, in a port's mask, of a sub-port whose first lane is `base` (11 R365). -/
def Sub.mask (x : Sub) (base : Nat) : Nat := (2 ^ x.lanes - 1) * 2 ^ (base + x.first)

/-- Whether the `k` lanes from `i` on all trained. -/
def lanesTrained (mask i k : Nat) : Bool := (span i k).all mask.testBit

/-- The lanes on which a sub-port of `width` lanes runs (11 R330): all of them; else the largest aligned group of 4 or 2 that
trained, of two such the lower (DESIGN CHOICE, log entry 56); none where there is no such group. The first lane, and how
many. -/
def laneGroup (mask width : Nat) : Nat × Nat :=
  if lanesTrained mask 0 width then (0, width)
  else match ([4, 2].flatMap fun k => (List.range (width / k)).map fun g => (g * k, k)).find? fun g => lanesTrained mask g.1 g.2 with
    | some g => g
    | none => (0, 0)

/-- A sub-port of `width` lanes of which those of `mask` trained. -/
def Sub.train (x : Sub) (mask width : Nat) : Sub :=
  let g := laneGroup mask width
  { x with up := g.2 != 0, first := g.1, lanes := g.2, trained := mask % 2 ^ width }

/-- The policy of class `c` as it acts: a value the class does not allow acts as refuse (18 R543). -/
def policyOf (w : Word) (c : Nat) : Nat :=
  let p := fld w (2 * c) 2
  match c, p with
  | 0, _ => if p = 3 then 2 else p
  | 3, 1 => 1
  | 3, _ => 2
  | _, 0 => 0
  | _, _ => 2

/-- Sub-ports of a port in a mode (11 R329). -/
def subPorts : Nat → Nat
  | 0 => 1
  | 1 => 2
  | _ => 4

/-- The mode of port `p`. -/
def Node.portMode (n : Node) (p : Nat) : Nat :=
  match n.cfg with
  | none => 0
  | some c => c.modes.getD p 0

/-- The first lane of sub-port `s` of port `p` (11 R329). -/
def Node.laneBase (n : Node) (p s : Nat) : Nat := 8 / subPorts (n.portMode p) * s

/-- Send a HELLO request on every route of sub-port `k` (11 R354). -/
def Node.helloOn (n : Node) (k : Nat) : Node :=
  match n.cfg with
  | none => n
  | some c => c.nodes.foldl (fun m d => (m.routesOn d.1 k).foldl (fun q i => q.sendHello d.1 i false) m) n

/-- Lanes of each sub-port of port `p` (11 R329). -/
def Node.laneWidth (n : Node) (p : Nat) : Nat := 8 / subPorts (n.portMode p)

/-- What a sub-port on `lanes` lanes is judged as, after ready: class and policy, with refuse acting as fence (R545). -/
def State.judge (s : State) (p q lanes : Nat) : Option (Nat × Nat) :=
  match s.node.subCfg p q with
  | none => none
  | some c =>
    let as (cls : Nat) : Nat × Nat := let v := policyOf s.chip.boot.policy cls; (cls, if v = 2 then 1 else v)
    if c.role == .unused then none
    else if lanes = 0 then some (as 1)
    else if lanes < c.lanes then some (as 0) else none

/-- SUB_PORT_RETRAINED (R509, R545): the lanes of `mask` have trained; a mismatch has its policy and sends a topology event;
HELLO goes out again on the sub-port's routes. Its reset holds for its time first (R506). -/
def State.retrained (s : State) (p q mask : Nat) : State :=
  let x := s.node.sub p q
  if !x.resetting || s.chip.chr.targets.contains (13, 4 * p + q) then s
  else
    let z : Sub := { x.train mask (s.node.laneWidth p) with resetting := false }
    let n := s.node.setSub p q z
    let done (st : State) : State :=
      let y := st.node.sub p q
      if y.up && !y.fenced then { st with node := st.node.helloOn (4 * p + q) } else st
    match s.judge p q z.lanes with
    | none => done { s with node := n }
    | some (cls, pol) =>
      let w := topoWord cls pol p q 0 (z.trained * 2 ^ n.laneBase p q)
      let rec_ := firstEvt s.chip.boot.topo w
      let m := if pol = 1 then n.setSub p q { n.sub p q with fenced := true } else n
      done { s with node := m.event 10 0xFFFF rec_, chip := { s.chip with boot := { s.chip.boot with topo := rec_ } } }

/-- SUB_PORT_RETRAINED. -/
def execSubPortRetrained (port sub lanes : Nat) (s : State) : Host.Outcome State Fault Refusal :=
  whole (fun st => st.retrained port sub lanes) s

end Sys2Proof.Machine
end

