-- ==== Sys2Proof/Machine/Meter.lean ====
section
/-! DEFINITION. Sphinx, the sealed energy meter (16): its commands: intervals, seal events, test mode and the tap. -/
namespace Sys2Proof.Machine

/-- A command of the meter, which does nothing while it does not run. -/
def onMeter (f : Nat → Meter → Meter) (s : State) : Host.Outcome State Fault Refusal :=
  onChip (fun c => if c.meter.running then { c with meter := f c.fuses.serial.toNat c.meter } else c) s

/-- The meter as it starts: only the seal count, its identity and the receptacle's pins stay (R495). -/
def Meter.anew (m : Meter) : Meter :=
  { Meter.reset with running := true, testReq := m.testReq, vtest := m.vtest, sealCnt := m.sealCnt, id := m.id }

/-- METER_START (R494, R495): after loss of both supplies, once one is there; totals, counts and mirror begin anew, the meter checks
itself (R488), and enters test mode where that is asked for (R499). -/
def execMeterStart (s : State) : Host.Outcome State Fault Refusal :=
  let m := s.chip.meter
  .next (if m.running || !(s.chip.pins.aux || m.vtest) then s
    else
      let st : State := { s with
        node := { s.node with free := s.node.free + 1 }
        chip := { s.chip with meter := (m.anew.sealEvent 1).check (Config.meterSound s.node.free) } }
      if st.testDue then st.testFrom 0 else st)

/-- READING_INTERVAL_END (R490): the interval has lasted 1,000 ms. -/
def execReadingIntervalEnd (m : MeterMeas) (s : State) : Host.Outcome State Fault Refusal :=
  onMeter (fun serial x => if m.durMs = 1000 then x.close serial none m else x) s

/-- DELAYED_TAG (R491): a tag that waits takes effect when the interval reaches 10 ms. -/
def execDelayedTag (m : MeterMeas) (s : State) : Host.Outcome State Fault Refusal :=
  onMeter (fun serial x => if x.waitTag.isSome && decide (10 ≤ m.durMs ∧ m.durMs ≤ 1000) then x.close serial none m else x) s

/-- SEAL_SWITCH_OPENED (R494 kind 2). -/
def execSealSwitchOpened (m : MeterMeas) (s : State) : Host.Outcome State Fault Refusal :=
  onMeter (fun serial x => x.cutBy serial 2 m) s

/-- TEST_MODE_ENTER (R498, R499): TEST_N is low, with VTEST present or not; the meter enters test mode once domains 0-69 are off. -/
def execTestModeEnter (m : MeterMeas) (s : State) : Host.Outcome State Fault Refusal :=
  let st : State := { s with chip := { s.chip with meter := { s.chip.meter with testReq := true, vtest := m.vtest } } }
  .next (if st.testDue then { st with chip := { st.chip with meter :=
    { st.chip.meter.cutBy s.chip.fuses.serial.toNat 3 m with test := true } } } else st)

/-- TEST_MODE_LEAVE (R499): TEST_N is high, or VTEST is removed; the switches open and READY returns. Where VTEST alone fed the meter,
it stops (R486). -/
def execTestModeLeave (m : MeterMeas) (s : State) : Host.Outcome State Fault Refusal :=
  let x : Meter := { s.chip.meter with testReq := false, vtest := m.vtest }
  let y := if !(s.chip.pins.aux || m.vtest) then { x with running := false }
    else if x.running && x.test then { x.cutBy s.chip.fuses.serial.toNat 4 m with test := false } else x
  .next { s with chip := { s.chip with meter := y } }

/-- TAP_UPDATE (R489): the mean powers of the last 100 µs reach SPX_FAST and the governor, whose budget follows (15 R471). -/
def execTapUpdate (mainMw auxCw : Nat) (s : State) : Host.Outcome State Fault Refusal :=
  whole (fun st =>
    let x := st.chip.meter
    if !x.running then st
    else
      let y : Meter := { x with pMain := mainMw, pAux := auxCw, tick := (x.tick + 1) % 65536 }
      let st1 : State := { st with chip := { st.chip with meter := y } }
      if st1.governed then { st1 with node := (st1.node.setU y true).admitFits st1.chip.hwk } else st1) s

end Sys2Proof.Machine
end

