-- ==== Sys2Proof/Machine/BringUp.lean ====
section
/-! DEFINITION. Bring-up (18): phases 0 to 8, the verification of images (19 R566-R570, R575-R577), the maps, link training,
the comparison with the expected topology and ready. -/
namespace Sys2Proof.Machine

/-! ### Phases -/

/-- Bring-up is in phase `k` and has not stopped, and Chrysalis runs (17 R501). -/
def State.inPhase (s : State) (k : Nat) : Bool :=
  let b := s.chip.boot
  b.running && b.err == 0 && b.phase == k && s.chip.chr.held.isNone && !s.chip.chr.stopped

/-- Change the state of bring-up. -/
def State.setBoot (s : State) (b : Boot) : State := { s with chip := { s.chip with boot := b } }

/-- Bring-up goes on to phase `k`. -/
def State.toPhase (s : State) (k : Nat) : State := s.setBoot { s.chip.boot with phase := k }

/-- Bring-up stops with an error (R553). -/
def State.stopBoot (s : State) (err detail : Nat) : State := s.setBoot { s.chip.boot with err := err, detail := detail }

/-- A command that bring-up's phase `k` waits for. -/
def inPhase (k : Nat) (f : State → State) (s : State) : Host.Outcome State Fault Refusal :=
  whole (fun st => if st.inPhase k then f st else st) s

/-- Whether the CXL initialisation fill is pending (R534). -/
def Node.fillPending (n : Node) : Bool :=
  match n.mems.filled with
  | none => false
  | some l => decide (l.length < ceilDiv (n.cxlLimit - Config.cxlBase) 0x1000000)

/-- The phase that software sees: 8 from ready on (R547). -/
def Boot.shown (b : Boot) : Nat := if b.phase = 8 ∧ !b.ready then 7 else b.phase

/-- CHR_BOOT as a word (R553). -/
def bootWord (b : Boot) (fill : Bool) : Word :=
  setFld (setFld (setFld (setFld (setFld 0 16 8 b.detail) 8 8 b.err) 5 1 (b2n fill)) 4 1 (b2n b.recov)) 0 4 b.shown

/-! ### Phases 0 and 1 -/

/-- SUPPLIES_AND_CLOCK (R527): with the always-on clock running, PWR_OK high and the meter ready, the domains are enabled. -/
def execSuppliesAndClock (s : State) : Host.Outcome State Fault Refusal :=
  inPhase 0 (fun st =>
    let c := st.chip
    if c.chr.stopped || !c.pins.pwrOk || !c.meter.running || c.meter.test then st
    else
      let st1 : State := { st with
        node := { st.node with gov := { st.node.gov with tgs := tgsPowered } }
        chip := { c with pins := { c.pins with domains := [64, 65, 66, 67, 68, 69] } } }
      st1.toPhase 1) s

/-- The copy of the retained map in force: the valid one with the higher SEQ (R541). -/
def Chrys.copyInForce (c : Chrys) : Option Retained :=
  match c.copyA.valid, c.copyB.valid with
  | true, true => some (if c.copyA.seq < c.copyB.seq then c.copyB else c.copyA)
  | true, false => some c.copyA
  | false, true => some c.copyB
  | false, false => none

/-- The deepest level of the sequence; an exit from Dormant counts as Cold (R523). -/
def Chrys.bootLevel (c : Chrys) : Nat := if c.seqOn then c.seqLevel else 1

/-- Whether the boot is a recovery boot (R523). -/
def Chip.recoveryBoot (c : Chip) : Bool :=
  decide (1 ≤ c.chr.bootLevel) && (match c.chr.copyInForce with
    | none => false
    | some r => r.serial == c.fuses.serial.toNat)

/-- OPTION_LOADING (R523, R528): a fuse group that fails its check stops bring-up. -/
def execOptionLoading (fusesOk : Bool) (s : State) : Host.Outcome State Fault Refusal :=
  inPhase 1 (fun st =>
    if !fusesOk then st.stopBoot 1 0
    else (st.setBoot { st.chip.boot with recov := st.chip.recoveryBoot }).toPhase 2) s

/-! ### Images (19 R566-R569, R575-R577) -/

/-- The header of an image is well formed: version, kind, SVN, and zero in every reserved byte (19 R566). -/
def Slot.headOk (s : Slot) (kind mode : Nat) : Bool :=
  s.field 0 2 == 1 && s.field 2 1 == kind && s.field 4 1 == mode && decide (s.field 8 4 ≤ 64) &&
  s.field 5 3 == 0 && s.field 12 4 == 0 && s.field 80 48 == 0 && s.field 224 32 == 0

/-- BODYHASH matches the body. -/
def Slot.hashOk (s : Slot) : Bool := s.part 32 48 == hashBytes (sha384 (s.part 256 (s.field 16 8)))

/-- The range of each value of a base configuration (19 R576). -/
def baseOk (b : BaseCfg) : Bool :=
  decide (b.node < 4096 ∧ 1 ≤ b.shRead ∧ b.shRead ≤ 14 ∧ 1 ≤ b.shWrite ∧ b.shWrite ≤ 14 ∧ 1 ≤ b.shRemote ∧ b.shRemote ≤ 14
    ∧ b.shRead + b.shWrite + b.shRemote = 16 ∧ b.keys.length ≤ 8 ∧ b.hosts.length ≤ 16) &&
  b.nodes.all (fun kv => decide (kv.1 < 4096 ∧ 1 ≤ kv.2.length ∧ kv.2.length ≤ 8)) &&
  b.modes.all (fun m => decide (m < 3)) && (b.cxlMembers.length == 0 || b.cxlMembers.length == 1 ||
    b.cxlMembers.length == 2 || b.cxlMembers.length == 4) && b.cxlMembers.all (fun l => decide (l < 4))

/-- The tags of the records of a body (19 R575): each a TAG, two reserved bytes, LEN, and a value padded to a multiple of 8
bytes. None where a record does not end with the body or a reserved byte is not zero (DEDUCED, log entry 79). -/
def tagsOf : Nat → List Byte → Option (List Nat)
  | _, [] => some []
  | 0, _ => none
  | fuel + 1, b =>
    let whole := 8 + (leNat ((b.drop 4).take 4) + 7) / 8 * 8
    if b.length < 8 ∨ b.length < whole ∨ leNat ((b.drop 2).take 2) ≠ 0 then none
    else (tagsOf fuel (b.drop whole)).map (leNat (b.take 2) :: ·)

/-- The tags of the body of the image in a slot. -/
def Slot.tags (s : Slot) : Option (List Nat) := let b := s.part 256 (s.field 16 8); tagsOf b.length b

/-- Tags that a kind of image knows (19 R576). -/
def knownTags (kind : Nat) : List Nat := if kind = 2 then span 0x0001 14 else span 0x0101 6

/-- The tags of a body as a kind of image may carry them (19 R575, R576): an unknown one only if it is optional, one that is
known exactly once in a base configuration and at most once in an overlay. -/
def tagsOk (kind : Nat) (ts : List Nat) : Bool :=
  let known := knownTags kind
  ts.all (fun t => known.contains t || decide (0x8000 ≤ t)) &&
    known.all fun t => if kind = 2 then ts.count t == 1 else decide (ts.count t ≤ 1)

/-- A value whose tag is carried. -/
def ifTag {α : Type} (ts : List Nat) (t : Nat) (x : Option α) : Option α := if ts.contains t then x else none

/-- The fields of an overlay whose tags its body carries. -/
def overlayUnder (o : Overlay) (ts : List Nat) : Overlay :=
  { xtgt := ifTag ts 0x0101 o.xtgt, ttgt := ifTag ts 0x0101 o.ttgt, starveUs := ifTag ts 0x0101 o.starveUs, vmax := ifTag ts 0x0101 o.vmax
    shadowEvery := ifTag ts 0x0102 o.shadowEvery, redMode := ifTag ts 0x0103 o.redMode
    capMib := ifTag ts 0x0104 o.capMib, capN := ifTag ts 0x0104 o.capN, nrec := ifTag ts 0x0104 o.nrec, slotLog2 := ifTag ts 0x0104 o.slotLog2
    tpsEn := ifTag ts 0x0104 o.tpsEn, recBase := ifTag ts 0x0104 o.recBase, capBase := ifTag ts 0x0104 o.capBase
    stragUs := ifTag ts 0x0105 o.stragUs, rtoUs := ifTag ts 0x0105 o.rtoUs, nonexact := ifTag ts 0x0106 o.nonexact, debug := ifTag ts 0x0106 o.debug }

/-- What the body of the image in a slot carries. -/
def Slot.content (s : Slot) : ImageBody :=
  match s.body with
  | .overlay o => .overlay (overlayUnder o (s.tags.getD []))
  | b => b

/-- Whether the body of the image in a slot meets R576 for its kind, with R579 for an overlay of mode `mode`. -/
def Slot.bodyOk (s : Slot) (kind mode : Nat) : Bool :=
  match s.content, kind with
  | .firmware, 1 => true
  | .base b, 2 => baseOk b && s.tags.any (tagsOk 2)
  | .overlay o, 3 => (!(o.debug == some true) || mode == 2) && s.tags.any (tagsOk 3)
  | _, _ => false

/-! The signature of an image covers bytes 0 to 127 and stands at 128 to 223 (19 R566). Of a firmware or owner key the fuses
hold a digest only, so `signer` says under which of them it verifies; a key of the configuration list is there whole, and the
signature is computed. -/

/-- A firmware image is signed with an unrevoked firmware key. -/
def Slot.fwSigned (s : Slot) (f : Fuses) : Bool := s.signer.any fun k => f.fwKeys.any fun x => x.1 == k && !x.2

/-- A base configuration is signed with the unrevoked owner key that KEYIDX names. -/
def Slot.ownerSigned (s : Slot) (f : Fuses) : Bool :=
  decide (0x10 ≤ s.field 3 1) && (match f.owners[s.field 3 1 - 0x10]? with
    | some (some k, false) => s.signer == some k
    | _ => false)

/-- An overlay is signed with the listed key that KEYIDX names, which has role OVERLAY. -/
def Slot.listSigned (s : Slot) (keys : List CfgKey) : Bool :=
  match keys[s.field 3 1]? with
  | some k => k.overlay && ecdsaVerify k.key (s.part 0 128) (s.part 128 96)
  | none => false

/-- Whether the image in a slot verifies (19 R567); `signed` says that its signature does. -/
def Slot.verifies (s : Slot) (f : Fuses) (kind mode : Nat) (signed : Bool) : Bool :=
  s.headOk kind mode && signed && s.hashOk && s.bodyOk kind mode &&
  (s.field 24 8 == 0 || s.field 24 8 == f.serial.toNat) &&
  decide ((if kind = 1 then f.fwSvn else f.cfgSvn) ≤ s.field 8 4)

/-- The slot of a pair that is in force: the active one, or the other where that fails (19 R569), with whether it fell
back. -/
def pickSlot (slots : Map Slot) (a b : Nat) (ok : Slot → Bool) : Option (Nat × Slot × Bool) :=
  let at_ (k : Nat) : Option Slot := Map.look slots k
  let first := if (at_ b).any (·.active) then b else a
  let second := if first = a then b else a
  match (at_ first).filter ok with
  | some s => some (first, s, false)
  | none => match (at_ second).filter ok with
    | some s => some (second, s, true)
    | none => none

/-- Activations and a mode selection that wait take effect (19 R568, R577). -/
def Sec.applyWaiting (c : Sec) : Sec :=
  { c with
    slots := c.slots.map fun kv =>
      let other := if kv.1 % 2 = 0 then kv.1 + 1 else kv.1 - 1
      (kv.1, if kv.2.next then { kv.2 with active := true, next := false }
             else if (Map.look c.slots other).any (·.next) then { kv.2 with active := false } else kv.2)
    modeSel := c.modeNext.getD c.modeSel, modeNext := none }

/-- The images that phase 2 puts in force: firmware, base configuration and overlay, each with its slot and whether it
fell back. -/
structure Images where
  fw    : Nat × Slot × Bool
  base  : Nat × Slot × Bool
  cfg   : BaseCfg
  ov    : Nat × Slot × Bool
  over_ : Overlay
  deriving DecidableEq, Repr

/-- Verify the images (R529, 19 R561, R567, R569, R577). -/
def verifyImages (c : Sec) (f : Fuses) : Option Images :=
  match pickSlot c.slots 0 1 (fun x => x.verifies f 1 0 (x.fwSigned f)),
    pickSlot c.slots 2 3 (fun x => x.verifies f 2 0 (x.ownerSigned f)) with
  | some fw, some base =>
    match base.2.1.content with
    | .base b =>
      match pickSlot c.slots (4 + 2 * c.modeSel) (5 + 2 * c.modeSel) (fun x => x.verifies f 3 c.modeSel (x.listSigned b.keys)) with
      | some ov => match ov.2.1.content with
        | .overlay o => some { fw := fw, base := base, cfg := b, ov := ov, over_ := o }
        | _ => none
      | none => none
    | _ => none
  | _, _ => none

/-- IDN_CAP of OCN-QJ1-32 (R550). -/
def idnCap : Word := 0x0000040800964480

/-- Fuse state as block 5 measures it (19 R572): counters, owner slots and their revokes, IDN_CAP. The spec gives the
digest's input no layout (log entry 36). -/
def fuseBytes (f : Fuses) : List Byte :=
  leBytes f.fwSvn 1 ++ leBytes f.cfgSvn 1 ++ (f.owners.flatMap fun o => leBytes (o.1.getD 0) 48 ++ leBytes (b2n o.2) 1)
    ++ leBytes idnCap.toNat 8

/-- SEC after phase 2. -/
def Sec.load (c : Sec) (f : Fuses) (i : Images) : Sec :=
  { c with
    mode := c.modeSel, fallback := i.fw.2.2 || i.base.2.2 || i.ov.2.2
    debug := Option.getD i.over_.debug false, nonexact := i.over_.nonexact.getD false, overlay := some i.over_, lastSeq := 0
    fwSvnRun := i.fw.2.1.field 8 4, cfgSvnRun := i.base.2.1.field 8 4, inForce := [i.fw.1, i.base.1, i.ov.1]
    meas := [Config.romDigest, sha384 i.fw.2.1.image, sha384 i.base.2.1.image, sha384 i.ov.2.1.image, sha384 (fuseBytes f)]
    spdm := 0 }

/-- TSH_CFG as phase 2 loads it (11 R363). -/
def tshCfgOf (b : BaseCfg) : Word :=
  setFld (setFld (setFld (setFld 0 16 16 b.udpPort) 3 1 (b2n b.ipv6)) 2 1 (b2n b.ecn)) 1 1 (b2n b.pfc)

/-- The base of a register field that an overlay may give. -/
def ovField (w : Word) (lo len : Nat) (v : Option Nat) (d : Nat) : Word := setFld w lo len (v.getD d)

/-- Registers that the base configuration and the overlay load on the node (19 R576). -/
def Node.loadConfig (n : Node) (i : Images) (session : Nat) : Node :=
  let b := i.cfg
  let o := i.over_
  { n with
    on := true, cfg := some b, session := session, events := [], evHead := 0, evSeq := 0
    tshCfg := tshCfgOf b
    split := setFld (setFld (setFld 0 10 5 b.shRemote) 5 5 b.shWrite) 0 5 b.shRead
    timers := ovField (ovField 0 32 20 o.stragUs 2000) 0 16 o.rtoUs 200
    redCfg := ovField (setFld 0 18 30 (b.digestBase / 2 ^ 18)) 0 2 o.redMode 0
    gng := { n.gng with
      cfg := setFld (setFld (setFld 0 24 20 b.slotMib) 12 12 b.gngPartner) 0 1 (b2n b.gngEn)
      inbase := setFld 0 20 28 (b.inbase / 2 ^ 20) }
    guard := { n.guard with chkCfg := ovField n.guard.chkCfg 0 7 o.shadowEvery 1 }
    tps := { n.tps with
      cfg := ovField (ovField (ovField (ovField (ovField 0 40 24 o.capMib 0) 24 8 o.capN 0) 8 16 o.nrec 0) 4 4 o.slotLog2 0)
        0 1 (o.tpsEn.map b2n) 0
      recBase := setFld 0 12 36 (o.recBase.getD 0 / 2 ^ 12), capBase := setFld 0 20 28 (o.capBase.getD 0 / 2 ^ 20) } }

/-- HWK_LIMITS as the overlay loads it (15 R482). -/
def limitsOf (o : Overlay) : Word :=
  ovField (ovField (ovField (ovField 0 40 8 o.xtgt 95) 32 8 o.ttgt 95) 16 16 o.starveUs 50) 0 3 o.vmax 6

/-- CHR_POLICY as the base configuration loads it (R554). -/
def policyWord (b : BaseCfg) : Word :=
  (List.range 7).foldl (fun w c => setFld w (2 * c) 2 (b.policies.getD c ([0, 0, 2, 1, 2, 0, 2].getD c 0))) (setFld 0 32 16 b.topoWaitMs)

/-- The session of a bring-up (11 R355): the counter that the backup register holds goes on; after a Full reset the value
comes from the random source. -/
def State.newSession (s : State) : Nat :=
  let c := s.chip.chr
  if c.seqOn ∧ c.seqLevel = 0 then (Config.freeSession s.node.free) % 2 ^ 64 else (c.bkpSession.toNat + 1) % 2 ^ 64

/-- Whether some pair of slots falls back (19 R569): a pair's active slot fails and its other one verifies. -/
def fellBack (c : Sec) (f : Fuses) : Bool :=
  let back (p : Option (Nat × Slot × Bool)) : Bool := p.any (·.2.2)
  let base := pickSlot c.slots 2 3 (fun x => x.verifies f 2 0 (x.ownerSigned f))
  back (pickSlot c.slots 0 1 (fun x => x.verifies f 1 0 (x.fwSigned f))) || back base ||
    (match (base.map fun p => p.2.1.content : Option ImageBody) with
      | some (.base b) => back (pickSlot c.slots (4 + 2 * c.modeSel) (5 + 2 * c.modeSel) fun x =>
          x.verifies f 3 c.modeSel (x.listSigned b.keys))
      | _ => false)

/-- Phase 2 once ROM and key derivation have passed their checks (R529): waiting activations take effect, the images are verified,
and their values are loaded; a failure stops bring-up with the management paths served. -/
def State.loadImages (st : State) : State :=
  let c := st.chip
  let sec := if c.chr.seqOn then c.sec.applyWaiting else c.sec
  let session := st.newSession
  let n0 : Node := { st.node.takeFree with serial := c.fuses.serial }
  let chr : Chrys := { c.chr with bkpSession := BitVec.ofNat 64 session }
  let pins : Pins := { c.pins with copper := true }
  match verifyImages sec c.fuses with
  | none =>
    ({ st with
      node := { n0 with on := true, cfg := none, session := session, events := [], evHead := 0, evSeq := 0 }
      chip := { c with sec := { sec with lastSeq := 0, fallback := fellBack sec c.fuses }, chr := chr, pins := pins } } : State).stopBoot 2 0
  | some i =>
    let st1 : State := { st with
      node := n0.loadConfig i session
      chip := { c with
        sec := sec.load c.fuses i, chr := chr, pins := pins, hwk := { c.hwk with limits := limitsOf i.over_ }
        boot := { c.boot with policy := policyWord i.cfg } } }
    st1.toPhase 3

/-- MANAGEMENT_BOOT (R529): the processor boots from ROM. A ROM that fails its integrity check and a key derivation engine that fails
its self-test are violations (19 R580 kinds 3 and 4). -/
def managementBoot (st : State) : State :=
  let f := st.node.free
  let st1 : State := { st with node := { st.node with free := f + 2 } }
  if !Config.romSound f then st1.violate 3 else if !Config.kdfSound (f + 1) then st1.violate 4 else st1.loadImages

/-- MANAGEMENT_BOOT. -/
def execManagementBoot (s : State) : Host.Outcome State Fault Refusal := inPhase 2 managementBoot s

/-! ### Phase 3 (R530-R534) -/

/-- A physical tile's index from die, column and row. -/
def physIndex (t : Nat × Nat × Nat) : Nat := Config.physPerDie * t.1 + 38 * t.2.1 + t.2.2

/-- A whole list into a list of distinct numbers. -/
def insertAll (l m : List Nat) : List Nat := m.foldl (fun k x => insertNew x k) l

/-- What the tests found of tiles. -/
def State.tileTest (st : State) (r : TestReport) : State :=
  let b := st.chip.boot
  st.setBoot { b with failed := insertAll b.failed (r.badTiles.map physIndex), dmsk := insertAll b.dmsk (r.badDamask.map physIndex) }

/-- Memory after phase 3 (R532-R534). A cold boot tests it, and a recovery boot after Cold writes every GDDR7 line with
zero data: what a program reads there is undefined until it writes (08 R261, 10 R312). After Cold the CXL initialisation
map is cleared; after Warm everything stays. -/
def Mems.afterTest (m : Mems) (recov : Bool) (lvl : Nat) : Mems :=
  let clean : Mems := { m with data := [], zero := [], bad := [], soft := [], rx := [] }
  if !recov then { clean with filled := none }
  else if lvl = 1 then { clean with filled := some [] }
  else m

/-- SELF_TEST in phase 3. A GDDR7 word with one failing bit is accepted and counted (R532). -/
def selfTest (r : TestReport) (st : State) : State :=
  let b := st.chip.boot
  match r.badDie with
  | some d => st.stopBoot 3 d
  | none =>
    match (if b.recov then none else r.badGddr) with
    | some ch => st.stopBoot 4 ch
    | none =>
      let st1 := st.tileTest r
      let n := st1.node
      (({ st1 with node := { n with mems := n.mems.afterTest b.recov st.chip.chr.bootLevel } } : State).setBoot
        { st1.chip.boot with
          cxlBad := !b.recov && !r.badCxl.isEmpty, gddrOne := if b.recov then 0 else r.oneBit }).toPhase 4

/-- Whether an exit from Standby is to run phase `k` (R526), has not stopped on a die fault (R530), and Chrysalis runs (17 R501). -/
def State.exiting (s : State) (k : Nat) : Bool :=
  s.chip.boot.exit_ == k && s.chip.pins.trans == some 0 && s.chip.boot.err == 0 && !s.chip.chr.stopped

/-- SELF_TEST (R530): in phase 3, or in an exit from Standby. -/
def execSelfTest (r : TestReport) (s : State) : Host.Outcome State Fault Refusal :=
  whole (fun st =>
    if st.inPhase 3 then selfTest r st
    else if st.exiting 3 then
      (match r.badDie with
        | some d => st.stopBoot 3 d
        | none => let st1 := st.tileTest r; st1.setBoot { st1.chip.boot with exit_ := 4 })
    else st) s

/-! ### Phase 4 (R535-R539) -/

/-- The starting map and tile states (R536 step 1). -/
def Chip.startGuard (c : Chip) (g : Guard) (recov : Bool) : Guard :=
  let r := c.chr.copyInForce
  match recov, r with
  | true, some m => { g with lmap := m.lmap, backed0 := m.backed0, backed1 := m.backed1, phys := m.phys }
  | _, _ =>
    let fused (p : Map Phys) : Map Phys := (c.fuses.defects ++ c.fuses.field).foldl
      (fun q k => Map.put q k { Map.getD q k .healthy with state := 1 }) p
    let kept : Map Phys := match r with
      | none => []
      | some m => m.phys.filterMap fun kv =>
        if kv.2.state = 2 ∨ kv.2.damask then
          some (kv.1, { Phys.healthy with state := if kv.2.state = 2 then 2 else 0, damask := kv.2.damask }) else none
    { g with lmap := c.fuses.factory, backed0 := Config.ltPerDie, backed1 := Config.ltPerDie, phys := fused kept }

/-- Mark what failed its tests (R536 step 2, R530). -/
def Guard.markFailed (g : Guard) (failed dmsk : List Nat) : Guard :=
  let p1 := failed.foldl (fun q k =>
    let x := Map.getD q k Phys.healthy
    Map.put q k { x with state := if x.state = 0 then 2 else x.state }) g.phys
  let p2 := dmsk.foldl (fun q k => Map.put q k { Map.getD q k Phys.healthy with damask := true }) p1
  { g with phys := Map.mapVals (fun x => { x with chk := 0, turned := true, mism := 0 }) p2 }

/-- Give logical tile `lt` a healthy physical tile, if its own is defective (R536 steps 3 and 4). -/
def Node.rehouse (n : Node) (lt : Nat) : Nat → Node
  | 0 => n
  | k + 1 =>
    if n.backed lt && (n.physTile (n.physOf lt)).state != 0 then
      (match (n.spares (dieOf lt)).head? with
        | some q => { n with guard := { n.guard with lmap := Map.put n.guard.lmap lt q } }
        | none => n.capacityShort lt).rehouse lt k
    else n

/-- Every logical tile in ascending order. -/
def Node.rehouseAll (n : Node) : Node := (List.range Config.ltCount).foldl (fun m lt => m.rehouse lt Config.ltPerDie) n

/-- The spares event of a die (20 R595 code 11): spares low, field list full. -/
def Node.sparesEvent (n : Node) (bitNo d : Nat) : Node := n.event 11 0xFFFF (BitVec.ofNat 64 (2 ^ bitNo + 256 * d))

/-- Blow one tile that the retained map alone records into the field defect list of 48 entries (R535, R536 step 5); its state is then
that of a fused tile (R540), as it is where a list holds it already. -/
def State.blow (s : State) (p : Nat) : State :=
  let f := s.chip.fuses
  let fused (n : Node) : Node := n.setPhys p { n.physTile p with state := 1 }
  if f.field.contains p || f.defects.contains p then { s with node := fused s.node }
  else if f.field.length < 48 then
    { s with
      node := fused s.node
      chip := { s.chip with fuses := { f with field := f.field ++ [p] } } }
  else { s with node := s.node.sparesEvent 1 (physDie p) }

/-- The tiles that the retained map in force records as defective only there. -/
def Chip.onlyRetained (c : Chip) : List Nat :=
  match c.chr.copyInForce with
  | none => []
  | some m => (m.phys.filter fun kv => kv.2.state == 2).map (·.1)

/-- Phase 4. -/
def State.buildMaps (st : State) (recov : Bool) : State :=
  let b := st.chip.boot
  let g := (st.chip.startGuard { st.node.guard with kept := none } recov).markFailed b.failed b.dmsk
  let n := ({ st.node with guard := g }).rehouseAll
  let st1 := st.chip.onlyRetained.foldl State.blow { st with node := n }
  { st1 with node := [0, 1].foldl (fun m d => if (m.spares d).length < 8 then m.sparesEvent 0 d else m) st1.node }

/-- DEFECT_MAP (R536-R539): phase 4, or the same in an exit from Standby, which starts from the retained map. -/
def execDefectMap (s : State) : Host.Outcome State Fault Refusal :=
  whole (fun st =>
    if st.inPhase 4 then
      let st1 := st.buildMaps st.chip.boot.recov
      st1.toPhase (if st.chip.boot.again then 7 else 5)
    else if st.exiting 4 then
      let st1 := st.buildMaps true
      st1.setBoot { st1.chip.boot with exit_ := 7 }
    else st) s

/-! ### Phase 5 (R542) -/

/-- CXL links that train: those reported whose PRSNT_N is low (21 R613). -/
def State.trainedCxl (s : State) (r : TrainReport) : List (Nat × Nat) :=
  r.cxl.filter fun kv => !(Map.getD s.chip.pins.prsntN kv.1 true)

/-- Rm in 256 MiB units (10 R314): the least capacity of the members, at most 2 TiB; none where a member did not train. -/
def rmOf (members : List Nat) (trained : List (Nat × Nat)) (bad : Bool) : Option Nat :=
  if bad ∨ members.isEmpty then none
  else if members.all fun m => trained.any (·.1 == m) then
    (least (members.map fun m => (trained.find? (·.1 == m)).elim 0 (·.2))).map (Nat.min 8192)
  else none

/-- Decoder 0 of member `k` of `ways` (10 R314): programmed and locked. -/
def hdmOf (ways rm k : Nat) : Hdm where
  base := 0
  size := ways * rm * 2 ^ 28
  ways := ways
  granularity := 4096
  position := k
  locked := true

/-- A tier that is not populated: what a link has to say stays, and no decoder is programmed. -/
def Mems.unpopulated (m : Mems) (up : Nat) (link : Map Word) : Mems :=
  { m with cxmCfg := setFld (setFld 0 2 4 up) 0 2 3, link := link, filled := none, hdm := [] }

/-- The tier after training (10 R314, R325, R326): a tier without members or with a member down is unpopulated. -/
def Mems.populate (m : Mems) (members : List Nat) (trained : List (Nat × Nat)) (bad : Bool) : Mems :=
  let up := sumOf (fun t => 2 ^ t.1) trained
  let link (rm : Nat) : Map Word := (List.range 4).map fun l =>
    let old := Map.getD m.link l 0
    (l, if members.contains l then setFld (setFld (setFld 0 16 16 (fld old 16 16)) 2 14 rm) 0 2 (members.idxOf l)
        else setFld 0 16 16 (fld old 16 16))
  let m1 : Mems := { m with linkUp := trained.map (·.1) }
  match rmOf members trained bad with
  | some rm =>
    if rm = 0 then m1.unpopulated up (link 0)
    else
      let limit := Config.cxlBase + members.length * rm * 2 ^ 28 * 25 / 32
      let ways := match members.length with
        | 1 => 0
        | 2 => 1
        | _ => 2
      { m1 with
        cxmCfg := setFld (setFld (setFld 0 6 42 (limit / 64)) 2 4 up) 0 2 ways, link := link rm
        hdm := members.zipIdx.foldl (fun h lk => Map.put h lk.1 (hdmOf members.length rm lk.2)) [] }
  | none => m1.unpopulated up (link 0)

/-- Sub-ports that a port's mode gives it. -/
def Node.subKeys (n : Node) : List Nat := (List.range 8).flatMap fun p => (List.range (subPorts (n.portMode p))).map (4 * p + ·)

/-- Every sub-port after training. -/
def Node.trainSubs (n : Node) (lanes : Map Nat) : Node :=
  n.subKeys.foldl (fun m k =>
    { m with subs := Map.put m.subs k (Sub.down.train (Map.getD lanes k 0) (m.laneWidth (k / 4))) }) { n with subs := [] }

/-- LINK_TRAINING (R542): HELLO starts on every sub-port that is up. -/
def linkTraining (r : TrainReport) (st : State) : State :=
  match r.badGddr with
  | some ch => st.stopBoot 4 ch
  | none =>
    let n := st.node
    let members := match n.cfg with
      | none => []
      | some c => c.cxlMembers
    let n1 : Node := { n with mems := n.mems.populate members (st.trainedCxl r) st.chip.boot.cxlBad }
    let n2 := n1.trainSubs r.lanes
    let n3 := n2.subKeys.foldl (fun m k => if (Map.getD m.subs k .down).up then m.helloOn k else m) n2
    ({ st with node := n3 } : State).toPhase 6

/-- LINK_TRAINING. -/
def execLinkTraining (r : TrainReport) (s : State) : Host.Outcome State Fault Refusal := inPhase 5 (linkTraining r) s

/-! ### Phase 6 (R543, R544) -/

/-- A mismatch: class, sub-port, node, lanes, and whether waiting could still change it. -/
structure Mismatch where
  cls   : Nat
  key   : Nat
  node  : Nat
  lanes : Nat
  open_ : Bool
  deriving DecidableEq, Repr

/-- A sub-port's class 0 and 1 mismatches. -/
def Node.laneMismatch (n : Node) (k : Nat) (c : SubPortCfg) : List Mismatch :=
  let x := Map.getD n.subs k .down
  let mask := x.trained * 2 ^ n.laneBase (k / 4) (k % 4)
  let told := n.told.find? fun t => t.1 == k && t.2.node == c.partner
  if c.role == .unused then []
  else if !x.up then [{ cls := 1, key := k, node := 0, lanes := mask, open_ := false }]
  else if x.lanes < c.lanes ∨ (c.role == .direct ∧ told.any fun t => t.2.lanes != x.lanes) then
    [{ cls := 0, key := k, node := 0, lanes := mask, open_ := false }]
  else []

/-- Whether sub-port `k` trained. -/
def Node.trained (n : Node) (k : Nat) : Bool := (Map.getD n.subs k .down).up

/-- Class 2: the routes to peer `d` on which it is not usable. -/
def Node.peerMismatch (n : Node) (d : Nat) (routes : List Route) : List Mismatch :=
  let lost := !routes.any fun r => n.trained (4 * r.port + r.sub)
  (routes.zipIdx.filter fun ri => !(n.peer d).usable.contains ri.2).map fun ri =>
    { cls := 2, key := 4 * ri.1.port + ri.1.sub, node := d, lanes := 0, open_ := !lost }

/-- Class 3: what a HELLO on sub-port `k` says that the configuration does not expect. -/
def wrongPeer (c : BaseCfg) (k : Nat) (b : HelloBody) : List Mismatch :=
  match Map.look c.subs k with
  | none => []
  | some x =>
    let want := Map.getD c.serials b.node 0
    let direct := x.role == .direct
    if (direct ∧ b.node ≠ x.partner) ∨ (want ≠ 0 ∧ b.serial ≠ want) ∨ b.direct ≠ direct ∨ b.llr ≠ direct then
      [{ cls := 3, key := k, node := if direct then x.partner else b.node, lanes := 0, open_ := false }]
    else []

/-- Classes 4 to 6. -/
def Node.wholeMismatch (n : Node) (c : BaseCfg) : List Mismatch :=
  let none_ (cls node : Nat) (o : Bool) : Mismatch := { cls := cls, key := 0, node := node, lanes := 0, open_ := o }
  let rm := greatest ((List.range 4).map fun l => fld (Map.getD n.mems.link l 0) 2 14)
  let cxl := if c.cxlMembers.isEmpty then [] else
    if fld n.mems.cxmCfg 0 2 = 3 ∨ rm < c.cxlLeastRm then [none_ 4 0 false] else []
  let partner := if c.gngEn && (n.peer c.gngPartner).usable.isEmpty then
    [none_ 5 c.gngPartner ((n.routes c.gngPartner).any fun r => n.trained (4 * r.port + r.sub))] else []
  let cap := if n.guard.backed0 < c.leastBacked.1 ∨ n.guard.backed1 < c.leastBacked.2 then [none_ 6 0 false] else []
  cxl ++ partner ++ cap

/-- Every mismatch, by class, then sub-port or peer (R543). -/
def Node.mismatches (n : Node) : List Mismatch :=
  match n.cfg with
  | none => []
  | some c =>
    let lanes := c.subs.flatMap fun kv => n.laneMismatch kv.1 kv.2
    lanes.filter (·.cls == 0) ++ lanes.filter (·.cls == 1)
      ++ (c.nodes.filter fun kv => kv.1 != c.node).flatMap (fun kv => n.peerMismatch kv.1 kv.2)
      ++ n.told.flatMap (fun t => wrongPeer c t.1 t.2) ++ n.wholeMismatch c

/-- CHR_TOPO's fields for a mismatch. -/
def Mismatch.word (m : Mismatch) (policy : Nat) : Word := topoWord m.cls policy (m.key / 4) (m.key % 4) m.node m.lanes

/-- A mark in a list of them, once. -/
def insertMark (x : Nat × Nat × Nat) (l : List (Nat × Nat × Nat)) : List (Nat × Nat × Nat) := if l.contains x then l else l ++ [x]

/-- Record a mismatch and send its event (R544, R555). -/
def State.noteMismatch (s : State) (m : Mismatch) : State :=
  let w := firstEvt s.chip.boot.topo (m.word (policyOf s.chip.boot.policy m.cls))
  { s with
    node := s.node.event 10 0xFFFF w
    chip := { s.chip with boot := { s.chip.boot with topo := w, noted := insertMark (m.cls, m.key, m.node) s.chip.boot.noted } } }

/-- The mismatches to record at a comparison (R544, R555): while CHR_TOPO holds a record those that have not been recorded, else
every one that stands. -/
def Boot.unnoted (b : Boot) (ms : List Mismatch) : List Mismatch :=
  if bit b.topo 63 then ms.filter fun m => !b.noted.contains (m.cls, m.key, m.node) else ms

/-- Fence a sub-port: it stays up on idle frames and leaves every route (R543). -/
def Node.fenceSub (n : Node) (k : Nat) : Node :=
  ({ n with subs := Map.put n.subs k { Map.getD n.subs k .down with fenced := true } }).routesDown k

/-- Phase 6 ends: the mismatches are recorded, fences carried out, and bring-up goes on unless one refuses (R544). -/
def State.compare (s : State) : State :=
  let ms := s.node.mismatches
  let pol (m : Mismatch) : Nat := policyOf s.chip.boot.policy m.cls
  let s1 := (s.chip.boot.unnoted ms).foldl State.noteMismatch s
  let fenced := (ms.filter fun m => pol m == 1).map (·.key)
  let s2 : State := { s1 with node := fenced.foldl (fun n k => n.fenceSub k) s1.node }
  if ms.any fun m => pol m == 2 then s2.setBoot { s2.chip.boot with err := 5, refused := true }
  else (s2.setBoot { s2.chip.boot with err := 0, refused := false }).toPhase 7

/-- TOPOLOGY_DISCOVERY (R544): no open mismatch remains. -/
def execTopologyDiscovery (s : State) : Host.Outcome State Fault Refusal :=
  inPhase 6 (fun st => if st.node.mismatches.any (·.open_) then st else st.compare) s

/-- TOPO_WAIT_EXPIRY (R544): TOPO_WAIT_MS has passed; a refusing module compares again. -/
def execTopoWaitExpiry (s : State) : Host.Outcome State Fault Refusal :=
  whole (fun st =>
    let b := st.chip.boot
    if st.inPhase 6 || (b.running && b.phase == 6 && b.err == 5 && b.refused && st.chip.chr.held.isNone && !st.chip.chr.stopped) then st.compare
    else st) s

/-! ### Phases 7 and 8 (R546, R547) -/

/-- Tiles that failed their firmware twice: defective, in the retained map, and phases 4 and 7 once more. Where that has
been done, the maps are mended at once (log entry 41). -/
def State.broadcast (st : State) (failed : List (Nat × Nat × Nat)) (done back : State → State) : State :=
  let ps := (failed.map physIndex).filter fun p => (st.node.physTile p).state == 0
  if ps.isEmpty then done st
  else
    let b := st.chip.boot
    let st1 := (st.setBoot { b with failed := insertAll b.failed ps })
    let n := { st1.node with guard := st1.node.guard.markFailed ps [] }
    let st2 := ({ st1 with node := n } : State).retainMap
    if b.again then done { st2 with node := st2.node.rehouseAll }
    else back (st2.setBoot { st2.chip.boot with again := true })

/-- FIRMWARE_BROADCAST (R546): phase 7, or the same in an exit from Standby. -/
def execFirmwareBroadcast (failed : List (Nat × Nat × Nat)) (s : State) : Host.Outcome State Fault Refusal :=
  whole (fun st =>
    let exit_ (k : Nat) (x : State) : State := x.setBoot { x.chip.boot with exit_ := k }
    if st.inPhase 7 then st.broadcast failed (·.toPhase 8) (·.toPhase 4)
    else if st.exiting 7 then st.broadcast failed (exit_ 8) (exit_ 4)
    else st) s

/-- READY (R547, 19 R570, 17 R515): the retained map, the RWL locks, PHASE 8, ALERT_N and PAIR_SYNC, the ready event; the
sequence ends, the security counters rise to the running images' and the module is in Active (17 R514). -/
def ready (st : State) : State :=
  let st1 := st.retainMap
  let c := st1.chip
  let b : Boot := { c.boot with
    phase := 8, running := false, ready := true, locked := true, again := false, failed := [], dmsk := [], exit_ := 0 }
  let st2 : State := { st1 with chip := { c with
    boot := b
    pins := { c.pins with alertN := true, pairOn := true, pstate := 0, trans := none }
    chr := { c.chr with seqOn := false, fromDorm := false, bkpBoots := c.chr.bkpBoots + 1 }
    fuses := { c.fuses with
      fwSvn := Nat.max c.fuses.fwSvn c.sec.fwSvnRun, cfgSvn := Nat.max c.fuses.cfgSvn c.sec.cfgSvnRun } } }
  { st2 with node := ({ st2.node with asleep := false }).event 14 0xFFFF (bootWord b st2.node.fillPending) }

/-- READY. -/
def execReady (s : State) : Host.Outcome State Fault Refusal := inPhase 8 ready s

/-! ### Outputs (17 R515) -/

/-- The level of PAIR_SYNC from ready on (21 R610); high-impedance before. -/
def State.pairSync (s : State) : Option Bool :=
  if s.chip.pins.pairOn then some (bit s.node.gng.cfg 0 && decide (s.node.gng.state ≤ 2)) else none

/-- Whether a reset of Cold or Full, or a stay in Dormant, keeps an interface from its first configured state, phase 5 (17
R507, R515). -/
def State.cutOff (s : State) : Bool :=
  let c := s.chip
  let deep : Bool := (c.chr.seqOn && decide (c.chr.seqLevel ≤ 1)) || c.chr.fromDorm || c.pins.pstate == 3
  !c.pins.domains.contains 64 || (deep && !c.boot.ready && !(c.boot.running && (decide (5 ≤ c.boot.phase) || c.boot.again)))

/-- Whether the optical transmitters are dark (R515): from step 4 of a Cold or Full reset, and with their domains off. -/
def State.opticsDark (s : State) : Bool :=
  s.cutOff || !(s.chip.pins.domains.contains 68 && s.chip.pins.domains.contains 69)

/-- PERST_N of CXL link `l` (21 R613): low from step 4 of a Cold or Full reset to the start of phase 5, and during a Link
reset of the link. -/
def State.perstN (s : State) (l : Nat) : Bool := !s.cutOff && !s.chip.chr.targets.contains (14, l)

/-- What the GDDR7 devices are in (R507, R515, 10 R311): held in reset (0), in self-refresh (1), or running (2). -/
def State.gddrDevices (s : State) : Nat :=
  if s.cutOff then 0
  else if s.chip.chr.held.isSome || s.chip.pins.pstate == 2 || !(s.chip.boot.ready || decide (5 ≤ s.chip.boot.phase) || s.chip.boot.again) then 1 else 2

/-- What the lanes of CXL link `l` carry (R515): electrical idle (0), training (1), or a link that is up, with idle flits while a
reset holds the module (2). -/
def State.cxlLanes (s : State) (l : Nat) : Nat := if s.cutOff then 0 else if s.node.mems.linkUp.contains l then 2 else 1

/-- ALERT_N, open-drain (R515): low (`some false`) or not driven; nothing is before the always-on clock first runs. -/
def State.alertPin (s : State) : Option Bool := if s.chip.chr.ran && !s.chip.pins.alertN then some false else none

/-- THERM_N, open-drain (R515, 15 R467). -/
def State.thermPin (s : State) : Option Bool := if s.chip.chr.ran && !s.chip.pins.thermN then some false else none

/-- UART_TX idles high before phase 2 and through every reset (R515). The spec gives the console no text. -/
def State.uartTx (s : State) : Option Bool := if s.chip.chr.ran then some true else none

/-- TDO is driven only while the test access port shifts, which no command of the table does (R515). -/
def State.tdo (_ : State) : Option Bool := none

/-- What the I3C target does (R515, 19 R557): nothing, high-impedance (0); keeps its dynamic address and acknowledges no private
transfer (1); is served (2). A Warm reset alone leaves it its address. -/
def State.i3cTarget (s : State) : Nat :=
  let c := s.chip
  if !c.chr.ran then 0
  else if (s.node.on || (c.pins.pstate == 3 && !c.boot.running)) && c.chr.held.isNone && !c.chr.stopped then 2
  else if c.chr.seqOn && c.chr.seqLevel == 2 then 1 else 0

/-- The pins that the boundary-scan register covers and whose level the model holds (21 R609): the inputs RESET_N and PWR_OK; the
outputs ALERT_N, THERM_N, UART_TX, PAIR_SYNC and the four PERST_N, which EXTEST drives from the register; the four PRSNT_N. -/
def State.pads (s : State) : List (Option Bool) :=
  let own := [s.alertPin, s.thermPin, s.uartTx, s.pairSync] ++ (List.range 4).map fun l => some (s.perstN l)
  let outs := if !s.chip.sec.tapReset && s.chip.sec.tapInstr == 3 then (span 2 8).map fun i => s.chip.sec.scan.getD i none else own
  [some s.chip.pins.resetN, some s.chip.pins.pwrOk] ++ outs ++ (List.range 4).map fun l => some (Map.getD s.chip.pins.prsntN l true)

end Sys2Proof.Machine
end

