-- ==== Sys2Proof/Machine/Matrix.lean ====
section
/-! DEFINITION. The matrix queue and its units (05 R153-R172, 04 R147-R149): allocation, status, accumulation, exact
records, readout, debug access, and Ermine's checks (14 R432-R438). -/
namespace Sys2Proof.Machine

/-! ### The queue (R154, R158, R159) -/

/-- Whether an entry is an M instruction: debug accesses are ordered with them and take no place (04 R149). -/
def MEntry.counts (e : MEntry) : Bool :=
  match e.op with
  | .dbgrd .. | .dbgwr .. | .fdbg .. => false
  | _ => true

/-- Whether thread `i` holds four entries (R154). -/
def Tile.queueFull (t : Tile) (i : Nat) : Bool := decide (4 ≤ (t.queue.filter fun e => e.thr == i && e.counts).length)

/-- Put an instruction of the issuing thread into the queue; the thread then waits as `w` says. -/
def Node.enqueue (n : Node) (x : Site) (f : Nat) (op : MOp) (w : Wait) : Node :=
  let pc := (n.thread x.tile x.thr).pc
  let n1 := n.modTile x.tile fun t =>
    { t with queue := t.queue ++ [{ op := op, f := f, thr := x.thr, pc := pc, id := t.opSeq }], opSeq := t.opSeq + 1 }
  n1.modThread x.tile x.thr fun th => { th.step with wait := w }

/-- Whether an entry must wait for an earlier one that names its array (R84, R154). -/
def Tile.behind (t : Tile) (e : MEntry) : Bool := t.queue.any fun q => q.f == e.f && decide (q.id < e.id)

/-- Remove an entry from the queue. -/
def Tile.retire (t : Tile) (e : MEntry) : Tile := { t with queue := t.queue.filter fun q => q.id != e.id }

/-- Whether an entry takes effect by itself when its turn at the array comes: a release or a debug instruction. An access
of the debug window takes effect by FDBG_ACCESS_COMPLETE. -/
def MEntry.atOnce (e : MEntry) : Bool :=
  match e.op with
  | .ffree | .dbgrd .. | .dbgwr .. => true
  | _ => false

/-- A release or a debug access on tile key `t` takes effect. A window write takes ERM_FDBG_DATA as it stands then; whether the value at
GO counts, 07 R244 does not say (DESIGN CHOICE, log entry 98). -/
def Node.runAtOnce (n : Node) (t : Nat) (e : MEntry) : Node :=
  let a := (n.tile t).arr e.f
  match e.op with
  | .ffree => n.modTile t fun x => x.setArr e.f .released
  | .dbgrd rd i j c => n.modThread t e.thr fun th => th.setS rd (a.chunk (32 * i + j) c)
  | .dbgwr v i j c => n.modTile t fun x => x.setArr e.f (a.setChunk (32 * i + j) c v)
  | .fdbg k c wr =>
    let n1 : Node := { n with fdbgCtl := setFld n.fdbgCtl 1 3 2 }
    if wr then n1.modTile t fun x => x.setArr e.f (a.setChunk k c n.fdbgData)
    else { n1 with fdbgData := a.chunk k c }
  | _ => n

/-- Everything in the queue of tile key `t` whose turn has come and that takes effect by itself. -/
def Node.drain (n : Node) (t : Nat) : Nat → Node
  | 0 => n
  | fuel + 1 =>
    let x := n.tile t
    match x.queue.find? fun e => e.atOnce && !x.behind e with
    | none => n
    | some e => ((n.runAtOnce t e).modTile t (·.retire e)).drain t fuel

/-- What follows whenever the queue of a tile changed: releases and debug accesses, then the threads that wait on
registers, arrays and bounds look again. -/
def Node.requeue (n : Node) (t : Nat) : Node := (n.drain t (n.tile t).queue.length).modTile t (·.wake)

/-- An M instruction issues (R154, R167): illegal where its array is not allocated, or strict where it must not be; it
waits while its thread holds four entries. -/
def Node.issueM (n : Node) (x : Site) (f : Fin 2) (bad noStrict : Bool) (go : Node → Node) : Node :=
  let wrong (m : Node) : Bool :=
    let a := (m.tile x.tile).arr f
    !a.alloc || (noStrict && a.strict)
  n.issueAt x 1 bad (fun m => if !wrong m && (m.tile x.tile).queueFull x.thr then some .reg else none)
    fun m => if wrong m then m.illegal x else (go m).requeue x.tile

/-- FALLOC (R158, 03 R95): waits while the array is allocated or its release has yet to take effect, and not for a place in the
queue (DESIGN CHOICE, log entry 95). -/
def execFalloc (x : Site) (f : Fin 2) (strict : Bool) (s : State) : Host.Outcome State Fault Refusal :=
  lift (fun n => n.issueAt x 1 false
    (fun m => let a := (m.tile x.tile).arr f; if a.alloc || a.held then some (.felt f) else none)
    fun m => (m.modTile x.tile fun t =>
      t.setArr f { Felt.released with alloc := true, held := true, strict := strict }).advance x) s

/-- FFREE (R158): later instructions find the array not allocated at once; the release takes effect in issue order. -/
def execFfree (x : Site) (f : Fin 2) (s : State) : Host.Outcome State Fault Refusal :=
  lift (fun n => n.issueM x f false false fun m =>
    (m.modTile x.tile fun t => t.setArr f { t.arr f with alloc := false }).enqueue x f .ffree .ready) s

/-- A status instruction waits for every earlier instruction that names the array (R159). It takes no entry, and issues although its
thread holds four (R154 calls it an M instruction and does not say: DESIGN CHOICE, log entry 95). -/
def Node.issueStatus (n : Node) (x : Site) (f : Fin 2) (bad : Bool) (go : Felt → Thread → Thread) : Node :=
  n.issueAt x 1 bad
    (fun m => let t := m.tile x.tile
              if (t.arr f).alloc && t.queue.any (·.f == f.val) then some .reg else none)
    fun m =>
      let a := (m.tile x.tile).arr f
      if !a.alloc then m.illegal x else m.modThread x.tile x.thr fun th => (go a th).step

/-- FSTAT (R159, 07 R238). -/
def execFstat (x : Site) (f : Fin 2) (pd : Fin 8) (sel : BitVec 4) (s : State) : Host.Outcome State Fault Refusal :=
  lift (fun n => n.issueStatus x f (decide (3 ≤ sel.toNat)) fun a th => th.setP pd (match sel.toNat with
    | 0 => a.anySpecial
    | 1 => !a.strict && a.inv.isSome
    | _ => !a.strict && a.sat)) s

/-- FINV (R160, 07 R238): the invalid-operation record; zero where none is held. -/
def execFinv (x : Site) (f : Fin 2) (rd : Fin 32) (sel : BitVec 4) (s : State) : Host.Outcome State Fault Refusal :=
  lift (fun n => n.issueStatus x f (decide (4 ≤ sel.toNat)) fun a th => th.setS rd (BitVec.ofNat 64
    (match (if a.strict then none else a.inv), sel.toNat with
      | none, _ => 0
      | some _, 0 => 1
      | some r, 1 => r.k
      | some r, 2 => r.i
      | some r, _ => r.j))) s

/-- FSUMR (R161). -/
def execFsumr (x : Site) (f : Fin 2) (s : State) : Host.Outcome State Fault Refusal :=
  lift (fun n => n.issueM x f false true fun m => m.enqueue x f .fsumr .ready) s

/-- MMA or MMAN at its issue (R162): bindings and registers are taken now. -/
def issueMma (neg : Bool) (x : Site) (f : Fin 2) (aa ab : Fin 8) (rk rij : Fin 32) (n : Node) : Node :=
  n.issueM x f false false fun m =>
    let th := m.thread x.tile x.thr
    m.enqueue x f (.mma neg (m.handle x aa) (m.handle x ab) (th.getS rk) (th.getS rij)) .ready

/-- MMA (R162). -/
def execMma (x : Site) (f : Fin 2) (aa ab : Fin 8) (rk rij : Fin 32) (s : State) : Host.Outcome State Fault Refusal :=
  lift (issueMma false x f aa ab rk rij) s

/-- MMAN (R162). -/
def execMman (x : Site) (f : Fin 2) (aa ab : Fin 8) (rk rij : Fin 32) (s : State) : Host.Outcome State Fault Refusal :=
  lift (issueMma true x f aa ab rk rij) s

/-- FSSQ (R166). -/
def execFssq (x : Site) (f : Fin 2) (ab : Fin 8) (rk rij : Fin 32) (s : State) : Host.Outcome State Fault Refusal :=
  lift (fun n => n.issueM x f false true fun m =>
    let th := m.thread x.tile x.thr
    m.enqueue x f (.fssq (m.handle x ab) (th.getS rk) (th.getS rij)) .ready) s

/-- Bytes of an array's exact records (R171). -/
def recordBytes : Nat := 98336

/-- The wait of a thread after a readout: a held readout waits for its check (14 R434). -/
def Tile.readoutWait (t : Tile) (i : Nat) : Wait := if t.heldReads.contains (i, (t.thread i).pc) then .check else .ready

/-- FLDX or FRDX at its issue: a region that leaves the SRAM is out of range (R171, R172). -/
def issueX (x : Site) (f : Fin 2) (ra : Fin 32) (op : Nat → MOp) (readout : Bool) (n : Node) : Node :=
  n.issueM x f false true fun m =>
    let off := fld ((m.thread x.tile x.thr).getS ra) 0 19
    if Config.sramBytes < off + recordBytes then m.outOfRange x (sramAddr (ltOf x.tile) Config.sramBytes)
    else m.enqueue x f (op off) (if readout then (m.tile x.tile).readoutWait x.thr else .ready)

/-- FLDX (R172). -/
def execFldx (x : Site) (f : Fin 2) (ra : Fin 32) (s : State) : Host.Outcome State Fault Refusal :=
  lift (issueX x f ra .fldx false) s

/-- FRDX (R171). -/
def execFrdx (x : Site) (f : Fin 2) (clr : Bool) (ra : Fin 32) (s : State) : Host.Outcome State Fault Refusal :=
  lift (issueX x f ra (fun o => .frdx o clr) true) s

/-- FRD (R168): RM 6 and 7 are reserved, and SR is unless the destination format is a block format. The format is that of the
descriptor the handle is bound to as the instruction issues; a false predicate, or a handle without a descriptor, leaves SR
unjudged (DESIGN CHOICE, log entry 70). -/
def execFrd (x : Site) (f : Fin 2) (ad : Fin 8) (rm : BitVec 3) (ov sr clr : Bool) (rij : Fin 32) (s : State) :
    Host.Outcome State Fault Refusal :=
  lift (fun n =>
    let d := (n.handle x ad).bind (n.tile x.tile).descAt
    let srBad : Bool := sr && (match d with
      | none => false
      | some d => (elemOf d.side0.fmt).isSome && !isBlock d.side0.fmt)
    n.issueM x f (decide (6 ≤ rm.toNat)) false fun m =>
      if srBad then m.illegal x
      else
        let th := m.thread x.tile x.thr
        m.enqueue x f (.frd (m.handle x ad) rm.toNat ov sr clr (th.getS rij)) ((m.tile x.tile).readoutWait x.thr)) s

/-! ### What an entry reads and writes in SRAM (R155, 07 R227) -/

/-- Extents that an engine instruction reads. -/
def Tile.opReads (t : Tile) (lt : Nat) (op : MOp) : List (Int × Int) :=
  let ext (h : Option Nat) : List (Int × Int) := match h.bind t.descAt with
    | none => []
    | some d => d.extents (d.read0 0)
  match op with
  | .mma _ a b _ _ => ext a ++ ext b
  | .fssq b _ _ => ext b
  | .fldx o => [((sramAddr lt o : Int), (sramAddr lt (o + recordBytes) : Int) - 1)]
  | _ => []

/-- Extents that a readout writes. -/
def Tile.opWrites (t : Tile) (lt : Nat) (op : MOp) : List (Int × Int) :=
  match op with
  | .frd h _ _ _ _ _ => match h.bind t.descAt with
    | none => []
    | some d => d.extents (d.read0 0)
  | .frdx o _ => [((sramAddr lt o : Int), (sramAddr lt (o + recordBytes) : Int) - 1)]
  | _ => []

/-- Whether an entry must wait for an earlier one because one writes what the other reads. -/
def Tile.conflicts (t : Tile) (lt : Nat) (e : MEntry) : Bool :=
  let meet (a b : List (Int × Int)) : Bool := a.any fun r => b.any (overlap r)
  t.queue.any fun q => decide (q.id < e.id) &&
    (meet (t.opReads lt e.op) (t.opWrites lt q.op) || meet (t.opWrites lt e.op) (t.opReads lt q.op))

/-! ### The matrix engine -/

/-- Values of an operand: `cnt` rows from `k0`, 32 positions from `q0`. -/
def Node.rows (n : Node) (t : Nat) (d : Desc) (k0 cnt q0 : Nat) : Rows :=
  (span k0 cnt).map fun k => (span q0 32).map fun q => n.operand t d k q

/-- The word numbers that the elements of an operand range lie in. -/
def Desc.rangeWords (d : Desc) (k0 cnt q0 : Nat) : List Nat :=
  let s := d.read0 0
  (span k0 cnt).flatMap fun k => (span q0 32).flatMap fun q =>
    if k < d.psize d.side0 0 ∧ q < d.psize d.side0 1 then
      let b := s.bitOf (s.line (logical d.side0.order [k, q]))
      wordsOf (b / 8).toNat (((b % 8).toNat + s.width + 7) / 8) ++ (match s.scaleOf (s.line (logical d.side0.order [k, q])) with
        | none => []
        | some a => wordsOf a.toNat 1)
    else []

/-- Words of its SRAM that a unit of a tile reads: one that is uncorrectable is an event (10 R320). -/
def Node.touchWords (n : Node) (t : Nat) (ws : List Nat) : Node :=
  match n.readWords false t ws with
  | (none, m) => m
  | (some w, m) => m.uncorrectable t 0 (w * 8)

/-- Whether an operand is of the reversed or the transposed class (08 R263). -/
def Desc.turned (d : Desc) : Bool :=
  let st (i : Nat) : Int := d.side0.strides.getD i 0
  match d.side0.order.find? fun i => decide (1 < d.sizes.getD i 1) && st i != 0 with
  | none => false
  | some i => st i == -1 || (st i != 1 && (List.range 5).any fun j =>
      j != i && decide (1 < d.sizes.getD j 1) && (st j == 1 || st j == -1))

/-- Whether a pair may be multiplied over a range (R163), and the products to an entry (07 R218). -/
def pairGroup (a b : Side) (k0 cnt : Nat) : Option Nat :=
  if isBlock a.fmt != isBlock b.fmt then none
  else if isBlock a.fmt then
    let n := blockElems a.bsz
    if n = blockElems b.bsz ∧ k0 % n = 0 ∧ cnt % n = 0 then some n else none
  else some (if a.fmt = 6 ∧ b.fmt = 6 then 2 else 1)

/-- A descriptor-invalid fault of a queued instruction. -/
def Node.queueFault (n : Node) (t : Nat) (e : MEntry) (idx : Option Nat) : Node :=
  n.takeFree.takeFault t e.thr 3 e.pc (n.descDetail idx) 0

/-- Put an array back and set the flags that its instruction marks. -/
def Node.putMarked (n : Node) (t f : Nat) (r : Felt × Marks) : Node :=
  n.modTile t fun x => (((x.setArr f r.1).flagIf r.2.sat 0).flagIf r.2.inv 1).flagIf r.2.spill 2

/-- The descriptor that a handle bound at issue names, if it is fit for a use. -/
def Tile.fit (t : Tile) (u : Use) (lt : Nat) (h : Option Nat) : Option Desc :=
  match h.bind t.descAt with
  | none => none
  | some d => if d.operandBad u lt then none else some d

/-- MMA or MMAN executes. -/
def Node.runMma (n : Node) (t : Nat) (e : MEntry) (neg : Bool) (ha hb : Option Nat) (rk rij : Word) : Node :=
  let x := n.tile t
  let lt := ltOf t
  let k0 := fld rk 0 32
  let cnt := fld rk 32 32
  let i0 := fld rij 0 32
  let j0 := fld rij 32 32
  match x.fit .operand lt ha, x.fit .operand lt hb with
  | none, _ => n.queueFault t e ha
  | some _, none => n.queueFault t e hb
  | some da, some db =>
    match pairGroup da.side0 db.side0 k0 cnt with
    | none => n.queueFault t e hb
    | some g =>
      let a := x.arr e.f
      let ra := n.rows t da k0 cnt i0
      let rb := n.rows t db k0 cnt j0
      let recs (i j : Nat) : List InvRec := (span k0 cnt).map fun k =>
        ⟨da.pglobal da.side0 0 k, da.pglobal da.side0 1 (i0 + i), db.pglobal db.side0 1 (j0 + j)⟩
      let b : Felt := { a with turned := a.turned || da.turned || db.turned }
      let r : Felt × Marks := if a.strict then (b.strictMma neg ra rb, ⟨false, false, false⟩) else b.mma neg g ra rb recs
      ((n.touchWords t (da.rangeWords k0 cnt i0 ++ db.rangeWords k0 cnt j0)).putMarked t e.f r).takeFree

/-- FSSQ executes. -/
def Node.runFssq (n : Node) (t : Nat) (e : MEntry) (hb : Option Nat) (rk rij : Word) : Node :=
  let x := n.tile t
  let k0 := fld rk 0 32
  let cnt := fld rk 32 32
  let j0 := fld rij 32 32
  match x.fit .operand (ltOf t) hb with
  | none => n.queueFault t e hb
  | some d =>
    match pairGroup d.side0 d.side0 k0 cnt with
    | none => n.queueFault t e hb
    | some g =>
      let a := x.arr e.f
      let b : Felt := { a with turned := a.turned || d.turned }
      let one := if isBlock d.side0.fmt then g else 1
      ((n.touchWords t (d.rangeWords k0 cnt j0)).putMarked t e.f (b.fssq one (n.rows t d k0 cnt j0))).takeFree

/-- Whether a queued instruction uses a descriptor that its store cannot give. -/
def Tile.opHurt (x : Tile) (op : MOp) : Bool :=
  let h (i : Option Nat) : Bool := i.any x.descHurt
  match op with
  | .mma _ a b _ _ => h a || h b
  | .fssq b _ _ => h b
  | .frd d _ _ _ _ _ => h d
  | _ => false

/-- An engine instruction executes; one whose descriptor is uncorrectable has no effect but the event (10 R320). -/
def Node.runEngine (n : Node) (t : Nat) (e : MEntry) : Node :=
  if (n.tile t).opHurt e.op then n.innerBad t else
  match e.op with
  | .mma neg a b rk rij => n.runMma t e neg a b rk rij
  | .fssq b rk rij => n.runFssq t e b rk rij
  | .fsumr => n.putMarked t e.f ((n.tile t).arr e.f).fsumr
  | .fldx o =>
    let a := sramAddr (ltOf t) o
    ((n.touchWords t (wordsOf a recordBytes)).putMarked t e.f (((n.tile t).arr e.f).fldx (n.rdBytes t a recordBytes))).takeFree
  | _ => n

/-- Whether an entry is of the matrix engine. -/
def MEntry.engine (e : MEntry) : Bool :=
  match e.op with
  | .mma .. | .fssq .. | .fsumr | .fldx .. => true
  | _ => false

/-- Whether an entry is of the readout unit. -/
def MEntry.readout (e : MEntry) : Bool :=
  match e.op with
  | .frd .. | .frdx .. => true
  | _ => false

/-- MATRIX_RETIRE (R154-R156): the oldest engine instruction, if it may run and the tile's group is not gated (02 R39),
executes and retires. -/
def execMatrixRetire (tile : Nat) (s : State) : Host.Outcome State Fault Refusal :=
  lift (fun n =>
    let x := n.tile tile
    match x.queue.find? (·.engine) with
    | none => n
    | some e => if !n.running tile || x.behind e || x.conflicts (ltOf tile) e then n
                else ((n.runEngine tile e).modTile tile (·.retire e)).requeue tile) s

/-! ### The readout unit (R168-R171) -/

/-- Count a readout that Ermine does not check (14 R433, R454). -/
def Node.countUnchecked (n : Node) : Node :=
  let c := fld n.guard.chkCfg 8 32
  { n with guard := { n.guard with chkCfg := if c = 2 ^ 32 - 1 then n.guard.chkCfg else setFld n.guard.chkCfg 8 32 (c + 1) } }

/-- A thread that waits for the check of its held readout at `pc`, the instruction before the one it stands at, becomes ready
(14 R434). -/
def Node.checkDone (n : Node) (t i pc : Nat) : Node :=
  n.modThread t i fun th => { th with wait := if th.wait = .check ∧ th.pc = (pc + 1) % 4096 then .ready else th.wait }

/-- Hand a readout of array `a` to Ermine (14 R432, R433). -/
def Node.handCheck (n : Node) (t : Nat) (e : MEntry) (a : Felt) : Node :=
  if a.unchecked then n.countUnchecked.checkDone t e.thr e.pc
  else n.modTile t fun x =>
    { x with checks := x.checks ++ [{ f := e.f, thr := e.thr, pc := e.pc, bad := a.badColumn, turned := a.turned }] }

/-- The cells of a readout in the order in which they are written: ascending linear logical index (R168). -/
def cellOrder (s : Side) : List (Nat × Nat) :=
  let jFirst := decide (s.order.getD 0 0 < s.order.getD 1 1)
  (List.range 1024).map fun c => if jFirst then (c / 32, c % 32) else (c % 32, c / 32)

/-- A readout's result: element writes in order, and the flags ROVF and VINV. -/
structure ReadoutRes where
  es  : List EWrite
  ovf : Bool
  inv : Bool
  deriving DecidableEq, Repr

/-- One run of `n` cells of row `i` from column `j` of the array, written in the format of the descriptor: the codes, the
scale byte of a block, and the flags. -/
def Node.readoutRun (n : Node) (d : Desc) (t : Elem) (a : Felt) (rm : Nat) (ov sr : Bool) (i0 j0 i j cnt : Nat) :
    List Nat × Option Nat × Bool × Bool :=
  let u (k : Nat) : Nat := (srHash n.job.seed n.stepCount (BitVec.ofNat 32 d.tensor)
    (BitVec.ofNat 64 (d.gindex (logical d.side0.order [j0 + k, i0 + i])))).toNat
  let ks := span j cnt
  if isBlock d.side0.fmt then
    let r := encodeBlock t rm ov sr (ks.map u) (ks.map fun k => a.result (32 * i + k))
    (r.2.1, some r.1, r.2.2, false)
  else
    let es := ks.map fun k => t.encode rm ov (u k) (a.result (32 * i + k))
    (es.map (·.bits), none, es.any (·.ovf), es.any (·.inv))

/-- Everything that FRD writes. -/
def Node.readoutOf (n : Node) (d : Desc) (t : Elem) (a : Felt) (rm : Nat) (ov sr : Bool) (i0 j0 : Nat) : ReadoutRes :=
  let s := d.read0 0
  let blk := if isBlock d.side0.fmt then blockElems d.side0.bsz else 1
  let inside (i j : Nat) : Bool := decide (j0 + j < d.psize d.side0 0 ∧ i0 + i < d.psize d.side0 1)
  let runs := ((List.range 32).flatMap fun i => (List.range (32 / blk)).map fun q => (i, q * blk)).filter fun r => inside r.1 r.2
  let done := runs.map fun r => (r, n.readoutRun d t a rm ov sr i0 j0 r.1 r.2 blk)
  let line (i j : Nat) : Int := s.line (logical d.side0.order [j0 + j, i0 + i])
  let one (ij : Nat × Nat) : List EWrite :=
    match done.find? fun q => q.1.1 == ij.1 && decide (q.1.2 ≤ ij.2 ∧ ij.2 < q.1.2 + blk) with
    | none => []
    | some q =>
      let l := line ij.1 ij.2
      let e : EWrite := { bit := (s.bitOf l).toNat, w := t.width, v := q.2.1.getD (ij.2 - q.1.2) 0, poison := false }
      match s.scaleOf l, q.2.2.1 with
      | some a, some sc => if ij.2 = q.1.2 then [e, { bit := 8 * a.toNat, w := 8, v := sc, poison := false }] else [e]
      | _, _ => [e]
  { es := (cellOrder d.side0).flatMap one, ovf := done.any fun q => q.2.2.2.1, inv := done.any fun q => q.2.2.2.2 }

/-- FRD executes. A NaN cell read to an integer format sets VINV, as 06 R206 has it of every conversion, though R186 lists ROVF alone
(DESIGN CHOICE, log entry 96). -/
def Node.runFrd (n : Node) (t : Nat) (e : MEntry) (h : Option Nat) (rm : Nat) (ov sr clr : Bool) (rij : Word) : Node :=
  let x := n.tile t
  let i0 := fld rij 0 32
  let j0 := fld rij 32 32
  match x.fit .readout (ltOf t) h with
  | none => n.queueFault t e h
  | some d =>
    match elemOf d.side0.fmt with
    | none => n.queueFault t e h
    | some el =>
      if isBlock d.side0.fmt && j0 % blockElems d.side0.bsz != 0 then n.queueFault t e h
      else
        let a := x.arr e.f
        let r := n.readoutOf d el a rm ov sr i0 j0
        let n1 := n.handCheck t e a
        let n2 := n1.land t r.es
        let n3 := n2.digest t (n2.landDigest t r.es)
        (n3.modTile t fun y =>
          ((if clr then y.setArr e.f (y.arr e.f).cleared else y).flagIf r.ovf 5).flagIf r.inv 4).takeFree

/-- A readout executes; one whose descriptor is uncorrectable has no effect but the event (10 R320). -/
def Node.runReadout (n : Node) (t : Nat) (e : MEntry) : Node :=
  if (n.tile t).opHurt e.op then n.innerBad t else
  match e.op with
  | .frd h rm ov sr clr rij => n.runFrd t e h rm ov sr clr rij
  | .frdx o clr =>
    let a := (n.tile t).arr e.f
    let n1 := (n.handCheck t e a).tileStore t (sramAddr (ltOf t) o) a.records
    if clr then n1.modTile t fun y => y.setArr e.f (y.arr e.f).cleared else n1
  | _ => n

/-- Threads that waited for their last store, readouts among them, become ready (04 R129, 05 R155). -/
def Tile.fenceWake (t : Tile) : Tile :=
  { t with thr := t.thr.map fun kv => (kv.1,
      if kv.2.wait = .stores ∧ kv.2.stores.isEmpty ∧ t.readoutOf kv.1 = false then { kv.2 with wait := .ready } else kv.2) }

/-- READOUT_RETIRE (R154, R168, 14 R427): the oldest readout, if it may run and the tile's group is not gated (02 R39),
executes and retires. `upset` flips a bit of
a cell of its array first: cell row, column and bit. -/
def execReadoutRetire (tile : Nat) (upset : Option (Fin 32 × Fin 32 × Nat)) (s : State) :
    Host.Outcome State Fault Refusal :=
  lift (fun n =>
    let x := n.tile tile
    match x.queue.find? (·.readout) with
    | none => n
    | some e =>
      if !n.running tile || x.behind e || x.conflicts (ltOf tile) e then n
      else
        let n1 : Node := match upset with
          | none => n
          | some (i, j, b) => n.modTile tile fun y => y.setArr e.f ((y.arr e.f).flip (32 * i.val + j.val) b)
        ((((n1.runReadout tile e).modTile tile (·.retire e)).modTile tile (·.fenceWake)).requeue tile).pushTokens) s

/-! ### Debug access (04 R147-R149) -/

/-- DBGRD or DBGWR at its issue: class 5 while debug mode is off, illegal on an array not allocated. -/
def issueDbg (x : Site) (f : Fin 2) (chunk : BitVec 4) (w : Wait) (op : Thread → MOp) (n : Node) : Node :=
  n.issueAt x 1 (decide (11 ≤ chunk.toNat)) noWait fun m =>
    let t := m.tile x.tile
    let th := t.thread x.thr
    if !(t.arr f).alloc then m.illegal x
    else if !t.dbgEn then m.takeFault x.tile x.thr 5 th.pc 0 0
    else (m.enqueue x f (op th) w).requeue x.tile

/-- DBGRD: rd is written in the order of the array's instructions; the thread waits for it. -/
def execDbgrd (x : Site) (rd : Fin 32) (f : Fin 2) (i j : Fin 32) (chunk : BitVec 4) (s : State) :
    Host.Outcome State Fault Refusal :=
  lift (issueDbg x f chunk .reg fun _ => .dbgrd rd i j chunk.toNat) s

/-- DBGWR. -/
def execDbgwr (x : Site) (rs : Fin 32) (f : Fin 2) (i j : Fin 32) (chunk : BitVec 4) (s : State) :
    Host.Outcome State Fault Refusal :=
  lift (issueDbg x f chunk .ready fun th => .dbgwr (th.getS rs) i j chunk.toNat) s

/-! ### Ermine's checks (14 R434, R435, R438) -/

/-- A check failure counts against the physical tile of tile key `t` (R438): a second one marks its Damask unit faulty, or
fences it; a spare that shadows leaves that duty with its fence (R439 step 4). The retained map takes both (18 R538). -/
def Node.countFailure (n : Node) (t : Nat) (turned : Bool) : Node :=
  let lt := ltOf t
  let p := n.physOfKey t
  let x := n.physTile p
  let y : Phys := { x with chk := x.chk + 1, turned := x.turned && turned }
  if y.chk < 2 then n.setPhys p y
  else if !(x.damask || (n.tile t).force) && y.turned then
    (({ n with retain := true } : Node).setPhys p { y with damask := true, chk := 1 }).chkEvent 3 lt 0 0 p 0 0
  else if isShadow t then (n.setPhys p y).fenceShadow lt p
  else (n.setPhys p y).fence lt

/-- A check that failed (R435): tainted verdict, record and event, RETRACT tokens, the count. -/
def Node.checkFailed (n : Node) (t : Nat) (c : Check) (col : Nat) : Node :=
  if isShadow t then (n.modTile t fun x => { x with tainted := true }).countFailure t c.turned
  else
    let n1 := (n.taintTile t).chkEvent 1 t c.f col (n.physOf t) c.thr c.pc
    let n2 := n1.noteEvt 2 t (BitVec.ofNat 64 col) 0
    (n2.sendRetracts t 0 true).countFailure t c.turned

/-- ERMINE_CHECK (R432, R434): the oldest waiting check of the tile completes, unless its group is gated (02 R39). -/
def execErmineCheck (tile : Nat) (s : State) : Host.Outcome State Fault Refusal :=
  lift (fun n =>
    match (n.tile tile).checks with
    | [] => n
    | c :: rest =>
      if !n.running tile then n else
      let n1 := (n.modTile tile fun x => { x with checks := rest }).checkDone tile c.thr c.pc
      match c.bad with
      | none => n1
      | some col => n1.checkFailed tile c col) s

end Sys2Proof.Machine
end

