-- ==== Sys2Proof/Machine/Keys.lean ====
section
/-! DEFINITION. The keys that the SEC block derives from its unique device secret, and the slot-0 certificate chain (19 R573,
R574). -/
namespace Sys2Proof.Machine

/-- HMAC-SHA-384 (FIPS 198-1) with a key of at most 128 bytes. -/
def hmac384 (key m : List Byte) : List Byte :=
  let k := key ++ List.replicate (128 - key.length) 0
  sha384Bytes (k.map (· ^^^ 0x5C) ++ sha384Bytes (k.map (· ^^^ 0x36) ++ m))

/-- A digest as bytes, its first byte highest. -/
def digestBytes (d : BitVec 384) : List Byte := beBytes d.toNat 48

/-- A private scalar (R573): the first 448 bits of two HMACs, most significant first (DEDUCED, log entry 110), reduced to 1 to n - 1. -/
def scalarFrom (uds : BitVec 384) (m : List Byte) : Nat :=
  let s := (hmac384 (digestBytes uds) (m ++ [1]) ++ hmac384 (digestBytes uds) (m ++ [2])).take 56
  leNat s.reverse % (p384N - 1) + 1

/-- "QJ1-DEVID" -/
def devidLabel : List Byte := [0x51, 0x4A, 0x31, 0x2D, 0x44, 0x45, 0x56, 0x49, 0x44]
/-- "QJ1-ALIAS" -/
def aliasLabel : List Byte := [0x51, 0x4A, 0x31, 0x2D, 0x41, 0x4C, 0x49, 0x41, 0x53]

/-- The private scalar of the device identity key (R573). -/
def Fuses.deviceScalar (f : Fuses) : Nat := scalarFrom f.uds devidLabel

/-- The private scalar of the alias key (R574), derived in the same way from measurement blocks 2 and 5. -/
def aliasScalar (f : Fuses) (meas : List (BitVec 384)) : Nat :=
  scalarFrom f.uds (aliasLabel ++ digestBytes (meas.getD 1 0) ++ digestBytes (meas.getD 4 0))

/-- The public key of a private scalar as bytes, x then y, the most significant first. -/
def publicKey (d : Nat) : List Byte := beBytes (ecPublic d) 96

/-- The alias certificate (R574): it carries blocks 1 to 5, signed with the device identity key. -/
def aliasCert (f : Fuses) (meas : List (BitVec 384)) : List Byte :=
  let body := Config.aliasBody (publicKey (aliasScalar f meas)) meas
  body ++ Config.signatureBy f.deviceScalar body

/-- The slot-0 chain (R574): Dolrel's root, the device identity certificate, the alias certificate. -/
def certChain (f : Fuses) (meas : List (BitVec 384)) : List Byte :=
  Config.spdmChain [Config.rootCert, Config.deviceCert (publicKey f.deviceScalar) f.serial.toNat, aliasCert f meas]

/-- Bytes in pieces of 48, as the model records what it sends. -/
def pieces48 (b : List Byte) : List (BitVec 384) := (chunks 48 ((b.length + 47) / 48) b).map fun c => BitVec.ofNat 384 (leNat c.reverse)

end Sys2Proof.Machine
end

