-- ==== Sys2Proof/Machine/Regs.lean ====
section
/-! DEFINITION. The register region (20, 02 R55, R60, 01 R9-R12): which register an address names, what it reads as, what
a write does, and the rows of single registers. -/
namespace Sys2Proof.Machine

/-- The registers (20 R589). An array's index follows its name. -/
inductive Reg
  | idnVer | idnSerial | idnDie (d : Nat) | idnCap
  | chrSrcMap | chrStatus | chrLast | chrLastTl | chrBoot | chrTopo | chrPolicy | chrBkp (w : Nat) | retained (off : Nat)
  | hwkCap | hwkLimits | hwkState | hwkEvt | hwkTg (g : Nat)
  | spxId | spxStat | spxFast | spxPubkey (w : Nat) | spxRec (n w : Nat) | spxNone
  | tshCfg | tshTimers | tshRedCfg | tshPeerEvt | tshRedEvt | tshStep | tshSkips | tshCursor | tshCommit
  | tshPort (p : Nat) | tshRedCtx (i : Nat) | tshNode (d : Nat) | tshRoute (d r w : Nat)
  | strStatus | strSplit | strCtx (c : Nat)
  | gdrScrub | gdrLink | gdrLast
  | cxmScrub | cxmLinkerr | cxmLast | cxmLink (l : Nat) | cxmCfg
  | ermChkCfg | ermChkEvt | ermWmark | ermShadow | ermLate | ermLog | fdbgCtl | fdbgData | memUe
  | tpsCfg | tpsRecBase | tpsCapBase | tpsStat | tpsCtl | tpsRes | tpsIdx
  | secStat | secCmd | secVlog (r : Nat) | secHead | secEvt (n w : Nat)
  | mapCap | mapLt (lt : Nat)
  | gngCfg | gngInbase | gngStat
  | tlc (lt off : Nat)
  /-- inside a block, where no register lies (02 R60) -/
  | empty
  /-- inside the register region, outside every block (20 R585) -/
  | hole
  deriving DecidableEq, Repr

/-! ### Addresses (R585, R589-R591) -/

/-- IDN. -/
def idnAt (o : Nat) : Reg :=
  if o = 0 then .idnVer else if o = 0x10 then .idnSerial else if 0x20 ≤ o ∧ o < 0x38 then .idnDie ((o - 0x20) / 8)
  else if o = 0x40 then .idnCap else .empty

/-- CHR. -/
def chrAt (o : Nat) : Reg :=
  if o = 0 then .chrSrcMap else if o = 8 then .chrStatus else if o = 0x10 then .chrLast else if o = 0x18 then .chrLastTl
  else if o = 0x20 then .chrBoot else if o = 0x28 then .chrTopo else if o = 0x30 then .chrPolicy
  else if 0x100 ≤ o ∧ o < 0x200 then .chrBkp ((o - 0x100) / 8)
  else if 0x100000 ≤ o ∧ o < 0x120000 then .retained (o - 0x100000) else .empty

/-- HWK. -/
def hwkAt (o : Nat) : Reg :=
  if o = 0 then .hwkCap else if o = 8 then .hwkLimits else if o = 0x10 then .hwkState else if o = 0x18 then .hwkEvt
  else if 0x100 ≤ o ∧ o < 0x300 then .hwkTg ((o - 0x100) / 8) else .empty

/-- SPX. -/
def spxAt (o : Nat) : Reg :=
  if o = 0 then .spxId else if o = 8 then .spxStat else if o = 0x10 then .spxFast
  else if 0x100 ≤ o ∧ o < 0x160 then .spxPubkey ((o - 0x100) / 8)
  else if 0x10000 ≤ o ∧ o < 0x14000 then .spxRec ((o - 0x10000) / 0x100) ((o - 0x10000) % 0x100 / 8) else .spxNone

/-- The words of a node-table entry from offset 8 (R591). -/
def routeAt (d o : Nat) : Reg := if o < 0xC0 then .tshRoute d (o / 0x18) (o % 0x18 / 8) else .empty

/-- TSH. -/
def tshAt (o : Nat) : Reg :=
  if o = 0 then .tshCfg else if o = 8 then .tshTimers else if o = 0x10 then .tshRedCfg
  else if o = 0x40 then .tshPeerEvt else if o = 0x48 then .tshRedEvt
  else if o = 0x50 then .tshStep else if o = 0x58 then .tshSkips else if o = 0x60 then .tshCursor
  else if o = 0x68 then .tshCommit
  else if 0x100 ≤ o ∧ o < 0x140 then .tshPort ((o - 0x100) / 8)
  else if 0x10000 ≤ o ∧ o < 0x18000 then .tshRedCtx ((o - 0x10000) / 8)
  else if 0x20000 ≤ o ∧ o < 0x120000 then
    let d := (o - 0x20000) / 0x100
    let k := (o - 0x20000) % 0x100
    if k = 0 then .tshNode d else routeAt d (k - 8)
  else .empty

/-- STR. -/
def strAt (o : Nat) : Reg :=
  if o = 0 then .strStatus else if o = 8 then .strSplit
  else if 0x100000 ≤ o ∧ o < 0x140000 ∧ o % 0x40 = 0 then .strCtx ((o - 0x100000) / 0x40) else .empty

/-- GDR. -/
def gdrAt (o : Nat) : Reg := if o = 0 then .gdrScrub else if o = 8 then .gdrLink else if o = 0x10 then .gdrLast else .empty

/-- CXM. -/
def cxmAt (o : Nat) : Reg :=
  if o = 0 then .cxmScrub else if o = 8 then .cxmLinkerr else if o = 0x10 then .cxmLast
  else if 0x20 ≤ o ∧ o < 0x40 then .cxmLink ((o - 0x20) / 8) else if o = 0x40 then .cxmCfg else .empty

/-- ERM. -/
def ermAt (o : Nat) : Reg :=
  if o = 0 then .ermChkCfg else if o = 8 then .ermChkEvt else if o = 0x10 then .ermWmark else if o = 0x18 then .ermShadow
  else if o = 0x20 then .ermLate else if o = 0x28 then .ermLog
  else if o = 0x10000 then .fdbgCtl else if o = 0x10008 then .fdbgData else if o = 0x20000 then .memUe else .empty

/-- TPS. -/
def tpsAt (o : Nat) : Reg :=
  if o = 0 then .tpsCfg else if o = 8 then .tpsRecBase else if o = 0x10 then .tpsCapBase else if o = 0x18 then .tpsStat
  else if o = 0x20 then .tpsCtl else if o = 0x28 then .tpsRes else if o = 0x30 then .tpsIdx else .empty

/-- SEC. -/
def secAt (o : Nat) : Reg :=
  if o = 0 then .secStat else if o = 8 then .secCmd else if o = 0x10 then .secVlog 0 else if o = 0x18 then .secVlog 1
  else if o = 0x20 then .secHead
  else if 0x10000 ≤ o ∧ o < 0x18000 then .secEvt ((o - 0x10000) / 32) ((o - 0x10000) % 32 / 8) else .empty

/-- MAP. -/
def mapAt (o : Nat) : Reg :=
  if o = 0 then .mapCap else if 0x1000 ≤ o ∧ o < 0x1000 + 8 * Config.ltCount then .mapLt ((o - 0x1000) / 8) else .empty

/-- GNG. -/
def gngAt (o : Nat) : Reg := if o = 0 then .gngCfg else if o = 8 then .gngInbase else if o = 0x10 then .gngStat else .empty

/-- The register that an 8-byte aligned address of the register region names. -/
def regAt (a : Nat) : Reg :=
  let off := a - Config.regBase
  let o := off % 0x1000000
  match off / 0x1000000 with
  | 0 => idnAt o
  | 1 => chrAt o
  | 2 => hwkAt o
  | 3 => spxAt o
  | 4 => tshAt o
  | 5 => strAt o
  | 6 => gdrAt o
  | 7 => cxmAt o
  | 8 => ermAt o
  | 9 => tpsAt o
  | 10 => secAt o
  | 11 => mapAt o
  | 12 => gngAt o
  | _ =>
    if Config.tlcBase ≤ a ∧ a < Config.tlcBase + Config.ltCount * 0x1000 then
      let w := (a - Config.tlcBase) % 0x1000
      if w ≤ 0x40 then .tlc ((a - Config.tlcBase) / 0x1000) w else .empty
    else .hole

/-- Whether an address lies in the register region (02 R57). -/
def inRegion (a : Nat) : Bool := decide (Config.regBase ≤ a ∧ a < Config.regEnd)

/-! ### Power domains (R585, R586) -/

/-- Whether a register is held by the always-on domain or the meter. -/
def Reg.alwaysOn : Reg → Bool
  | .idnVer | .idnSerial | .idnDie _ | .idnCap | .chrSrcMap | .chrStatus | .chrLast | .chrLastTl | .chrBoot | .chrTopo
  | .chrPolicy | .chrBkp _ | .retained _ | .hwkCap | .hwkEvt | .spxId | .spxStat | .spxFast | .spxPubkey _ | .spxRec _ _
  | .spxNone | .memUe | .secStat | .secCmd | .secVlog _ | .secHead | .secEvt _ _ => true
  | _ => false

/-- Whether X-core is on. -/
def State.xOn (s : State) : Bool := s.chip.pins.domains.contains 64

/-- Whether the domain that holds a register is on; for a TLC register the tile group of the backing tile, and the
logical tile is backed. -/
def State.regOn (s : State) (r : Reg) : Bool :=
  match r with
  | .tlc lt _ => s.xOn && s.node.backed lt && (s.node.tg (groupOf (s.node.physOf lt))).powered
  | r => r.alwaysOn || s.xOn

/-- Whether the register region can be reached at all: the module is not held in reset and the always-on clock runs
(17 R500, R507). -/
def State.reachable (s : State) : Bool := s.chip.chr.held.isNone && !s.chip.chr.stopped

/-- Log an access; ERM lies in X-core and logs nothing while that is off. -/
def State.logReg (s : State) (kind a : Nat) : State := if s.xOn then { s with node := s.node.logAccess kind a } else s

/-! ### What registers read as -/

/-- TSH_RED_CTX.STATE (12 R397). -/
def RedCtx.stateCode (c : RedCtx) (r : RedEnt) : Nat :=
  if c.complete then (if c.folded then 5 else 4)
  else if !c.started then (if c.filled = 0 then 0 else 1)
  else if c.folded then 5
  else if redMode r c = 0 ∧ 1 < r.m ∧ (List.range r.nblk).any (fun b => (Map.look c.entries b).isNone) then 2
  else 3

/-- TSH_RED_CTX (12 R397). -/
def Node.redWord (n : Node) (i : Nat) : Word :=
  match Map.look n.job.red i with
  | none => setFld (setFld 0 7 1 (b2n (n.redCtx i).sat)) 6 1 (b2n (n.redCtx i).resfail)
  | some r =>
    let c := n.redCtx i
    setFld (setFld (setFld (setFld (setFld (setFld (setFld (setFld 0 32 16 c.filled) 12 20 (Nat.min c.esc (2 ^ 20 - 1)))
      8 1 (b2n c.pvalid)) 7 1 (b2n c.sat)) 6 1 (b2n c.resfail)) 5 1 (b2n c.nf)) 4 1 (b2n (!n.reduces r)))
      0 4 (c.stateCode r)

/-- TSH_COMMIT_STAT (13 R424). -/
def Node.commitWord (n : Node) : Word :=
  let c := n.commit
  let st : Nat := if !n.job.loaded then 0 else if n.job.held then 3 else if c.sent.isSome then 2 else 1
  setFld (setFld (setFld (setFld (setFld 0 8 8 c.epoch) 6 2 c.last) 5 1 (b2n c.released)) 4 1 (b2n c.pwritten)) 0 4 st

/-- TSH_PORT (11 R365). -/
def Node.portWord (n : Node) (p : Nat) : Word :=
  let subs := (List.range 4).filter fun s => (n.sub p s).up
  let lanes := subs.foldl (fun m s => m ||| (n.sub p s).mask (n.laneBase p s)) 0
  setFld (setFld (setFld (setFld 0 32 8 lanes) 22 2 (n.portMode p)) 16 4 (sumOf (fun s => 2 ^ s) subs))
    0 16 (Map.getD n.ports p 0)

/-- TSH_NODE (20 R590). -/
def Node.nodeWord (n : Node) (d : Nat) : Word :=
  let p := n.peer d
  setFld (setFld (setFld 0 32 32 (p.session.getD 0)) 8 8 (sumOf (fun r => 2 ^ r) p.usable)) 0 4 (n.routes d).length

/-- TSH_ROUTE (20 R591): DIRECT is what the base configuration declares of the sub-port (11 R347). -/
def Node.routeWord (n : Node) (d r w : Nat) : Word :=
  match (n.routes d)[r]? with
  | none => 0
  | some x =>
    match w with
    | 0 => setFld (setFld (setFld (setFld 0 16 48 x.mac) 5 1 (b2n (n.isDirect x.port x.sub))) 3 2 x.sub) 0 3 x.port
    | 1 => BitVec.ofNat 64 x.ip
    | _ => BitVec.ofNat 64 (x.ip / 2 ^ 64)

/-- STR_STATUS (09 R301). -/
def Node.strWord (n : Node) : Word := setFld (n.strStat.setWidth 64) 32 12 (Nat.min n.ctxs.length 4095)

/-- MAP_CAP (18 R551). -/
def Node.mapCapWord (n : Node) : Word :=
  let g := n.guard
  let cap := if g.backed0 < Config.ltPerDie then g.backed0 else Config.ltPerDie + g.backed1
  setFld (setFld (setFld (setFld (setFld 0 48 12 cap) 40 8 (n.spares 1).length) 32 8 (n.spares 0).length)
    11 11 g.backed1) 0 11 g.backed0

/-- MAP_LT (18 R552): the place of a tile that nothing backs is free. -/
def Node.mapLtWord (n : Node) (a lt : Nat) : Word :=
  let p := n.physOf lt
  if n.backed lt then
    setFld (setFld (setFld (setFld 0 15 1 1) 14 1 (b2n (n.physTile p).damask)) 6 5 (physCol p)) 0 6 (physRow p)
  else setFld (setFld 0 14 1 (Config.freeField n.free a)) 0 11 (Config.freeField (n.free + 1) a)

/-- A power in W in a field of twelve bits. The spec says neither how a value between two units is rounded nor what stands for
one that does not fit: `f` is free. -/
def wattField (x : Rat) (f : Nat) : Nat :=
  if x < 0 ∨ 4095 < x then f else if x.den = 1 then x.num.toNat else x.floor.toNat + f % 2

/-- HWK_CAP (15 R481). -/
def State.capWord (s : State) (a : Nat) : Word :=
  let bw := wattField (s.node.budget s.chip.hwk) (Config.freeField (s.node.free + 1) a)
  let uw := wattField s.node.gov.u (Config.freeField s.node.free a)
  setFld (setFld (setFld (setFld 0 36 12 bw) 24 12 uw) 12 12 800) 0 12 s.chip.hwk.cap

/-- HWK_STATE (15 R483). -/
def State.hwkWordOf (s : State) : Word :=
  let q := s.node.pendingReqs
  let w := setFld (setFld (setFld 0 32 16 q.length) 2 1 (b2n s.chip.pins.trans.isSome)) 0 2 s.chip.pins.pstate
  match q.head? with
  | none => w
  | some r => setFld (setFld (setFld w 24 6 r.g) 16 8 (r.phase.getD 0)) 15 1 1

/-- HWK_TG (15 R484): α in units of 1/64; the spec does not say how a value between two units is rounded. -/
def Node.tgWord (n : Node) (a g : Nat) : Word :=
  let x := n.tg g
  let y : Rat := x.alpha * 64
  let al := if y.den = 1 then y.num.toNat else y.floor.toNat + Config.freeField n.free a % 2
  setFld (setFld (setFld (setFld (setFld (setFld (setFld (setFld 0 48 16 x.power) 40 8 al) 24 8 x.tempB) 16 8 x.tempA)
    5 1 (b2n x.throttle)) 4 1 (b2n x.gated)) 3 1 (b2n x.powered)) 0 3 x.vset

/-- GNG_STAT (13 R426). -/
def Gng.word (g : Gng) : Word := setFld (setFld 0 4 1 g.slot) 0 4 g.state

/-- CHR_STATUS (17 R520). -/
def Chrys.statusWord (c : Chrys) : Word :=
  setFld (setFld (setFld (setFld 0 32 16 (srcBits ((c.asserted ++ c.targets).foldl (fun l a => insertNew a.1 l) [])))
    11 1 (b2n c.clksel)) 10 1 (b2n c.refOk)) 5 3 (c.held.getD 7)

/-- SEC_STAT (19 R583). -/
def Chip.secWord (c : Chip) : Word :=
  let f := c.fuses
  let e := c.sec
  let bitsOf (p : Option Nat × Bool → Bool) : Nat := sumOf (fun i => b2n ((f.owners[i]?).any p) * 2 ^ i) (List.range 4)
  let wait := e.modeNext.isSome || e.slots.any (·.2.next)
  setFld (setFld (setFld (setFld (setFld (setFld (setFld (setFld (setFld 0 48 8 f.cfgSvn) 40 8 f.fwSvn)
    36 4 (bitsOf (·.2))) 32 4 (bitsOf (·.1.isSome))) 8 2 e.mode) 7 1 (b2n e.fallback)) 6 1 (b2n e.debug))
    5 1 (b2n e.nonexact)) 4 1 (b2n wait)

/-- SEC_VLOG (19 R584). -/
def Fuses.vlogWord (f : Fuses) (r : Nat) : Word :=
  BitVec.ofNat 64 (sumOf (fun e => f.vlog.getD (16 * r + e) 0 * 16 ^ e) (List.range 16))

/-- An event record's bytes (20 R594). -/
def Evt.bytes (e : Evt) : List Byte :=
  leBytes e.code 2 ++ leBytes e.lt 2 ++ leBytes e.node 2 ++ leBytes 0 2 ++ leBytes e.detail.toNat 8 ++ leBytes e.time 8
    ++ leBytes e.seq 8

/-- SPX_STAT (16 R497). -/
def Meter.statWord (x : Meter) : Word :=
  setFld (setFld (setFld (setFld (setFld (setFld (setFld 0 32 16 x.sealCnt) 16 8 x.lastSeal)
    10 1 (b2n (x.running && !x.test))) 9 1 (b2n x.test)) 8 1 (b2n x.fault)) 7 1 (b2n x.any)) 0 6 x.head

/-- SPX_FAST (16 R497). -/
def Meter.fastWord (x : Meter) : Word := setFld (setFld (setFld 0 48 16 x.tick) 32 16 x.pAux) 0 32 x.pMain

/-- Word `w` of slot `n` of the mirror ring (16 R497). -/
def Meter.recWord (x : Meter) (n w : Nat) : Word :=
  BitVec.ofNat 64 (leNat (((Map.getD x.ring n []).drop (8 * w)).take 8))

/-- The register of the SPX block (16 R497), as either path reads it. -/
def Meter.spxWord (x : Meter) : Reg → Word
  | .spxId => x.id
  | .spxStat => x.statWord
  | .spxFast => x.fastWord
  | .spxPubkey w => Config.meterPubKey w
  | .spxRec n w => x.recWord n w
  | _ => 0

/-- The state byte of tile record `t` (18 R540). -/
def Retained.stateByte (r : Retained) (t : Nat) : Nat :=
  let p := Map.getD r.phys t Phys.healthy
  p.state + 4 * b2n p.damask

/-- The map entry of logical tile `lt` (18 R540). -/
def Retained.mapEntry (r : Retained) (lt : Nat) : Nat :=
  let p := Map.getD r.lmap lt (if lt < Config.ltPerDie then lt else Config.physPerDie + (lt - Config.ltPerDie))
  let on := if lt < Config.ltPerDie then decide (lt < r.backed0) else decide (lt - Config.ltPerDie < r.backed1)
  p % Config.physPerDie + 32768 * b2n on

/-- Byte `o` of a copy of the retained map (18 R540). A copy that was never written since a Full reset is zero; the
training records are Dolrel's own, free values. -/
def Retained.byte (r : Retained) (o : Nat) : Nat :=
  if r.seq = 0 then 0
  else if o < 2 then bits 1 (8 * o) 8
  else if o = 2 then b2n r.valid
  else if 8 ≤ o ∧ o < 16 then bits r.seq (8 * (o - 8)) 8
  else if 16 ≤ o ∧ o < 24 then bits r.serial (8 * (o - 16)) 8
  else if 0x40 ≤ o ∧ o < 0x40 + 2432 then r.stateByte (o - 0x40)
  else if 0xA00 ≤ o ∧ o < 0xA00 + 4608 then bits (r.mapEntry ((o - 0xA00) / 2)) (8 * (o % 2)) 8
  else if 0x1C00 ≤ o ∧ o < 0x4000 then (Config.trainingByte (r.seq * 0x8000 + o)).toNat
  else 0

/-- Byte `o` of retained memory (17 R518). -/
def Chrys.retByte (c : Chrys) (o : Nat) : Nat :=
  if o < 0x8000 then c.copyA.byte o
  else if o < 0x10000 then c.copyB.byte (o - 0x8000)
  else (Map.getD c.retMem o 0).toNat

/-- The word at offset `o` of retained memory. An uncorrectable word of the firmware area reads as zero (17 R518); what one of
the map area reads as is free: `free` tells the reads apart. -/
def Chrys.retWord (c : Chrys) (free o : Nat) : Word :=
  if c.retBad.contains (o / 8) then (if o < 0x10000 then BitVec.ofNat 64 (Config.freeField free o) else 0)
  else BitVec.ofNat 64 (leNat ((span o 8).map fun i => BitVec.ofNat 8 (c.retByte i)))

/-- CHR_BKP (17 R516). -/
def State.bkpWord (s : State) (w : Nat) : Word :=
  let c := s.node.commit
  match w with
  | 0 => s.chip.chr.bkpSession
  | 1 => s.chip.chr.bkpBoots
  | 2 => c.cur.step
  | 3 => c.cur.skips
  | 4 => c.cur.cursor
  | 5 => c.prev.step
  | 6 => c.prev.skips
  | 7 => c.prev.cursor
  | 8 => BitVec.ofNat 64 c.recJob
  | _ => if 16 ≤ w then Map.getD s.chip.chr.bkpSw w 0 else 0

/-- What a register holds; `a` is its address. WO fields read as zero (01 R9). -/
def State.regWord (s : State) (r : Reg) (a : Nat) : Word :=
  let n := s.node
  let c := s.chip
  match r with
  | .idnVer => 0x0000000011110100
  | .idnSerial => c.fuses.serial
  | .idnDie d => Map.getD c.fuses.dieId d 0
  | .idnCap => idnCap
  | .chrSrcMap => c.fuses.srcMap
  | .chrStatus => c.chr.statusWord
  | .chrLast => c.chr.last
  | .chrLastTl => c.chr.lastTl
  | .chrBoot => bootWord c.boot n.fillPending
  | .chrTopo => c.boot.topo
  | .chrPolicy => c.boot.policy
  | .chrBkp w => s.bkpWord w
  | .retained o => c.chr.retWord n.free o
  | .hwkCap => s.capWord a
  | .hwkLimits => c.hwk.limits
  | .hwkState => s.hwkWordOf
  | .hwkEvt => c.hwk.evt
  | .hwkTg g => n.tgWord a g
  | .spxId | .spxStat | .spxFast | .spxPubkey _ | .spxRec _ _ | .spxNone => c.meter.spxWord r
  | .tshCfg => n.tshCfg
  | .tshTimers => n.timers
  | .tshRedCfg => n.redCfg
  | .tshPeerEvt => n.peerEvt
  | .tshRedEvt => n.redEvt
  | .tshStep => n.commit.now.step
  | .tshSkips => n.commit.now.skips
  | .tshCursor => n.commit.now.cursor
  | .tshCommit => n.commitWord
  | .tshPort p => n.portWord p
  | .tshRedCtx i => n.redWord i
  | .tshNode d => n.nodeWord d
  | .tshRoute d k w => n.routeWord d k w
  | .strStatus => n.strWord
  | .strSplit => n.split
  | .strCtx k => n.ctxWord k
  | .gdrScrub => n.mems.gScrub
  | .gdrLink => n.mems.gLink
  | .gdrLast => n.mems.gLast
  | .cxmScrub => n.mems.cScrub
  | .cxmLinkerr => n.mems.cLink
  | .cxmLast => n.mems.cLast
  | .cxmLink l => Map.getD n.mems.link l 0
  | .cxmCfg => n.mems.cxmCfg
  | .ermChkCfg => n.guard.chkCfg
  | .ermChkEvt => n.guard.chkEvt
  | .ermWmark => BitVec.ofNat 64 n.guard.wmark
  | .ermShadow => n.shadowWord a
  | .ermLate => BitVec.ofNat 64 n.guard.late
  | .ermLog => n.ermLog
  | .fdbgCtl => n.fdbgCtl
  | .fdbgData => n.fdbgData
  | .memUe => n.mems.ue
  | .tpsCfg => n.tps.cfg
  | .tpsRecBase => n.tps.recBase
  | .tpsCapBase => n.tps.capBase
  | .tpsStat => n.tps.stat
  | .tpsCtl => n.tps.ctl
  | .tpsRes => n.tps.resReg
  | .tpsIdx => n.tps.idx
  | .secStat => c.secWord
  | .secCmd => c.sec.lastSeq
  | .secVlog k => c.fuses.vlogWord k
  | .secHead => BitVec.ofNat 64 n.evHead
  | .secEvt k w => match Map.look n.events k with
    | none => 0
    | some e => BitVec.ofNat 64 (leNat ((e.bytes.drop (8 * w)).take 8))
  | .mapCap => n.mapCapWord
  | .mapLt lt => n.mapLtWord a lt
  | .gngCfg => n.gng.cfg
  | .gngInbase => n.gng.inbase
  | .gngStat => n.gng.word
  | .tlc lt o => n.tlcReg lt o
  | .empty | .hole => 0

/-! ### Access codes (01 R9) -/

/-- The bits of a register by access code, reserved bits left out. -/
structure Access where
  ro  : Word
  w1c : Word
  rw  : Word
  rwl : Word
  rc  : Word
  deriving DecidableEq, Repr

/-- The bits `hi` to `lo`. -/
def mask (hi lo : Nat) : Word := setFld 0 lo (hi + 1 - lo) (2 ^ (hi + 1 - lo) - 1)

/-- Every bit. -/
def allBits : Word := BitVec.allOnes 64

/-- No field. -/
def Access.none : Access := { ro := 0, w1c := 0, rw := 0, rwl := 0, rc := 0 }

/-- A register of read-only fields. -/
def Access.ofRo (m : Word) : Access := { Access.none with ro := m }

/-- A first-event register: VALID and MORE clear by a write of 1, the rest is read-only. -/
def Access.ofEvt (m : Word) : Access := { Access.none with ro := m, w1c := mask 63 62 }

/-- The access codes of a register's fields. -/
def Reg.access : Reg → Access
  | .idnVer => .ofRo (mask 31 0)
  | .idnDie _ => .ofRo (mask 63 8)
  | .idnCap => .ofRo (mask 47 0)
  | .idnSerial | .chrSrcMap | .spxId | .spxFast | .spxPubkey _ | .spxRec _ _ | .tshStep | .tshSkips | .tshCursor
  | .ermWmark | .ermLate | .tpsIdx | .secCmd | .secVlog _ | .secEvt _ _ => .ofRo allBits
  | .chrStatus => .ofRo (mask 47 32 ||| mask 11 10 ||| mask 7 5)
  | .chrLast => .ofRo (mask 63 27)
  | .chrLastTl => { Access.none with ro := mask 63 48 ||| mask 31 28 ||| mask 11 0, rc := mask 47 32 }
  | .chrBoot => .ofRo (mask 23 8 ||| mask 5 0)
  | .chrTopo => .ofEvt (mask 61 32)
  | .chrPolicy => { Access.none with rwl := mask 47 32 ||| mask 13 0 }
  | .chrBkp w => if w < 9 then .ofRo allBits else if w < 16 then .none else { Access.none with rw := allBits }
  | .retained o => if o < 0x10000 then .ofRo allBits else { Access.none with rw := allBits }
  | .hwkCap => .ofRo (mask 47 0)
  | .hwkLimits => { Access.none with rwl := mask 47 16 ||| mask 2 0 }
  | .hwkState => .ofRo (mask 47 32 ||| mask 29 15 ||| mask 2 0)
  | .hwkEvt => .ofEvt (mask 55 26)
  | .hwkTg _ => .ofRo (mask 63 40 ||| mask 31 16 ||| mask 5 0)
  | .spxStat => .ofRo (mask 47 32 ||| mask 23 16 ||| mask 10 7 ||| mask 5 0)
  | .tshCfg => { Access.none with rwl := mask 31 16 ||| mask 3 1 }
  | .tshTimers => { Access.none with rw := mask 51 32 ||| mask 15 0 }
  | .tshRedCfg => { Access.none with rwl := mask 47 18 ||| mask 1 0 }
  | .tshPeerEvt => .ofEvt (mask 55 28 ||| mask 11 0)
  | .tshRedEvt => .ofEvt (mask 55 28 ||| mask 19 0)
  | .tshCommit => .ofRo (mask 15 0)
  | .tshPort _ => { Access.none with ro := mask 39 32 ||| mask 23 22 ||| mask 19 16, rc := mask 15 0 }
  | .tshRedCtx _ => { Access.none with ro := mask 47 12 ||| mask 8 8 ||| mask 5 0, w1c := mask 7 6 }
  | .tshNode _ => .ofRo (mask 63 32 ||| mask 15 8 ||| mask 3 0)
  | .tshRoute _ _ w => .ofRo (if w = 0 then mask 63 16 ||| mask 5 0 else allBits)
  | .strStatus => { Access.none with ro := mask 43 32, w1c := mask 2 0 }
  | .strSplit => .ofRo (mask 14 0)
  | .strCtx _ => { Access.none with ro := mask 63 28 ||| mask 10 8 ||| mask 6 0, w1c := mask 7 7 }
  | .gdrScrub | .cxmScrub => { Access.none with ro := mask 31 16, rw := mask 9 0 }
  | .gdrLink | .cxmLinkerr => { Access.none with rc := mask 47 0 }
  | .gdrLast | .cxmLast => .ofRo (mask 56 0)
  | .cxmLink _ => { Access.none with ro := mask 15 0, rc := mask 31 16 }
  | .cxmCfg => .ofRo (mask 47 0)
  | .ermChkCfg => { Access.none with rwl := mask 6 0, rc := mask 39 8 }
  | .ermChkEvt => .ofEvt (mask 61 13)
  | .ermShadow => .ofRo (mask 47 32 ||| mask 15 0)
  | .ermLog => .ofEvt (mask 61 58 ||| mask 47 0)
  | .fdbgCtl => { Access.none with ro := mask 3 1, rw := mask 39 12 }
  | .fdbgData => { Access.none with rw := allBits }
  | .memUe => .ofEvt (mask 61 0)
  | .tpsCfg => { Access.none with rwl := mask 63 40 ||| mask 31 4 ||| mask 0 0 }
  | .tpsRecBase => { Access.none with rwl := mask 47 12 }
  | .tpsCapBase => { Access.none with rwl := mask 47 20 }
  | .tpsStat => { Access.none with ro := mask 63 16, w1c := mask 0 0 }
  | .tpsCtl => { Access.none with rw := mask 47 6 ||| mask 2 0 }
  | .tpsRes => .ofRo (mask 63 7 ||| mask 1 0)
  | .secStat => .ofRo (mask 55 32 ||| mask 9 4)
  | .secHead => .ofRo (mask 9 0)
  | .mapCap => .ofRo (mask 59 32 ||| mask 21 0)
  | .mapLt _ => .ofRo (mask 15 14 ||| mask 10 0)
  | .gngCfg => { Access.none with rwl := mask 43 12 ||| mask 0 0 }
  | .gngInbase => { Access.none with rwl := mask 47 20 }
  | .gngStat => .ofRo (mask 4 0)
  | .tlc _ o => match o with
    | 0x000 => .ofRo (mask 15 0)
    | 0x008 => { Access.none with rw := mask 1 0 }
    | 0x010 => .ofRo (mask 31 0)
    | 0x018 => { Access.none with ro := mask 63 32 ||| mask 19 8 ||| mask 6 1, w1c := mask 7 7 ||| mask 0 0 }
    | 0x020 => .ofRo (mask 47 0)
    | 0x028 => { Access.none with w1c := mask 5 0 }
    | 0x030 => { Access.none with ro := mask 2 2 ||| mask 0 0, rw := mask 1 1 }
    | 0x038 | 0x040 => .ofRo allBits
    | _ => .none
  | .spxNone | .empty | .hole => .none

/-- What a write of the bits `m` of `v` leaves of `old` (R9): RW bits are stored, RWL bits while the lock is open, W1C
bits written 1 are cleared, and no other bit changes. -/
def Access.merge (x : Access) (locked : Bool) (old v m : Word) : Word :=
  let st := (x.rw ||| (if locked then 0 else x.rwl)) &&& m
  ((old &&& ~~~st) ||| (v &&& st)) &&& ~~~(x.w1c &&& m &&& v)

/-! ### Writing -/

/-- TLC_FAULT after a write: VALID and MORE. -/
def Tile.putFault (x : Tile) (w : Word) : Tile := { x with fault := { x.fault with valid := bit w 0, more := bit w 7 } }

/-- A TLC register of logical tile `lt` takes the value `w`. A shadow of the tile has DBG_EN as it stood at the step's start; what is
written later reaches the logical tile alone (DESIGN CHOICE, log entry 89). -/
def Node.putTlc (n : Node) (lt o : Nat) (w : Word) : Node :=
  match o with
  | 0x008 => n.modTile lt fun x => { x with hold := bit w 1, dbgEn := bit w 0 }
  | 0x018 => n.modTile lt (·.putFault w)
  | 0x028 => n.modTile lt fun x => { x with flags := w.setWidth 6 }
  | 0x030 => n.modTile lt fun x => { x with force := bit w 1 }
  | _ => n

/-- A register of the node takes the value `w` in its writable fields. -/
def Node.putReg (n : Node) (r : Reg) (w : Word) : Node :=
  match r with
  | .tshCfg => { n with tshCfg := w }
  | .tshTimers => { n with timers := w }
  | .tshRedCfg => { n with redCfg := w }
  | .tshPeerEvt => { n with peerEvt := w }
  | .tshRedEvt => { n with redEvt := w }
  | .tshRedCtx i => if i < 4096 then n.setRed i { n.redCtx i with sat := bit w 7, resfail := bit w 6 } else n
  | .tshPort p => { n with ports := Map.put n.ports p (fld w 0 16) }
  | .strStatus => { n with strStat := w.setWidth 3 }
  | .strCtx c => if bit w 7 then n else { n with overruns := n.overruns.filter (· ≠ c) }
  | .gdrScrub => { n with mems := { n.mems with gScrub := w } }
  | .gdrLink => { n with mems := { n.mems with gLink := w } }
  | .cxmScrub => { n with mems := { n.mems with cScrub := w } }
  | .cxmLinkerr => { n with mems := { n.mems with cLink := w } }
  | .cxmLink l => { n with mems := { n.mems with link := Map.put n.mems.link l w } }
  | .ermChkCfg => { n with guard := { n.guard with chkCfg := w } }
  | .ermChkEvt => { n with guard := { n.guard with chkEvt := w } }
  | .ermLog => { n with ermLog := w }
  | .fdbgCtl => { n with fdbgCtl := w }
  | .fdbgData => { n with fdbgData := w }
  | .memUe => { n with mems := { n.mems with ue := w } }
  | .tpsCfg => { n with tps := { n.tps with cfg := w } }
  | .tpsRecBase => { n with tps := { n.tps with recBase := w } }
  | .tpsCapBase => { n with tps := { n.tps with capBase := w } }
  | .tpsStat => { n with tps := { n.tps with stat := w } }
  | .tpsCtl => { n with tps := { n.tps with ctl := w } }
  | .gngCfg => { n with gng := { n.gng with cfg := w } }
  | .gngInbase => { n with gng := { n.gng with inbase := w } }
  | .tlc lt o => n.putTlc lt o w
  | _ => n

/-- A register of the always-on domain takes the value `w` in its writable fields. -/
def Chip.putReg (c : Chip) (r : Reg) (w : Word) : Chip :=
  match r with
  | .chrTopo => { c with boot := { c.boot with topo := w } }
  | .chrPolicy => { c with boot := { c.boot with policy := w } }
  | .chrLastTl => { c with chr := { c.chr with lastTl := w } }
  | .chrBkp k => if 16 ≤ k then { c with chr := { c.chr with bkpSw := Map.put c.chr.bkpSw k w } } else c
  | .retained o => if 0x10000 ≤ o then
      let d : Chrys := { c.chr with
        retMem := ((span o 8).zip (leBytes w.toNat 8)).foldl (fun m p => Map.put m p.1 p.2) c.chr.retMem }
      { c with chr := d.retMend o 8 }
    else c
  | .hwkLimits => { c with hwk := { c.hwk with limits := w } }
  | .hwkEvt => { c with hwk := { c.hwk with evt := w } }
  | _ => c

/-- A register takes the value `w` in its writable fields. -/
def State.putReg (s : State) (r : Reg) (w : Word) : State := { s with node := s.node.putReg r w, chip := s.chip.putReg r w }

/-! ### The debug window (07 R242-R244) -/

/-- STATUS of the debug window. -/
def fdbgStatus (w : Word) : Nat := fld w 1 3

/-- The selection that ERM_FDBG_CTL holds is one that R242 gives no access for. -/
def Node.fdbgBad (n : Node) : Bool :=
  let w := n.fdbgCtl
  let c := fld w 13 4
  !(n.tile (fld w 28 12)).used || decide (14 ≤ c) || (bit w 12 && decide (11 ≤ c))

/-- GO (R244): unless an access is under way STATUS becomes 1, and where the selection is good and the array allocated the
access takes its place behind the instructions that name it. One that takes none is judged on the fields as they stood at
GO. -/
def Node.fdbgGo (n : Node) : Node :=
  let w := n.fdbgCtl
  if fdbgStatus w = 1 then n
  else
    let lt := fld w 28 12
    let f := fld w 27 1
    let n1 : Node := { n with fdbgCtl := setFld w 1 3 1 }
    if n.fdbgBad || !((n.tile lt).arr f).alloc then { n1 with fdbgAt := some (lt, n.fdbgBad) }
    else n1.modTile lt fun x => { x with
      queue := x.queue ++ [{ op := .fdbg (32 * fld w 22 5 + fld w 17 5) (fld w 13 4) (bit w 12), f := f, thr := 0, pc := 0, id := x.opSeq }]
      opSeq := x.opSeq + 1 }

/-- Whether a queue entry is the access of the debug window. -/
def MEntry.isFdbg (e : MEntry) : Bool := match e.op with
  | .fdbg .. => true
  | _ => false

/-- End the access of the debug window with an error code. -/
def Node.fdbgFail (n : Node) (code : Nat) : Node := { n with fdbgCtl := setFld n.fdbgCtl 1 3 code }

/-- FDBG_ACCESS_COMPLETE (R244): the access takes effect once no earlier instruction that names the array is left, or
STATUS becomes the error of R242. -/
def Node.fdbgDone (n : Node) : Node :=
  if fdbgStatus n.fdbgCtl ≠ 1 then n
  else
    match n.tiles.find? fun kv => kv.2.hasFdbg with
    | some (t, x) =>
      (match x.queue.find? (·.isFdbg) with
        | none => n
        | some e =>
          if x.behind e then n
          else
            let m := if x.dbgEn then n.runAtOnce t e else n.fdbgFail 3
            (m.modTile t (·.retire e)).requeue t)
    | none =>
      let m : Node := { n with fdbgAt := none }
      match n.fdbgAt with
      | some (lt, bad) => m.fdbgFail (if bad then 5 else if !(n.tile lt).dbgEn then 3 else 4)
      | none => m.fdbgFail 4

/-- FDBG_ACCESS_COMPLETE. -/
def execFdbgAccessComplete (s : State) : Host.Outcome State Fault Refusal := lift Node.fdbgDone s

/-! ### Accesses of the management plane -/

/-- A write that reaches the register region with the bits `m` of `v` (02 R60, 20 R585, R586); one at any address of the SPX block,
of any width, is refused there (16 R497). -/
def State.writeReg (s : State) (a width : Nat) (v m : Word) : State :=
  if !s.reachable then s
  else if !inRegion a then (if s.node.place a = .hole then s.logReg 1 a else s)
  else if a / 0x1000000 = (Config.regBase + 0x3000000) / 0x1000000 then s.logReg 3 a
  else if width ≠ 8 ∨ a % 8 ≠ 0 then s.logReg 2 a
  else
    let r := regAt a
    if r = .hole then s.logReg 1 a
    else if !s.regOn r then s
    else
      let s1 := s.putReg r (r.access.merge s.chip.boot.locked (s.regWord r a) v m)
      if r = .fdbgCtl ∧ bit (v &&& m) 0 then { s1 with node := s1.node.fdbgGo } else s1

/-- A read of an uncorrectable word in the firmware area of retained memory is logged (17 R518, R592). -/
def State.retLog (s : State) (r : Reg) (a : Nat) : State :=
  match r with
  | .retained o => if 0x10000 ≤ o ∧ s.chip.chr.retBad.contains (o / 8) then s.logReg 5 a else s
  | _ => s

/-- The value that a read of the register region returns, and its effect: RC fields take their reset value, zero, and a
hole, a misaligned address and an uncorrectable word of retained memory are logged. -/
def State.readReg (s : State) (a : Nat) : Word × State :=
  if !s.reachable then (0, s)
  else if !inRegion a then (0, if s.node.place a = .hole then s.logReg 1 a else s)
  else if a % 8 ≠ 0 then (0, s.logReg 2 a)
  else
    let r := regAt a
    if r = .hole then (0, s.logReg 1 a)
    else if !s.regOn r then (0, s)
    else
      let w := s.regWord r a
      let rc := r.access.rc
      let s1 : State := { s with node := { s.node with free := s.node.free + 2 } }.retLog r a
      (w, if rc = 0 then s1 else s1.putReg r (w &&& ~~~rc))

/-- A read of one register by itself, its value recorded as returned. -/
def readRow (a : Nat) (s : State) : Host.Outcome State Fault Refusal :=
  whole (fun st =>
    let (w, st1) := st.readReg a
    { st1 with node := { st1.node with out := st1.node.out ++ [.regWord a w] } }) s

/-- REGISTER_WRITE (01 R9). -/
def execRegisterWrite (addr width : Nat) (value : Word) (s : State) : Host.Outcome State Fault Refusal :=
  whole (fun st => st.writeReg addr width value allBits) s

/-- Address of register `o` of a tile's TLC window. -/
def tlcAddr (lt o : Nat) : Nat := Config.tlcBase + lt * 0x1000 + o

/-- TLC_HOLD_WRITE (03 R108). -/
def execTlcHoldWrite (lt : Nat) (v : Bool) (s : State) : Host.Outcome State Fault Refusal :=
  whole (fun st => st.writeReg (tlcAddr lt 0x008) 8 (setFld 0 1 1 (b2n v)) (mask 1 1)) s

/-- DBG_EN_WRITE (03 R108). -/
def execDbgEnWrite (lt : Nat) (v : Bool) (s : State) : Host.Outcome State Fault Refusal :=
  whole (fun st => st.writeReg (tlcAddr lt 0x008) 8 (setFld 0 0 1 (b2n v)) (mask 0 0)) s

/-- FORCE (08 R265, R266). -/
def execForce (lt : Nat) (v : Bool) (s : State) : Host.Outcome State Fault Refusal :=
  whole (fun st => st.writeReg (tlcAddr lt 0x030) 8 (setFld 0 1 1 (b2n v)) (mask 1 1)) s

/-- GO (07 R244). -/
def execGo (s : State) : Host.Outcome State Fault Refusal :=
  whole (fun st => st.writeReg (Config.regBase + 0x8010000) 8 1 (mask 0 0)) s

/-- GDR_LINK_READ (10 R323). -/
def execGdrLinkRead (s : State) : Host.Outcome State Fault Refusal := readRow (Config.regBase + 0x6000008) s

/-- CXM_LINKERR_READ (10 R323). -/
def execCxmLinkerrRead (s : State) : Host.Outcome State Fault Refusal := readRow (Config.regBase + 0x7000008) s

/-- CXM_LINK_READ (10 R325). -/
def execCxmLinkRead (l : Nat) (s : State) : Host.Outcome State Fault Refusal := readRow (Config.regBase + 0x7000020 + 8 * l) s

/-- TSH_PORT_READ (11 R365). -/
def execTshPortRead (p : Nat) (s : State) : Host.Outcome State Fault Refusal := readRow (Config.regBase + 0x4000100 + 8 * p) s

/-- ERM_CHK_CFG_READ (14 R454). -/
def execErmChkCfgRead (s : State) : Host.Outcome State Fault Refusal := readRow (Config.regBase + 0x8000000) s

/-- CHR_LAST_TL_READ (17 R522). -/
def execChrLastTlRead (s : State) : Host.Outcome State Fault Refusal := readRow (Config.regBase + 0x1000018) s

/-! ### Upkeep of the tiers (10 R310, R318-R321, 18 R534) -/

/-- BACKGROUND_FILL (18 R534): the next region, in ascending order. -/
def Node.fillNext (n : Node) : Node :=
  match n.mems.filled with
  | none => n
  | some l =>
    let total := ceilDiv (n.cxlLimit - Config.cxlBase) 0x1000000
    match (List.range total).find? fun r => !l.contains r with
    | none => { n with mems := { n.mems with filled := none } }
    | some r =>
      let m := n.fillRegion (Config.cxlBase + r * 0x1000000)
      if l.length + 1 = total then { m with mems := { m.mems with filled := none } } else m

/-- BACKGROUND_FILL. -/
def execBackgroundFill (s : State) : Host.Outcome State Fault Refusal :=
  whole (fun st => if st.tiersUp then { st with node := st.node.fillNext } else st) s

/-- A transfer on a channel failed its link CRC `repeats` times (R310): GDR_LINK.RETRY counts its repeats, of which there
are at most four, and the retraining that follows them. A channel that this does not restore is an uncorrectable event of
kind 3 (R320, R321). -/
def Node.retrainChannel (n : Node) (ch repeats : Nat) (ok : Bool) : Node :=
  let m : Node := { n with mems := { n.mems with
    gLink := setFld n.mems.gLink 32 16 (Nat.min 65535 (fld n.mems.gLink 32 16 + repeats)) } }
  if repeats = 5 ∧ !ok then (m.taint).ueRecord 3 1 ch 0 else m

/-- CHANNEL_RETRAIN. -/
def execChannelRetrain (ch : Nat) (r : CrcRepeats) (s : State) : Host.Outcome State Fault Refusal :=
  whole (fun st => if st.tiersUp then { st with node := st.node.retrainChannel ch r.repeats r.ok } else st) s

/-- Key of a write-back queue. -/
def wbKey (cxl : Bool) (unit : Nat) : Nat := if cxl then 128 + unit else unit

/-- The first word of the line at `a` that is uncorrectable where it is stored. -/
def Node.lineBad (n : Node) (a : Nat) : Option Nat := (span (a / 8) 8).find? fun w => n.storedEcc noView w == .bad

/-- Every word of the line at `a` is written back as corrected. -/
def Node.lineMend (n : Node) (a : Nat) : Node :=
  { n with mems := { n.mems with soft := (span (a / 8) 8).foldl (fun m w => Map.del m w) n.mems.soft } }

/-- A write-back (R318): the line is read again, corrected and written in one pair; where a word is now uncorrectable the
line is written poisoned and the word is an event of a read (R305). The correction was counted by the read that found it.
It waits while its CXL link is down (R317). -/
def Node.writeBack (n : Node) (k : Nat) : Node :=
  match Map.getD n.mems.wbq k [] with
  | [] => n
  | a :: rest =>
    if n.stalledAt a then n
    else
      let m : Node := { n with mems := { n.mems with wbq := Map.put n.mems.wbq k rest } }
      match m.lineBad a with
      | some w => (m.uncorrectable noView 0 (w * 8)).poison noView (a / 8)
      | none => m.lineMend a

/-- CORRECTION_WRITE_BACK. -/
def execCorrectionWriteBack (cxl : Bool) (unit : Nat) (up : List Upset) (s : State) : Host.Outcome State Fault Refusal :=
  whole (fun st => if st.tiersUp then { st with node := (st.node.upsets up).writeBack (wbKey cxl unit) } else st) s

/-- Lines that a scrubber walks over: all of GDDR7, or the populated CXL tier. -/
def Node.scrubLines (n : Node) (cxl : Bool) : Nat :=
  if cxl then (n.cxlLimit - Config.cxlBase) / 64 else Config.gddrEnd / 64

/-- The scrubber's next line from position `p`: regions that are not initialised are passed over (18 R534). -/
def Node.scrubLine (n : Node) (cxl : Bool) (p : Nat) : Nat → Option Nat
  | 0 => none
  | k + 1 =>
    if n.scrubLines cxl ≤ p then none
    else if cxl && !n.cxlFilled (Config.cxlBase + 64 * p) then n.scrubLine cxl ((p / 0x40000 + 1) * 0x40000) k
    else some p

/-- The scrubber's position moves past line `p`; at the end of the tier a pass is complete (R319, R322). -/
def Node.scrubPast (n : Node) (cxl : Bool) (p : Nat) : Node :=
  let more (w : Word) : Word := setFld w 16 16 (fld w 16 16 + 1)
  let last := (n.scrubLine cxl (p + 1) 1000000).isNone
  let m := n.mems
  { n with mems := if cxl then { m with cPos := if last then 0 else p + 1, cScrub := if last then more m.cScrub else m.cScrub }
                   else { m with gPos := if last then 0 else p + 1, gScrub := if last then more m.gScrub else m.gScrub } }

/-- The scrubber reads the line at `a` (R319): each word as R318 states; a line with a word that is uncorrectable is an
event of kind 1, which taints no step (R321). -/
def Node.scrubRead (n : Node) (a : Nat) : Node :=
  let m := (span (a / 8) 8).foldl (fun k w => (k.readStored noView w).2) n
  match n.lineBad a with
  | some w => m.ueAt noView 1 (w * 8)
  | none => m

/-- The scrubber's next step. A line behind a CXL link that is down waits (R317). -/
def Node.scrub (n : Node) (cxl : Bool) : Node :=
  let w := if cxl then n.mems.cScrub else n.mems.gScrub
  if fld w 0 10 = 0 then n
  else
    match n.scrubLine cxl (if cxl then n.mems.cPos else n.mems.gPos) 1000000 with
    | none => n
    | some p =>
      let a := (if cxl then Config.cxlBase else 0) + 64 * p
      if n.stalledAt a then n else (n.scrubPast cxl p).scrubRead a

/-- SCRUB. -/
def execScrub (cxl : Bool) (up : List Upset) (s : State) : Host.Outcome State Fault Refusal :=
  whole (fun st => if st.tiersUp then { st with node := (st.node.upsets up).scrub cxl } else st) s

end Sys2Proof.Machine
end

