-- ==== Sys2Proof/Machine/Mgmt.lean ====
section
/-! DEFINITION. Luna's interfaces (19 R556-R581, 21 R608, R609): signed commands, reads, images, attestation, the sideband
and the test access port. -/
namespace Sys2Proof.Machine

/-! ### Paths (R557-R559) -/

/-- Whether a path is served (R557): Weavo MGMT from phase 6, the copper port and the sideband from the end of phase 2, and
both of these in Dormant. -/
def State.served (s : State) (p : MPath) : Bool :=
  let dorm := s.chip.pins.pstate == 3 && !s.chip.boot.running
  s.reachable && (match p with
    | .weavo => s.node.on && s.node.cfg.isSome && decide (6 ≤ s.chip.boot.phase)
    | .copper | .i3c => s.node.on || dorm)

/-- Whether a sender is one that the module listens to (R558): on the sideband any; else an address that HOSTS names, or
any on the copper port while bring-up has stopped in phase 2. -/
def State.knows (s : State) (p : MPath) (host : Nat) : Bool :=
  p == .i3c || (match s.node.cfg with
    | none => p == .copper && s.chip.boot.err == 2
    | some c => c.hosts.any (·.addr == host))

/-- Change what the node holds. -/
def State.onNode (s : State) (f : Node → Node) : State := { s with node := f s.node }

/-- The IP address of the copper port (21 R614): the one that the base configuration gives; without a verified one the IPv6 link-local
address formed of its fused MAC address by the modified EUI-64 rule, FE80::/64 with FF:FE in the middle and the seventh bit
inverted. -/
def State.copperIp (s : State) : Nat :=
  match s.node.cfg with
  | some c => c.copper.2.1
  | none =>
    let m := leBytes s.chip.fuses.copperMac 6
    let eui := ((m.headD 0) ^^^ 2) :: (m.drop 1).take 2 ++ [0xFF, 0xFE] ++ m.drop 3
    leNat ([0xFE, 0x80, 0, 0, 0, 0, 0, 0] ++ eui)

/-- Whether the copper port runs 10GBASE-KR, else 1000BASE-KX, as it does without a verified base configuration (21 R614). The rate's
coding, 10 for 10 Gb/s, is the model's (log entry 103). -/
def State.copperTenG (s : State) : Bool := s.node.cfg.any fun c => c.copper.1 == 10

/-- A frame on the copper port is a MGMT message's (19 R557, 21 R614, 11 R332, R337, R339): it has that port's VLAN, and no link
header. -/
def Node.copperTakes (n : Node) (h : Header) : Bool :=
  h.frame.sumOk && h.frame.plain && h.frame.udpPort == fld n.tshCfg 16 16 && h.frame.vlan == n.cfg.elim 0 (·.copper.2.2)
    && h.frame.link.isNone && headOk h 0 false

/-- Let the module send. -/
def State.say (s : State) (o : Out) : State := s.onNode fun n => { n with out := n.out ++ [o] }

/-- A management message reaches Luna (R557, R558, 11 R332, R337, R339): whether it is served, and the state once its frame has passed
or failed the tests of its port. It is exempt from the node-table test; an address that is not a host's is discarded and
counted. -/
def State.reaches (s : State) (p : MPath) (h : Header) : Bool × State :=
  let host := h.frame.src
  match p with
  | .i3c => (s.served .i3c, s)
  | .copper =>
    if !s.served .copper then (false, s)
    else if s.node.copperTakes h && s.knows .copper host then (true, s)
    else (false, s.onNode Node.discardFrame)
  | .weavo =>
    let r := s.node.gate h 0 false (s.knows .weavo host)
    let t : State := { s with node := r.2 }
    if !r.1 || !t.served .weavo then (false, t)
    else if t.knows .weavo host then (true, t) else (false, t.onNode Node.discardFrame)

/-- Refuse a management message with a NAK. -/
def State.nakHost (s : State) (p : MPath) (h : Header) (code : Nat) : State := s.onNode (·.hostNak p h s.copperIp code)

/-- Answer a management message with a MGMT message of a kind and `len` payload bytes. -/
def State.answer (s : State) (p : MPath) (h : Header) (kind len : Nat) (mk : Option Packet → Out) : State :=
  s.onNode (·.hostSend p h s.copperIp 8 len (mgmtSpec kind) mk)

/-- A request of the management plane: not served, it gets no answer; in a version of Weavo other than 1 it is refused (11 R351). -/
def request (p : MPath) (h : Header) (f : State → State) (s : State) : Host.Outcome State Fault Refusal :=
  whole (fun st =>
    let r := st.reaches p h
    if !r.1 then r.2 else if p ≠ .i3c ∧ h.ver ≠ 1 then r.2.nakHost p h 1 else f r.2) s

/-- A request on the sideband alone. -/
def sidebandOnly (f : State → State) (s : State) : Host.Outcome State Fault Refusal :=
  whole (fun st => if st.served .i3c then f st else st) s

/-- An unsigned MGMT message: one whose KIND no host may send is refused with NAK code VERSION (R558). -/
def asked (a : Asker) (f : State → State) (s : State) : Host.Outcome State Fault Refusal :=
  request a.path a.h (fun st => if !a.odd then f st else st.nakHost a.path a.h 1) s

/-! ### Signed commands (R562-R565) -/

/-- What kind of key KEYIDX names (R561, R562): its number, and whether it lies in the configuration list (with role
COMMAND or not), in an owner slot (revoked or not), or is the provisioning key. -/
inductive KeyRef
  | list (key : Nat) (command : Bool)
  | owner (key : Nat) (revoked : Bool)
  | prov (key : Nat)
  deriving DecidableEq, Repr

/-- The key's number. -/
def KeyRef.num : KeyRef → Nat
  | .list k _ | .owner k _ | .prov k => k

/-- The key that KEYIDX names, if any. -/
def State.keyOf (s : State) (i : Nat) : Option KeyRef :=
  if i < 8 then
    match s.node.cfg.bind fun c => c.keys[i]? with
    | none => none
    | some k => some (.list k.key k.command)
  else if 0x10 ≤ i ∧ i < 0x14 then
    match s.chip.fuses.owners[i - 0x10]? with
    | some (some k, r) => some (.owner k r)
    | _ => none
  else if i = 0x20 then some (.prov s.chip.fuses.provKey)
  else none

/-- ENROL and REVOKE, which a configuration key may not sign. -/
def ownerOp (op : Nat) : Bool := op == 0x0E || op == 0x0F

/-- The bytes of an envelope before its signature (R562), which signs their SHA-384. -/
def signedBytes (e : Envelope) (op : Nat) (args : List Byte) : List Byte :=
  leBytes e.version 2 ++ leBytes (e.odd.getD op) 1 ++ leBytes e.keyidx 1 ++ leBytes e.arglen 4 ++ leBytes e.serial 8
    ++ leBytes e.session 8 ++ leBytes e.seq 8 ++ leBytes e.job 8 ++ leBytes e.resv 8 ++ args

/-- Whether an envelope's signature verifies with a key (R562; log entry 5). -/
def signedWith (e : Envelope) (op : Nat) (args : List Byte) (k : KeyRef) : Bool :=
  e.signer == some k.num && e.digest == sha384 (signedBytes e op args)

/-- Whether a REVOKE names the owner slot of its own signer: only another owner key may revoke one (R561). -/
def revokesSelf (e : Envelope) (op : Nat) (args : List Byte) : Bool :=
  op == 0x0F && decide (0x10 ≤ e.keyidx) && args == leBytes (e.keyidx - 0x10) 1

/-- The authority of a key for an opcode (R561, R565). -/
def State.mayPlace (s : State) (k : KeyRef) (op : Nat) : Bool :=
  match k with
  | .list _ cmd => cmd && !ownerOp op
  | .owner _ revoked => !revoked && (ownerOp op || s.node.cfg.isNone)
  | .prov _ => op == 0x0E && s.chip.fuses.owners.all (·.1.isNone)

/-- Opcodes that carry the job identity (R565). -/
def jobOp (op : Nat) : Bool := [0x01, 0x02, 0x03, 0x09, 0x0A, 0x10].contains op

/-- Opcodes accepted before ready (R565). -/
def earlyOp (op : Nat) : Bool := [0x05, 0x08, 0x0C, 0x0D, 0x0E, 0x0F].contains op

/-- The status with which a command is refused at the first check that fails, up to the state of bring-up (R563). `args` are its
argument bytes, as many as its opcode takes (R565). -/
def State.refuses (s : State) (e : Envelope) (op : Nat) (args : List Byte) : Option Nat :=
  if e.version ≠ 1 then some 1
  else if e.odd.isSome then some 9
  else if e.resv ≠ 0 ∨ e.arglen ≠ args.length ∨ (e.job ≠ 0 ∧ !jobOp op) then some 1
  else match (s.keyOf e.keyidx).filter (signedWith e op args) with
    | none => some 2
    | some k =>
      if !s.mayPlace k op || revokesSelf e op args then some 3
      else if e.serial ≠ s.chip.fuses.serial.toNat ∨ e.session ≠ s.chip.chr.bkpSession.toNat then some 4
      else if e.seq ≤ s.chip.sec.lastSeq.toNat then some 5
      else if jobOp op && (!s.node.job.loaded || s.node.job.id != e.job) then some 6
      else if !s.chip.boot.ready && !earlyOp op then some 7
      else none

/-- Answer a command (R564) with the OPCODE that it carries. -/
def State.respond (s : State) (e : Envelope) (op status : Nat) : State :=
  s.onNode (·.response e.path e.h s.copperIp (e.odd.getD op) status e.seq)

/-- A signed command: `chk` gives the status of its acceptance condition and arguments, zero where it is accepted; then
LAST_SEQ takes its SEQ, it is answered, and `eff` is its whole effect. -/
def command (e : Envelope) (op : Nat) (args : List Byte) (chk : State → Nat) (eff : State → State) (s : State) :
    Host.Outcome State Fault Refusal :=
  request e.path e.h (fun st =>
    match st.refuses e op args with
    | some k => st.respond e op k
    | none =>
      if chk st ≠ 0 then st.respond e op (chk st)
      else
        let st1 : State := { st with chip := { st.chip with sec := { st.chip.sec with lastSeq := BitVec.ofNat 64 e.seq } } }
        eff (st1.respond e op 0)) s

/-- Accepted whatever the state. -/
def always (_ : State) : Nat := 0

/-- Status 7 unless a condition holds. -/
def onlyIf (c : State → Bool) (s : State) : Nat := if c s then 0 else 7

/-- HOLD (03 R78). -/
def execHold (e : Envelope) (s : State) : Host.Outcome State Fault Refusal :=
  command e 0x01 [] always (·.onNode fun n => { n with job := { n.job with holdNext := true } }) s

/-- RELEASE (03 R78): only while a hold is pending, and never once the job is held. -/
def execRelease (e : Envelope) (s : State) : Host.Outcome State Fault Refusal :=
  command e 0x02 [] (onlyIf fun st => st.node.job.holdNext && !st.node.job.held) (·.onNode fun n => { n with job := { n.job with holdNext := false } }) s

/-- The management plane ends the job (03 R79): where an attempt runs, its module verdict is Abort (13 R405), which goes up the
tree, or at the root decides, before the job ends here. -/
def Node.endByCommand (n : Node) (h : Hwk) : Node :=
  if n.commit.running then
    let m := moduleVerdict h n.requestAbort
    if m.job.loaded then m.endJob else m
  else n.endJob

/-- END (03 R79). -/
def execEndJob (e : Envelope) (s : State) : Host.Outcome State Fault Refusal :=
  command e 0x03 [] always (fun st => st.onNode (·.endByCommand st.chip.hwk)) s

/-- The cap changes, and what now fits is admitted (15 R471, R475). -/
def State.setCap (s : State) (w : Nat) : State :=
  let h : Hwk := { s.chip.hwk with cap := w }
  let s1 : State := { s with chip := { s.chip with hwk := h } }
  if s1.governed then s1.onNode (·.admitFits h) else s1

/-- SET_CAP (15 R475). -/
def execSetCap (e : Envelope) (capW : Nat) (s : State) : Host.Outcome State Fault Refusal :=
  command e 0x04 (leBytes capW 2) (fun _ => if 800 ≤ capW ∧ capW ≤ 1600 then 0 else 8) (·.setCap capW) s

/-- RESET (R563, 17 R502): the answer goes out before the source asserts. -/
def execReset (e : Envelope) (source : Nat) (s : State) : Host.Outcome State Fault Refusal :=
  command e 0x05 (leBytes source 1) (fun _ => if source = 5 ∨ source = 6 then 0 else 8) (·.assertSource source 0) s

/-- TILE_RESET (17 R508). -/
def execTileReset (e : Envelope) (lt : Nat) (s : State) : Host.Outcome State Fault Refusal :=
  command e 0x06 (leBytes lt 2) (fun _ => if lt < Config.ltCount then 0 else 8) (·.assertSource 12 lt) s

/-- POWER (15 R479). -/
def execPower (e : Envelope) (target : Nat) (s : State) : Host.Outcome State Fault Refusal :=
  command e 0x07 (leBytes target 1) (fun st => if 3 < target then 8 else if st.mayPower target (e.path != .weavo) then 0 else 7)
    (·.beginPower target) s

/-- Clear VALID in both copies of the retained map. -/
def Chrys.dropCopies (c : Chrys) : Chrys :=
  { c with copyA := { c.copyA with valid := false }, copyB := { c.copyB with valid := false } }

/-- COLD_BOOT (18 R523). -/
def execColdBoot (e : Envelope) (s : State) : Host.Outcome State Fault Refusal :=
  command e 0x08 [] always (fun st => { st with chip := { st.chip with chr := st.chip.chr.dropCopies } }) s

/-- The counts return to the previous commit record (13 R420), which is then the current one (DEDUCED, log entry 72). The node
has made no state that the round of R419 could mirror, as after a LAUNCH (log entry 73). -/
def Node.rollback (n : Node) : Node :=
  { n with
    job := { n.job with fresh := true }
    commit := { n.commit with
      now := n.commit.prev, cur := n.commit.prev, sealed := false, kidsReady := [], readySent := false, released := false } }

/-- ROLLBACK (13 R420): only while the job is held and no persistent write has landed since the last Commit. -/
def execRollback (e : Envelope) (s : State) : Host.Outcome State Fault Refusal :=
  command e 0x09 [] (onlyIf fun st => st.node.job.held && !st.node.commit.pwritten) (·.onNode Node.rollback) s

/-- PUSH (13 R421): only where mirroring is in force. -/
def execPush (e : Envelope) (slot : Nat) (s : State) : Host.Outcome State Fault Refusal :=
  command e 0x0A (leBytes slot 1) (fun st => if 1 < slot then 8 else if bit st.node.gng.cfg 0 then 0 else 7) (·.onNode (·.pushSlot slot)) s

/-- The status of a WRITE_REG's arguments (R565, R579). The reserved fields of an occupied register are RO. -/
def State.writeRegStatus (s : State) (addr : Nat) (value mask_ : Word) : Nat :=
  if !inRegion addr then 8
  else if addr % 8 ≠ 0 then 0
  else
    let r := regAt addr
    let x := r.access
    let dbg := bit (value &&& mask_) 0 && !s.chip.sec.debug
    let guarded : Bool := match r with
      | .fdbgCtl => true
      | .tlc _ 0x008 => true
      | _ => false
    let fields := x.ro ||| x.w1c ||| x.rw ||| x.rwl ||| x.rc
    let fixed := if fields = 0 then 0 else x.ro ||| x.rwl ||| ~~~fields
    if fixed &&& mask_ ≠ 0 then 8 else if guarded && dbg then 8 else 0

/-- WRITE_REG (R565). -/
def execWriteReg (e : Envelope) (addr : Nat) (value mask : Word) (s : State) : Host.Outcome State Fault Refusal :=
  command e 0x0B (leBytes addr 8 ++ leBytes value.toNat 8 ++ leBytes mask.toNat 8) (fun st => st.writeRegStatus addr value mask) (·.writeReg addr 8 value mask) s

/-! ### Images (R566-R568) -/

/-- Slot `k` of the store. -/
def Sec.slot (c : Sec) (k : Nat) : Slot :=
  Map.getD c.slots k { bytes := [], signer := none, body := .none, active := false, next := false }

/-- The other slot of a pair. -/
def pairOf (k : Nat) : Nat := if k % 2 = 0 then k + 1 else k - 1

/-- Whether the image in slot `k` verifies (R567). -/
def State.slotVerifies (s : State) (k : Nat) : Bool :=
  let f := s.chip.fuses
  let x := s.chip.sec.slot k
  if k < 2 then x.verifies f 1 0 (x.fwSigned f)
  else if k < 4 then x.verifies f 2 0 (x.ownerSigned f)
  else
    let keys := match s.node.cfg with
      | none => []
      | some c => c.keys
    x.verifies f 3 ((k - 4) / 2) (x.listSigned keys)

/-- Mark slot `k` active from the next sequence on, and the other of its pair not. -/
def Sec.activate (c : Sec) (k : Nat) : Sec :=
  let s1 := Map.put c.slots k { c.slot k with next := true }
  { c with slots := Map.put s1 (pairOf k) { c.slot (pairOf k) with next := false } }

/-- ACTIVATE (R568). -/
def execActivate (e : Envelope) (slot : Nat) (s : State) : Host.Outcome State Fault Refusal :=
  command e 0x0C (leBytes slot 1) (fun st => if 11 < slot then 8 else if (st.chip.sec.slot slot).next then 7
      else if st.slotVerifies slot then 0 else 8)
    (fun st => { st with chip := { st.chip with sec := st.chip.sec.activate slot } }) s

/-- SELECT_MODE (R577). -/
def execSelectMode (e : Envelope) (mode : Nat) (s : State) : Host.Outcome State Fault Refusal :=
  command e 0x0D (leBytes mode 1) (fun _ => if mode ≤ 3 then 0 else 8)
    (fun st => { st with chip := { st.chip with sec := { st.chip.sec with modeNext := some mode } } }) s

/-- The lowest empty owner slot. -/
def Fuses.emptyOwner (f : Fuses) : Option Nat := (List.range 4).find? fun i => (f.owners[i]?).any (·.1.isNone)

/-- ENROL (R561). -/
def execEnrol (e : Envelope) (hash : Nat) (s : State) : Host.Outcome State Fault Refusal :=
  command e 0x0E (leBytes hash 48) (onlyIf fun st => st.chip.fuses.emptyOwner.isSome)
    (fun st =>
      let f := st.chip.fuses
      match f.emptyOwner with
      | none => st
      | some i => { st with chip := { st.chip with fuses := { f with
          owners := f.owners.set i (some hash, ((f.owners[i]?).map (·.2)).getD false) } } }) s

/-- REVOKE (R561). -/
def execRevoke (e : Envelope) (slot : Nat) (s : State) : Host.Outcome State Fault Refusal :=
  command e 0x0F (leBytes slot 1) (fun _ => if 3 < slot then 8 else 0)
    (fun st =>
      let f := st.chip.fuses
      { st with chip := { st.chip with fuses := { f with
          owners := f.owners.set slot ((f.owners[slot]?).bind (·.1), true) } } }) s

/-- START (03 R80): on node 0 of a job that has not started or is held; it goes to the children and is handled here. -/
def execStart (e : Envelope) (s : State) : Host.Outcome State Fault Refusal :=
  command e 0x10 [] (onlyIf fun st => st.node.job.node == 0 && st.node.startable)
    (fun st => st.onNode fun n => n.takeStart n.self n.count32 n.commit.epoch st.chip.hwk) s

/-! ### Reads and image fragments (R558, R559, R568) -/

/-- Read `k` consecutive registers from `a`, each by itself (20 R587). -/
def State.readRegs (s : State) (a : Nat) : Nat → List Word × State
  | 0 => ([], s)
  | k + 1 =>
    let (w, s1) := s.readReg a
    let (ws, s2) := s1.readRegs (a + 8) k
    (w :: ws, s2)

/-- READ (R558, R559): a word count of 0 or above 1,024 is refused with NAK code VERSION. The sideband carries none. -/
def execRead (a : Asker) (addr count : Nat) (s : State) : Host.Outcome State Fault Refusal :=
  asked a (fun st =>
    if a.path = .i3c then st
    else if count = 0 ∨ 1024 < count then st.nakHost a.path a.h 1
    else
      let (ws, st1) := st.readRegs addr count
      st1.answer a.path a.h 4 (8 * count) (.readData a.path a.host a.ctx ws)) s

/-- Bytes that the store holds. -/
def Sec.stored (c : Sec) : Nat := sumOf (fun kv : Nat × Slot => kv.2.bytes.length) c.slots

/-- The status of an IMAGE fragment (R566, R568): there is no slot above 11, the store has 256 MiB, and only an inactive slot that no
activation names is written. The store's division among the slots the spec does not give: a fragment is a bad argument that ends
past 256 MiB or for which the store has no room (DESIGN CHOICE, log entry 104). -/
def Sec.imageStatus (c : Sec) (k addr len : Nat) : Nat :=
  if 11 < k ∨ Config.storeBytes < addr + len ∨ Config.storeBytes < c.stored + len then 8
  else if (c.slot k).next || ((c.slot k).active && !(c.slot (pairOf k)).next) then 7
  else 0

/-- IMAGE (R558, R568): the bytes are written at their place; a payload above 8,192 bytes is discarded (11 R339). `signer` and `body`
say what the image, as it now stands, verifies and decodes as. The answer's OPCODE, which is not 0x00 (R565), and its SEQ are free
values. -/
def execImage (a : Asker) (slot addr : Nat) (data : List Byte) (signer : Option Nat) (body : ImageBody) (s : State) :
    Host.Outcome State Fault Refusal :=
  asked a (fun st =>
    if a.path = .i3c then st
    else if 8192 < data.length then st.onNode Node.discardFrame
    else
      let k := st.chip.sec.imageStatus slot addr data.length
      let x := st.chip.sec.slot slot
      let y : Slot := { x with bytes := putRun x.bytes addr data, signer := signer, body := body }
      let st1 : State := if k ≠ 0 then st else
        { st with chip := { st.chip with sec := { st.chip.sec with slots := Map.put st.chip.sec.slots slot y } } }
      let f := st1.node.free
      st1.onNode fun n => ({ n with free := n.free + 2 } : Node).response a.path a.h st.copperIp
        (1 + Config.freeField f 0 % 255) k (Config.freeField (f + 1) 0)) s

/-! ### Attestation (R571-R574) -/

/-- Block `i` of the measurements (R572), 1 to 6. -/
def State.block (s : State) (i : Nat) : BitVec 384 :=
  if i = 6 then (if s.node.job.loaded then s.node.job.planHash else 0) else (s.chip.sec.meas[i - 1]?).getD 0

/-- The digest of the certificate chain of slot 0 (R574). -/
def State.chainDigest (s : State) : BitVec 384 := sha384 (certChain s.chip.fuses s.chip.sec.meas)

/-- Answer an SPDM request (R571, R558 kind 6). -/
def State.spdmSay (s : State) (a : Asker) (kind : Nat) (content : List (BitVec 384)) (signed : Bool) : State :=
  s.answer a.path a.h 6 (Config.spdmBytes kind) (.spdm a kind content signed)

/-- An SPDM request that needs negotiation state `need`: `f` answers, or an ERROR does. Kinds are the SPDM response
codes. -/
def spdm (a : Asker) (need : Nat) (ok : Bool) (f : State → State) (s : State) : Host.Outcome State Fault Refusal :=
  asked a (fun st =>
    if st.chip.sec.spdm < need || !ok then st.spdmSay a 0x7F [] false else f st) s

/-- The negotiation has come to state `k`. -/
def State.spdmTo (s : State) (k : Nat) : State := { s with chip := { s.chip with sec := { s.chip.sec with spdm := k } } }

/-- GET_VERSION: SPDM 1.3. -/
def execGetVersion (a : Asker) (s : State) : Host.Outcome State Fault Refusal :=
  spdm a 0 true (fun st => (st.spdmTo 1).spdmSay a 0x04 [0x13] false) s

/-- GET_CAPABILITIES. -/
def execGetCapabilities (a : Asker) (s : State) : Host.Outcome State Fault Refusal :=
  spdm a 1 true (fun st => (st.spdmTo (Nat.max 2 st.chip.sec.spdm)).spdmSay a 0x61 [] false) s

/-- NEGOTIATE_ALGORITHMS: the only ones are ECDSA P-384 and SHA-384. -/
def execNegotiateAlgorithms (a : Asker) (ecdsaP384 sha384 : Bool) (s : State) : Host.Outcome State Fault Refusal :=
  spdm a 2 (ecdsaP384 && sha384) (fun st => (st.spdmTo 3).spdmSay a 0x63 [] false) s

/-- GET_DIGESTS: of the one chain, in slot 0. -/
def execGetDigests (a : Asker) (s : State) : Host.Outcome State Fault Refusal :=
  spdm a 3 true (fun st => st.spdmSay a 0x01 [st.chainDigest] false) s

/-- GET_CERTIFICATE (R574). -/
def execGetCertificate (a : Asker) (slot : Nat) (s : State) : Host.Outcome State Fault Refusal :=
  spdm a 3 (slot == 0) (fun st =>
    st.spdmSay a 0x02 (pieces48 (certChain st.chip.fuses st.chip.sec.meas)) false) s

/-- CHALLENGE: answered with the alias key's signature over the chain's digest and the nonce. -/
def execChallenge (a : Asker) (slot nonce : Nat) (s : State) : Host.Outcome State Fault Refusal :=
  spdm a 3 (slot == 0) (fun st => st.spdmSay a 0x03 [st.chainDigest, BitVec.ofNat 384 nonce] true) s

/-- GET_MEASUREMENTS (R572): index 0 asks for the number of blocks, 255 for all of them, 1 to 6 for one. -/
def execGetMeasurements (a : Asker) (index : Nat) (signed : Bool) (nonce : Nat) (s : State) :
    Host.Outcome State Fault Refusal :=
  spdm a 3 (decide (index ≤ 6) || index == 255) (fun st =>
    let c : List (BitVec 384) := if index = 0 then [6] else if index = 255 then (span 1 6).map st.block else [st.block index]
    st.spdmSay a 0x60 (c ++ (if signed then [BitVec.ofNat 384 nonce] else [])) signed) s

/-! ### MCTP control and PLDM over I3C (R560) -/

/-- A request on the sideband, answered with a content that the state gives; it changes nothing else. -/
def sideband (kind : Nat) (f : State → List Nat) (s : State) : Host.Outcome State Fault Refusal :=
  sidebandOnly (fun st => st.say (.mctp kind (f st))) s

/-- Content whose value the spec does not state: free. -/
def sidebandFree (kind : Nat) (s : State) : Host.Outcome State Fault Refusal :=
  sidebandOnly (fun st => (st.say (.mctp kind [Config.freeField st.node.free kind])).onNode Node.takeFree) s

/-- SET_ENDPOINT_ID: 0 and 255 name no endpoint. -/
def execSetEndpointId (eid : Nat) (s : State) : Host.Outcome State Fault Refusal :=
  sidebandOnly (fun st =>
    if eid = 0 ∨ 255 ≤ eid then st.say (.mctp 0x01 [])
    else ({ st with chip := { st.chip with sec := { st.chip.sec with eid := eid } } } : State).say (.mctp 0x01 [eid])) s

/-- GET_ENDPOINT_ID. -/
def execGetEndpointId (s : State) : Host.Outcome State Fault Refusal := sideband 0x02 (fun st => [st.chip.sec.eid]) s

/-- GET_MCTP_VERSION_SUPPORT. -/
def execGetMctpVersionSupport (s : State) : Host.Outcome State Fault Refusal := sidebandFree 0x04 s

/-- GET_MESSAGE_TYPE_SUPPORT: MCTP control, PLDM, SPDM and vendor-defined type 0x7F (R557). -/
def execGetMessageTypeSupport (s : State) : Host.Outcome State Fault Refusal := sideband 0x05 (fun _ => [0, 1, 5, 0x7F]) s

/-- Kind of a PLDM answer: type and command. -/
def pldm (type cmd : Nat) : Nat := 0x10000 + 256 * type + cmd

/-- GET_TID. -/
def execGetTid (s : State) : Host.Outcome State Fault Refusal := sidebandFree (pldm 0 0x02) s

/-- GET_PLDM_VERSION. -/
def execGetPldmVersion (s : State) : Host.Outcome State Fault Refusal := sidebandFree (pldm 0 0x03) s

/-- GET_PLDM_TYPES: types 0, 2 and 4 and no other. -/
def execGetPldmTypes (s : State) : Host.Outcome State Fault Refusal := sideband (pldm 0 0x04) (fun _ => [0, 2, 4]) s

/-- The commands of a PLDM type. -/
def pldmCommands : Nat → List Nat
  | 0 => [0x02, 0x03, 0x04, 0x05]
  | 2 => [0x0B, 0x11, 0x21, 0x51]
  | 4 => [0x01, 0x02]
  | _ => []

/-- GET_PLDM_COMMANDS. -/
def execGetPldmCommands (type : Nat) (s : State) : Host.Outcome State Fault Refusal :=
  sideband (pldm 0 0x05) (fun _ => pldmCommands type) s

/-- GET_PDR: the record of a sensor, numeric or of state. -/
def execGetPdr (handle : Nat) (s : State) : Host.Outcome State Fault Refusal :=
  sideband (pldm 2 0x51) (fun _ => if handle < 67 then [handle, 0] else if handle < 69 then [handle, 1] else []) s

/-- The value of a numeric sensor: 64 tile-group temperatures, X, main and auxiliary power of the tap. -/
def State.sensor (s : State) (i : Nat) : List Nat :=
  if i < 64 then [(s.node.tg i).temp]
  else match i with
    | 64 => [s.node.xtemp]
    | 65 => [s.chip.meter.pMain]
    | 66 => [s.chip.meter.pAux]
    | _ => []

/-- GET_SENSOR_READING. -/
def execGetSensorReading (id : Nat) (s : State) : Host.Outcome State Fault Refusal := sideband (pldm 2 0x11) (·.sensor id) s

/-- GET_STATE_SENSOR_READINGS: power state and bring-up phase. -/
def execGetStateSensorReadings (id : Nat) (s : State) : Host.Outcome State Fault Refusal :=
  sideband (pldm 2 0x21) (fun st => match id with
    | 67 => [st.chip.pins.pstate]
    | 68 => [st.chip.boot.shown]
    | _ => []) s

/-- POLL_FOR_PLATFORM_EVENT_MESSAGE: an event of the ring; since PLDM changes no state, which one is a free value. -/
def execPollForPlatformEventMessage (s : State) : Host.Outcome State Fault Refusal :=
  sidebandOnly (fun st =>
    let ev := st.node.events
    let c : List Nat := match ev[Config.freeField st.node.free 0 % ev.length]? with
      | none => []
      | some e => e.2.bytes.map (·.toNat)
    (st.say (.mctp (pldm 2 0x0B) c)).onNode Node.takeFree) s

/-- GET_FRU_RECORD_TABLE_METADATA. -/
def execGetFruRecordTableMetadata (s : State) : Host.Outcome State Fault Refusal := sidebandFree (pldm 4 0x01) s

/-- GET_FRU_RECORD_TABLE: part number OCN-QJ1-32, serial number, die identities. -/
def execGetFruRecordTable (s : State) : Host.Outcome State Fault Refusal :=
  sideband (pldm 4 0x02) (fun st =>
    [79, 67, 78, 45, 81, 74, 49, 45, 51, 50] ++ [st.chip.fuses.serial.toNat]
      ++ (List.range 3).map fun d => (Map.getD st.chip.fuses.dieId d 0).toNat) s

/-! ### I3C addresses, the meter's own bus, the test access port (21 R608, R609, 16 R498) -/

/-- The module takes a dynamic address. -/
def State.takeAddr (s : State) (a : Nat) : State := { s with chip := { s.chip with sec := { s.chip.sec with dynAddr := some a } } }

/-- ENTDAA. -/
def execEntdaa (addr : Nat) (s : State) : Host.Outcome State Fault Refusal :=
  whole (fun st => if st.served .i3c then st.takeAddr addr else st) s

/-- SETDASA: for the static address that the straps give. -/
def execSetdasa (static addr : Nat) (s : State) : Host.Outcome State Fault Refusal :=
  whole (fun st => if st.served .i3c && static == 0x30 + st.chip.pins.straps then st.takeAddr addr else st) s

/-- METER_I3C_READ (16 R498): the SPX register at an offset of three bytes from the block's base. -/
def execMeterI3cRead (offset : Nat) (s : State) : Host.Outcome State Fault Refusal :=
  whole (fun st => if st.chip.meter.running then
      st.say (.meterWord (if offset % 8 = 0 then st.chip.meter.spxWord (spxAt (offset % 2 ^ 24)) else 0))
    else st) s

/-- SUPPLY_GLITCH (R580 kind 2). -/
def execSupplyGlitch (s : State) : Host.Outcome State Fault Refusal := whole (·.violate 2) s

/-- TAP_INSTRUCTION (21 R609, R579, R580): SAMPLE/PRELOAD takes the pins into the boundary-scan register; a secure instruction is a
violation while DEBUG is 0 and is loaded while DEBUG is 1. -/
def execTapInstruction (i : Nat) (s : State) : Host.Outcome State Fault Refusal :=
  if i < 4 || s.chip.sec.debug then
    .next { s with chip := { s.chip with sec := { s.chip.sec with
      tapReset := false, tapInstr := i, scan := if i = 2 then s.pads else s.chip.sec.scan } } }
  else whole (·.violate 1) s

/-- TEST_LOGIC_RESET (21 R609): IEEE 1149.1 then loads IDCODE. -/
def execTestLogicReset (s : State) : Host.Outcome State Fault Refusal :=
  onChip (fun c => { c with sec := { c.sec with tapReset := true, tapInstr := 1 } }) s

end Sys2Proof.Machine
end

