-- ==== Sys2Proof/Machine/Vector.lean ====
section
/-! DEFINITION. The vector unit (05 R173-R181): loads and stores of registers, lanes, conversions, lane movement and
top-k. -/
namespace Sys2Proof.Machine

/-! ### Registers -/

/-- Lane `i` of width `w` of a register. -/
def lane (v : VReg) (w i : Nat) : Nat := bits v.toNat (w * i) w

/-- The register whose lanes of width `w` are a list of values. -/
def ofLanes (w : Nat) (ls : List Nat) : VReg :=
  BitVec.ofNat 1024 ((ls.zip (List.range ls.length)).foldl (fun s xi => s + xi.1 % 2 ^ w * 2 ^ (w * xi.2)) 0)

/-- A register with `len` bits from bit `lo` replaced. -/
def putBits (v : VReg) (lo len x : Nat) : VReg :=
  let n := v.toNat
  BitVec.ofNat 1024 (n - bits n lo len * 2 ^ lo + x % 2 ^ len * 2 ^ lo)

/-- An instruction whose effect is on the registers of its thread and on TLC_FLAGS: VOVF where `f` says overflow, VINV
where it says invalid. -/
def vecIssue (x : Site) (cost : Nat) (bad : Bool) (regs : List Nat) (f : Thread → Thread × Bool × Bool) (n : Node) : Node :=
  n.issueAt x cost bad (vBusy x regs) fun m =>
    let r := f (m.thread x.tile x.thr)
    (m.setThread x.tile x.thr r.1.step).modTile x.tile fun t => (t.flagIf r.2.1 3).flagIf r.2.2 4

/-! ### VLD and VST (R173) -/

/-- The effective offset of a vector access. -/
def vea (n : Node) (x : Site) (ra : Fin 32) (off : BitVec 32) : Nat := (((n.thread x.tile x.thr).getS ra) + sext off).toNat

/-- Cost by alignment. -/
def vcost (a : Nat) : Nat := if a % 128 = 0 then 1 else 2

/-- A vector access: out of range above 0x7_FF80. -/
def vaccess (x : Site) (ra : Fin 32) (off : BitVec 32) (reg : Nat) (go : Nat → Node → Node) (n : Node) : Node :=
  let a := vea n x ra off
  n.issueAt x (vcost a) false (vBusy x [reg]) fun m =>
    if 0x7FF80 < a then m.outOfRange x (sramAddr (ltOf x.tile) (a % 2 ^ 48))
    else (go (sramAddr (ltOf x.tile) a) m).advance x

/-- VLD. -/
def execVld (x : Site) (vd ra : Fin 32) (off : BitVec 32) (s : State) : Host.Outcome State Fault Refusal :=
  lift (vaccess x ra off vd fun a m =>
    ((m.touchWords x.tile (wordsOf a 128)).modThread x.tile x.thr fun th =>
      th.setV vd (BitVec.ofNat 1024 (m.rdNat x.tile a 128))).takeFree) s

/-- VST. -/
def execVst (x : Site) (vs ra : Fin 32) (off : BitVec 32) (s : State) : Host.Outcome State Fault Refusal :=
  lift (vaccess x ra off vs fun a m =>
    m.tileStore x.tile a (leBytes ((m.thread x.tile x.thr).getV vs).toNat 128)) s

/-! ### Lane arithmetic (R174-R176) -/

/-- The floating-point format of a lane type; none for an integer type. -/
def laneFmt : Nat → Option FloatFmt
  | 0 => some bf16
  | 1 => some fp16
  | 2 => some fp32
  | _ => none

/-- Width of a lane type. -/
def laneWidth (t : Nat) : Nat := if t = 2 ∨ t = 4 then 32 else 16

/-- A lane's bits with the overflow and invalid flags that making it sets. -/
abbrev LaneRes := Nat × Bool × Bool

/-- A floating-point lane: an exact value and its invalid flag, rounded once. -/
def fpLane (f : FloatFmt) (o : VOpts) (r : Val × Bool) : LaneRes :=
  let e := f.encode o.rm.toNat o.ov 0 r.1
  (e.bits, e.ovf, r.2)

/-- An integer lane: an exact result that leaves its range sets VOVF, and wraps or saturates (R175). -/
def intLane (w : Nat) (o : VOpts) (x : Int) : LaneRes :=
  let y := clampInt w x
  (wrap (if o.ov then y else x) w, decide (y ≠ x), false)

/-- Apply a lane function to all lanes of va, vb and the old vd. -/
def mapLanes (w : Nat) (vd va vb : VReg) (f : Nat → Nat → Nat → LaneRes) : VReg × Bool × Bool :=
  let rs := (List.range (1024 / w)).map fun i => f (lane va w i) (lane vb w i) (lane vd w i)
  (ofLanes w (rs.map (·.1)), rs.any (·.2.1), rs.any (·.2.2))

/-- Whether the fields of an arithmetic instruction are reserved: T above 4; RM above 4 for floating point and any for
integers (R174, R175). -/
def arithBad (o : VOpts) : Bool :=
  decide (5 ≤ o.t.toNat) || (if o.t.toNat ≤ 2 then decide (5 ≤ o.rm.toNat) else o.rm != 0)

/-- Opcode 0x21 over lanes. -/
def vlanes (x : Site) (bad : Bool) (vd va vb : Fin 32) (o : VOpts) (f : Nat → Nat → Nat → LaneRes) (n : Node) : Node :=
  let w := laneWidth o.t.toNat
  vecIssue x (w / 16) bad [vd, va, vb] (fun th =>
    let r := mapLanes w (th.getV vd) (th.getV va) (th.getV vb) f
    (th.setV vd r.1, r.2)) n

/-- An arithmetic lane from its exact floating-point and integer forms. -/
def arith (o : VOpts) (ff : Val → Val → Val → Val × Bool) (fi : Int → Int → Int → Int) (a b d : Nat) : LaneRes :=
  match laneFmt o.t.toNat with
  | some f => fpLane f o (ff (f.decode a) (f.decode b) (f.decode d))
  | none => let w := laneWidth o.t.toNat; intLane w o (fi (sgn a w) (sgn b w) (sgn d w))

/-- VADD: a + b. -/
def execVadd (x : Site) (vd va vb : Fin 32) (o : VOpts) (s : State) : Host.Outcome State Fault Refusal :=
  lift (vlanes x (arithBad o) vd va vb o (arith o (fun a b _ => a.add b) fun a b _ => a + b)) s

/-- VSUB: a − b, the sum of a and −b (06 R204). -/
def execVsub (x : Site) (vd va vb : Fin 32) (o : VOpts) (s : State) : Host.Outcome State Fault Refusal :=
  lift (vlanes x (arithBad o) vd va vb o (arith o (fun a b _ => a.add b.neg) fun a b _ => a - b)) s

/-- VMUL: a × b. -/
def execVmul (x : Site) (vd va vb : Fin 32) (o : VOpts) (s : State) : Host.Outcome State Fault Refusal :=
  lift (vlanes x (arithBad o) vd va vb o (arith o (fun a b _ => a.mul b) fun a b _ => a * b)) s

/-- VFMA: a × b + d, rounded once. -/
def execVfma (x : Site) (vd va vb : Fin 32) (o : VOpts) (s : State) : Host.Outcome State Fault Refusal :=
  lift (vlanes x (arithBad o) vd va vb o (arith o (fun a b d => a.fma b d) fun a b d => a * b + d)) s

/-- Whether RM, OV or T of VMAX or VMIN is reserved. -/
def pickBad (o : VOpts) : Bool := decide (5 ≤ o.t.toNat) || o.rm != 0 || o.ov

/-- The lane that VMAX or VMIN picks (06 R205): `less` says that its first argument lies below its second. -/
def pickLane (max : Bool) (t : Nat) (a b : Nat) : LaneRes :=
  match laneFmt t with
  | some f =>
    let va := f.decode a
    let vb := f.decode b
    if va = .nan then (if vb = .nan then f.nan.getD 0 else b, false, false)
    else if vb = .nan then (a, false, false)
    else (if (if max then va.lt vb else vb.lt va) then b else a, false, false)
  | none =>
    let w := laneWidth t
    (if (if max then decide (sgn a w < sgn b w) else decide (sgn b w < sgn a w)) then b else a, false, false)

/-- VMAX. -/
def execVmax (x : Site) (vd va vb : Fin 32) (o : VOpts) (s : State) : Host.Outcome State Fault Refusal :=
  lift (vlanes x (pickBad o) vd va vb o fun a b _ => pickLane true o.t.toNat a b) s

/-- VMIN. -/
def execVmin (x : Site) (vd va vb : Fin 32) (o : VOpts) (s : State) : Host.Outcome State Fault Refusal :=
  lift (vlanes x (pickBad o) vd va vb o fun a b _ => pickLane false o.t.toNat a b) s

/-- VAND, VOR, VXOR: all 1,024 bits; T, RM and OV are reserved. -/
def vlogic (x : Site) (vd va vb : Fin 32) (o : VOpts) (f : VReg → VReg → VReg) (n : Node) : Node :=
  vecIssue x 1 (o.t != 0 || o.rm != 0 || o.ov) [vd, va, vb]
    (fun th => (th.setV vd (f (th.getV va) (th.getV vb)), false, false)) n

/-- VAND. -/
def execVand (x : Site) (vd va vb : Fin 32) (o : VOpts) (s : State) : Host.Outcome State Fault Refusal :=
  lift (vlogic x vd va vb o (· &&& ·)) s

/-- VOR. -/
def execVor (x : Site) (vd va vb : Fin 32) (o : VOpts) (s : State) : Host.Outcome State Fault Refusal :=
  lift (vlogic x vd va vb o (· ||| ·)) s

/-- VXOR. -/
def execVxor (x : Site) (vd va vb : Fin 32) (o : VOpts) (s : State) : Host.Outcome State Fault Refusal :=
  lift (vlogic x vd va vb o (· ^^^ ·)) s

/-- Whether the fields of a shift are reserved: integer types only, RM and OV zero (R174, R175). -/
def shiftTypeBad (o : VOpts) : Bool := (o.t != 3 && o.t != 4) || o.rm != 0 || o.ov

/-- A shift by b mod lane width. -/
def vshift (x : Site) (vd va vb : Fin 32) (o : VOpts) (f : Nat → Nat → Nat → Nat) (n : Node) : Node :=
  let w := laneWidth o.t.toNat
  vlanes x (shiftTypeBad o) vd va vb o (fun a b _ => (f w a (b % w) % 2 ^ w, false, false)) n

/-- VSHL. -/
def execVshl (x : Site) (vd va vb : Fin 32) (o : VOpts) (s : State) : Host.Outcome State Fault Refusal :=
  lift (vshift x vd va vb o fun _ a k => a * 2 ^ k) s

/-- VSHR: zero fill. -/
def execVshr (x : Site) (vd va vb : Fin 32) (o : VOpts) (s : State) : Host.Outcome State Fault Refusal :=
  lift (vshift x vd va vb o fun _ a k => a / 2 ^ k) s

/-- VSRA: sign fill. -/
def execVsra (x : Site) (vd va vb : Fin 32) (o : VOpts) (s : State) : Host.Outcome State Fault Refusal :=
  lift (vshift x vd va vb o fun w a k => wrap (sgn a w / 2 ^ k) w) s

/-! ### VCVT (R177, R178) -/

/-- The type of a VCVT code. -/
def cvtType : Nat → Option Elem
  | 0 => some (.fp fp32)
  | 1 => some (.fp fp16)
  | 2 => some (.fp bf16)
  | 3 => some (.fp e4m3)
  | 4 => some (.fp e5m2)
  | 5 => some (.fp e3m2)
  | 6 => some (.fp e2m3)
  | 7 => some (.fp e2m1)
  | 8 => some (.int 32)
  | 9 => some (.int 16)
  | 10 => some (.int 8)
  | 11 => some (.int 4)
  | _ => none

/-- Number of elements of a conversion between widths. -/
def cvtCount (a b : Nat) : Nat := if a = 32 ∨ b = 32 then 32 else 64

/-- The group that a side of width `a` uses beside one of width `b`. -/
def cvtGroup (a b part : Nat) : Nat := if a ≤ b then part else 0

/-- Whether a conversion is a reserved encoding. -/
def cvtBad (st dt : BitVec 4) (part : BitVec 2) (rm : BitVec 3) (ra rb rc : Fin 32) : Bool :=
  match cvtType st.toNat, cvtType dt.toNat with
  | some a, some b =>
    let n := cvtCount a.width b.width
    let g (w v : Nat) : Bool := decide (1024 < (cvtGroup w v part.toNat + 1) * n * w)
    decide (6 ≤ rm.toNat) || (rm != 5 && (ra != 0 || rb != 0 || rc != 0)) || g a.width b.width || g b.width a.width
  | _, _ => true

/-- The registers and flags after a conversion. -/
def cvt (n : Node) (a b : Elem) (vd vs part rm : Nat) (ov : Bool) (ra rb rc : Nat) (th : Thread) : Thread × Bool × Bool :=
  let cnt := cvtCount a.width b.width
  let src := (th.getV vs).toNat >>> (cvtGroup a.width b.width part * cnt * a.width)
  let u (e : Nat) : Nat := if rm = 5 then
      (srHash n.job.seed n.stepCount ((th.getS ra).setWidth 32) (th.getS rb + BitVec.ofNat 64 e * th.getS rc)).toNat
    else 0
  let rs := (List.range cnt).map fun e => b.encode rm ov (u e) (a.decode (bits src (a.width * e) a.width))
  let out := (ofLanes b.width (rs.map (·.bits))).toNat
  (th.setV vd (putBits (th.getV vd) (cvtGroup b.width a.width part * cnt * b.width) (cnt * b.width) out),
   rs.any (·.ovf), rs.any (·.inv))

/-- VCVT. -/
def execVcvt (x : Site) (st dt : BitVec 4) (vd vs : Fin 32) (part : BitVec 2) (rm : BitVec 3) (ov : Bool)
    (ra rb rc : Fin 32) (s : State) : Host.Outcome State Fault Refusal :=
  lift (fun n =>
    let a := (cvtType st.toNat).getD (.int 16)
    let b := (cvtType dt.toNat).getD (.int 16)
    vecIssue x (if a.width = 32 ∨ b.width = 32 then 2 else 1) (cvtBad st dt part rm ra rb rc) [vd, vs]
      (cvt n a b vd vs part.toNat rm.toNat ov ra rb rc) n) s

/-! ### Lane movement (R179) -/

/-- VANYNF: whether any lane of a floating-point type is an infinity or NaN. -/
def execVanynf (x : Site) (pd : Fin 8) (vs : Fin 32) (t : BitVec 3) (s : State) : Host.Outcome State Fault Refusal :=
  lift (vecIssue x 1 (decide (3 ≤ t.toNat)) [vs] fun th =>
    let f := (laneFmt t.toNat).getD bf16
    (th.setP pd ((List.range (1024 / f.w)).any fun i => (f.decode (lane (th.getV vs) f.w i)).special), false, false)) s

/-- VMOVS: rd takes 64 bits of vs. -/
def execVmovs (x : Site) (rd vs : Fin 32) (l : BitVec 4) (s : State) : Host.Outcome State Fault Refusal :=
  lift (vecIssue x 1 false [vs] fun th => (th.setS rd (BitVec.ofNat 64 (lane (th.getV vs) 64 l.toNat)), false, false)) s

/-- VBCAST: every lane takes the low bits of rs. -/
def execVbcast (x : Site) (vd rs : Fin 32) (t : BitVec 3) (s : State) : Host.Outcome State Fault Refusal :=
  lift (vecIssue x 1 (decide (5 ≤ t.toNat)) [vd] fun th =>
    let w := laneWidth t.toNat
    (th.setV vd (ofLanes w (List.replicate (1024 / w) (th.getS rs).toNat)), false, false)) s

/-- VINS: 64 bits of vd take rs. -/
def execVins (x : Site) (vd rs : Fin 32) (l : BitVec 4) (s : State) : Host.Outcome State Fault Refusal :=
  lift (vecIssue x 1 false [vd] fun th =>
    (th.setV vd (putBits (th.getV vd) (64 * l.toNat) 64 (th.getS rs).toNat), false, false)) s

/-! ### Top-k (R180, R181) -/

/-- The valid entries of a top-k state: FP32 value and index; a NaN is dropped. -/
def topkEntries (v : VReg) : List (Nat × Nat) :=
  let c := Nat.min 8 (bits v.toNat 768 4)
  ((List.range c).map fun i => (bits v.toNat (32 * i) 32, bits v.toNat (256 + 64 * i) 64)).filter
    fun e => fp32.decode e.1 != .nan

/-- Whether entry `a` comes before `b`: better value first, then the lower index. -/
def topkBefore (small : Bool) (a b : Nat × Nat) : Bool :=
  let x := fp32.decode a.1
  let y := fp32.decode b.1
  if (if small then x.lt y else y.lt x) then true
  else if (if small then y.lt x else x.lt y) then false
  else decide (a.2 < b.2)

/-- Put an entry into an ordered list. -/
def topkInsert (small : Bool) (e : Nat × Nat) : List (Nat × Nat) → List (Nat × Nat)
  | [] => [e]
  | h :: t => if topkBefore small e h then e :: h :: t else h :: topkInsert small e t

/-- Keep the better of two entries at one position: in an ordered list, the first. -/
def topkUnique : List (Nat × Nat) → List (Nat × Nat)
  | [] => []
  | h :: t => h :: (topkUnique t).filter fun e => e.2 != h.2

/-- merge of R181 over lists of entries. -/
def topkMerge (small : Bool) (k : Nat) (es : List (Nat × Nat)) : List (Nat × Nat) :=
  (topkUnique (es.foldl (fun l e => topkInsert small e l) [])).take k

/-- The register that holds a list of entries (R180). -/
def topkState (es : List (Nat × Nat)) : VReg :=
  BitVec.ofNat 1024 ((ofLanes 32 (es.map (·.1))).toNat + (ofLanes 64 (es.map (·.2))).toNat * 2 ^ 256
    + es.length * 2 ^ 768)

/-- TOPK at its issue: vd is busy until it retires. -/
def execTopk (x : Site) (vd : Fin 32) (ax : Fin 8) (k : BitVec 3) (dir : Bool) (s : State) :
    Host.Outcome State Fault Refusal :=
  lift (fun n => n.issueAt x 1 false (vBusy x [vd]) fun m =>
    let op : TopkOp := { thr := x.thr, pc := (m.thread x.tile x.thr).pc, vd := vd, desc := m.handle x ax
                         k := k.toNat + 1, dir := dir }
    (m.modTile x.tile fun t => { t with topk := t.topk ++ [op] }).modThread x.tile x.thr fun th =>
      { th.step with vbusy := insertNew vd th.vbusy }) s

/-- Entries of a region: every value as FP32 with its global element index, NaN dropped. -/
def Node.regionEntries (n : Node) (t : Nat) (d : Desc) : List (Nat × Nat) :=
  let s := d.read0 0
  (d.inOrder.map fun c => ((fp32.encode 0 false 0 (n.elemVal t s (s.line c))).bits, d.gindex c)).filter
    fun e => fp32.decode e.1 != .nan

/-- The words of a region. -/
def Desc.regionWords (d : Desc) : List Nat := (d.extents (d.read0 0)).flatMap fun e => wordsOf e.1.toNat (e.2 - e.1 + 1).toNat

/-- TOPK_RETIRE: the oldest TOPK of the tile merges its region into vd, unless the tile's group is gated (02 R39). -/
def execTopkRetire (tile : Nat) (s : State) : Host.Outcome State Fault Refusal :=
  lift (fun n =>
    let x := n.tile tile
    match x.topk with
    | [] => n
    | op :: rest =>
      if !n.running tile then n else
      let n1 := n.modTile tile fun y => { y with topk := rest }
      let n2 : Node := if op.desc.any x.descHurt then n1.innerBad tile else match x.fit .topk (ltOf tile) op.desc with
        | none => n1.takeFree.takeFault tile op.thr 3 op.pc (n1.descDetail op.desc) 0
        | some d => ((n1.touchWords tile d.regionWords).modThread tile op.thr fun th =>
            th.setV op.vd (topkState (topkMerge op.dir op.k (topkEntries (th.getV op.vd) ++ n1.regionEntries tile d)))).takeFree
      (n2.modThread tile op.thr fun th =>
        { th with vbusy := if rest.any (fun q => q.thr == op.thr && q.vd == op.vd) then th.vbusy
                           else th.vbusy.filter (· ≠ op.vd) }).modTile tile (·.wake)) s

/-- TOPKM: vd takes the merge of va and vb. -/
def execTopkm (x : Site) (vd va vb : Fin 32) (k : BitVec 3) (dir : Bool) (s : State) : Host.Outcome State Fault Refusal :=
  lift (vecIssue x 2 false [vd, va, vb] fun th =>
    (th.setV vd (topkState (topkMerge dir (k.toNat + 1) (topkEntries (th.getV va) ++ topkEntries (th.getV vb)))), false, false)) s

end Sys2Proof.Machine
end

