-- ==== Sys2Proof/Machine/Dispatch.lean ====
section
/-! DEFINITION. One arm per command. -/
namespace Sys2Proof.Machine

def exec (i : Instr) (s : State) : Host.Outcome State Fault Refusal :=
  match i with
  | .nop x bad => Sys2Proof.Machine.execNop x bad s
  | .add x rd ra rb => Sys2Proof.Machine.execAdd x rd ra rb s
  | .sub x rd ra rb => Sys2Proof.Machine.execSub x rd ra rb s
  | .and x rd ra rb => Sys2Proof.Machine.execAnd x rd ra rb s
  | .or x rd ra rb => Sys2Proof.Machine.execOr x rd ra rb s
  | .xor x rd ra rb => Sys2Proof.Machine.execXor x rd ra rb s
  | .shl x rd ra rb => Sys2Proof.Machine.execShl x rd ra rb s
  | .shr x rd ra rb => Sys2Proof.Machine.execShr x rd ra rb s
  | .sra x rd ra rb => Sys2Proof.Machine.execSra x rd ra rb s
  | .mul x rd ra rb => Sys2Proof.Machine.execMul x rd ra rb s
  | .mulhu x rd ra rb => Sys2Proof.Machine.execMulhu x rd ra rb s
  | .min x rd ra rb => Sys2Proof.Machine.execMin x rd ra rb s
  | .max x rd ra rb => Sys2Proof.Machine.execMax x rd ra rb s
  | .minu x rd ra rb => Sys2Proof.Machine.execMinu x rd ra rb s
  | .maxu x rd ra rb => Sys2Proof.Machine.execMaxu x rd ra rb s
  | .clz x rd ra => Sys2Proof.Machine.execClz x rd ra s
  | .popc x rd ra => Sys2Proof.Machine.execPopc x rd ra s
  | .addi x rd ra imm => Sys2Proof.Machine.execAddi x rd ra imm s
  | .subi x rd ra imm => Sys2Proof.Machine.execSubi x rd ra imm s
  | .andi x rd ra imm => Sys2Proof.Machine.execAndi x rd ra imm s
  | .ori x rd ra imm => Sys2Proof.Machine.execOri x rd ra imm s
  | .xori x rd ra imm => Sys2Proof.Machine.execXori x rd ra imm s
  | .shli x rd ra imm => Sys2Proof.Machine.execShli x rd ra imm s
  | .shri x rd ra imm => Sys2Proof.Machine.execShri x rd ra imm s
  | .srai x rd ra imm => Sys2Proof.Machine.execSrai x rd ra imm s
  | .muli x rd ra imm => Sys2Proof.Machine.execMuli x rd ra imm s
  | .mini x rd ra imm => Sys2Proof.Machine.execMini x rd ra imm s
  | .maxi x rd ra imm => Sys2Proof.Machine.execMaxi x rd ra imm s
  | .minui x rd ra imm => Sys2Proof.Machine.execMinui x rd ra imm s
  | .maxui x rd ra imm => Sys2Proof.Machine.execMaxui x rd ra imm s
  | .lil x rd imm => Sys2Proof.Machine.execLil x rd imm s
  | .lih x rd imm => Sys2Proof.Machine.execLih x rd imm s
  | .getc x rd sel => Sys2Proof.Machine.execGetc x rd sel s
  | .ld8u x rd ra off => Sys2Proof.Machine.execLd8u x rd ra off s
  | .ld16u x rd ra off => Sys2Proof.Machine.execLd16u x rd ra off s
  | .ld32u x rd ra off => Sys2Proof.Machine.execLd32u x rd ra off s
  | .ld64 x rd ra off => Sys2Proof.Machine.execLd64 x rd ra off s
  | .ld8s x rd ra off => Sys2Proof.Machine.execLd8s x rd ra off s
  | .ld16s x rd ra off => Sys2Proof.Machine.execLd16s x rd ra off s
  | .ld32s x rd ra off => Sys2Proof.Machine.execLd32s x rd ra off s
  | .st8 x rs ra off => Sys2Proof.Machine.execSt8 x rs ra off s
  | .st16 x rs ra off => Sys2Proof.Machine.execSt16 x rs ra off s
  | .st32 x rs ra off => Sys2Proof.Machine.execSt32 x rs ra off s
  | .st64 x rs ra off => Sys2Proof.Machine.execSt64 x rs ra off s
  | .loadComplete tile thr up => Sys2Proof.Machine.execLoadComplete tile thr up s
  | .storeComplete tile thr => Sys2Proof.Machine.execStoreComplete tile thr s
  | .mfence x => Sys2Proof.Machine.execMfence x s
  | .cmpEq x pd ra rb => Sys2Proof.Machine.execCmpEq x pd ra rb s
  | .cmpNe x pd ra rb => Sys2Proof.Machine.execCmpNe x pd ra rb s
  | .cmpLt x pd ra rb => Sys2Proof.Machine.execCmpLt x pd ra rb s
  | .cmpGe x pd ra rb => Sys2Proof.Machine.execCmpGe x pd ra rb s
  | .cmpLtu x pd ra rb => Sys2Proof.Machine.execCmpLtu x pd ra rb s
  | .cmpGeu x pd ra rb => Sys2Proof.Machine.execCmpGeu x pd ra rb s
  | .cmpAny x pd ra rb => Sys2Proof.Machine.execCmpAny x pd ra rb s
  | .cmpNone x pd ra rb => Sys2Proof.Machine.execCmpNone x pd ra rb s
  | .cmpiEq x pd ra imm => Sys2Proof.Machine.execCmpiEq x pd ra imm s
  | .cmpiNe x pd ra imm => Sys2Proof.Machine.execCmpiNe x pd ra imm s
  | .cmpiLt x pd ra imm => Sys2Proof.Machine.execCmpiLt x pd ra imm s
  | .cmpiGe x pd ra imm => Sys2Proof.Machine.execCmpiGe x pd ra imm s
  | .cmpiLtu x pd ra imm => Sys2Proof.Machine.execCmpiLtu x pd ra imm s
  | .cmpiGeu x pd ra imm => Sys2Proof.Machine.execCmpiGeu x pd ra imm s
  | .cmpiAny x pd ra imm => Sys2Proof.Machine.execCmpiAny x pd ra imm s
  | .cmpiNone x pd ra imm => Sys2Proof.Machine.execCmpiNone x pd ra imm s
  | .plogAnd x pd pa na pb nb => Sys2Proof.Machine.execPlogAnd x pd pa na pb nb s
  | .plogOr x pd pa na pb nb => Sys2Proof.Machine.execPlogOr x pd pa na pb nb s
  | .plogXor x pd pa na pb nb => Sys2Proof.Machine.execPlogXor x pd pa na pb nb s
  | .br x target => Sys2Proof.Machine.execBr x target s
  | .call x rd target => Sys2Proof.Machine.execCall x rd target s
  | .brr x ra => Sys2Proof.Machine.execBrr x ra s
  | .callr x rd ra => Sys2Proof.Machine.execCallr x rd ra s
  | .bdec x rd target => Sys2Proof.Machine.execBdec x rd target s
  | .exit x => Sys2Proof.Machine.execExit x s
  | .tsend x node loc lt dthr ctr count => Sys2Proof.Machine.execTsend x node loc lt dthr ctr count s
  | .tsendr x ra rb => Sys2Proof.Machine.execTsendr x ra rb s
  | .tokenArrival ix => Sys2Proof.Machine.execTokenArrival ix s
  | .twait x ctr r ra count => Sys2Proof.Machine.execTwait x ctr r ra count s
  | .bar x mask id => Sys2Proof.Machine.execBar x mask id s
  | .tread x ctr rd => Sys2Proof.Machine.execTread x ctr rd s
  | .pmark x phase => Sys2Proof.Machine.execPmark x phase s
  | .stend x v pv vn => Sys2Proof.Machine.execStend x v pv vn s
  | .retract x reason => Sys2Proof.Machine.execRetract x reason s
  | .dbgrd x rd f ix j chunk => Sys2Proof.Machine.execDbgrd x rd f ix j chunk s
  | .dbgwr x rs f ix j chunk => Sys2Proof.Machine.execDbgwr x rs f ix j chunk s
  | .dbgbrk x code => Sys2Proof.Machine.execDbgbrk x code s
  | .falloc x f strict => Sys2Proof.Machine.execFalloc x f strict s
  | .ffree x f => Sys2Proof.Machine.execFfree x f s
  | .fstat x f pd sel => Sys2Proof.Machine.execFstat x f pd sel s
  | .finv x f rd sel => Sys2Proof.Machine.execFinv x f rd sel s
  | .fsumr x f => Sys2Proof.Machine.execFsumr x f s
  | .mma x f aa ab rk rij => Sys2Proof.Machine.execMma x f aa ab rk rij s
  | .mman x f aa ab rk rij => Sys2Proof.Machine.execMman x f aa ab rk rij s
  | .fssq x f ab rk rij => Sys2Proof.Machine.execFssq x f ab rk rij s
  | .fldx x f ra => Sys2Proof.Machine.execFldx x f ra s
  | .frdx x f clr ra => Sys2Proof.Machine.execFrdx x f clr ra s
  | .frd x f ad rm ov sr clr rij => Sys2Proof.Machine.execFrd x f ad rm ov sr clr rij s
  | .matrixRetire tile => Sys2Proof.Machine.execMatrixRetire tile s
  | .readoutRetire tile upset => Sys2Proof.Machine.execReadoutRetire tile upset s
  | .ermineCheck tile => Sys2Proof.Machine.execErmineCheck tile s
  | .vld x vd ra off => Sys2Proof.Machine.execVld x vd ra off s
  | .vst x vs ra off => Sys2Proof.Machine.execVst x vs ra off s
  | .vadd x vd va vb o => Sys2Proof.Machine.execVadd x vd va vb o s
  | .vsub x vd va vb o => Sys2Proof.Machine.execVsub x vd va vb o s
  | .vmul x vd va vb o => Sys2Proof.Machine.execVmul x vd va vb o s
  | .vfma x vd va vb o => Sys2Proof.Machine.execVfma x vd va vb o s
  | .vmax x vd va vb o => Sys2Proof.Machine.execVmax x vd va vb o s
  | .vmin x vd va vb o => Sys2Proof.Machine.execVmin x vd va vb o s
  | .vand x vd va vb o => Sys2Proof.Machine.execVand x vd va vb o s
  | .vor x vd va vb o => Sys2Proof.Machine.execVor x vd va vb o s
  | .vxor x vd va vb o => Sys2Proof.Machine.execVxor x vd va vb o s
  | .vshl x vd va vb o => Sys2Proof.Machine.execVshl x vd va vb o s
  | .vshr x vd va vb o => Sys2Proof.Machine.execVshr x vd va vb o s
  | .vsra x vd va vb o => Sys2Proof.Machine.execVsra x vd va vb o s
  | .vcvt x st dt vd vs part rm ov ra rb rc => Sys2Proof.Machine.execVcvt x st dt vd vs part rm ov ra rb rc s
  | .topk x vd ax k dir => Sys2Proof.Machine.execTopk x vd ax k dir s
  | .topkRetire tile => Sys2Proof.Machine.execTopkRetire tile s
  | .topkm x vd va vb k dir => Sys2Proof.Machine.execTopkm x vd va vb k dir s
  | .vanynf x pd vs t => Sys2Proof.Machine.execVanynf x pd vs t s
  | .vmovs x rd vs l => Sys2Proof.Machine.execVmovs x rd vs l s
  | .vbcast x vd rs t => Sys2Proof.Machine.execVbcast x vd rs t s
  | .vins x vd rs l => Sys2Proof.Machine.execVins x vd rs l s
  | .sarm x an ra => Sys2Proof.Machine.execSarm x an ra s
  | .sbind x an idx => Sys2Proof.Machine.execSbind x an idx s
  | .sbindr x an ra => Sys2Proof.Machine.execSbindr x an ra s
  | .sstat x rd an => Sys2Proof.Machine.execSstat x rd an s
  | .streamGrant ctx up sent => Sys2Proof.Machine.execStreamGrant ctx up sent s
  | .streamComplete ctx => Sys2Proof.Machine.execStreamComplete ctx s
  | .vput x len dthr ctr loc rn ra rb => Sys2Proof.Machine.execVput x len dthr ctr loc rn ra rb s
  | .vget x len dthr ctr loc rn ra rb => Sys2Proof.Machine.execVget x len dthr ctr loc rn ra rb s
  | .voileLocalComplete tile slot => Sys2Proof.Machine.execVoileLocalComplete tile slot s
  | .tileVerdict tile => Sys2Proof.Machine.execTileVerdict tile s
  | .moduleVerdict => Sys2Proof.Machine.execModuleVerdict s
  | .shadowCompare lt => Sys2Proof.Machine.execShadowCompare lt s
  | .tapestryRecord => Sys2Proof.Machine.execTapestryRecord s
  | .hello h b room => Sys2Proof.Machine.execHello h b room s
  | .launch f => Sys2Proof.Machine.execLaunch f s
  | .streamData h addr epoch fbit lbit data => Sys2Proof.Machine.execStreamData h addr epoch fbit lbit data s
  | .accw h epoch entries => Sys2Proof.Machine.execAccw h epoch entries s
  | .doneReq h addr epoch cthr cctr token => Sys2Proof.Machine.execDoneReq h addr epoch cthr cctr token s
  | .done h addr epoch => Sys2Proof.Machine.execDone h addr epoch s
  | .pre h first epoch entries => Sys2Proof.Machine.execPre h first epoch entries s
  | .grid h first epoch entries => Sys2Proof.Machine.execGrid h first epoch entries s
  | .part h first epoch blocks => Sys2Proof.Machine.execPart h first epoch blocks s
  | .report h first epoch entries => Sys2Proof.Machine.execReport h first epoch entries s
  | .result h first epoch blocks => Sys2Proof.Machine.execResult h first epoch blocks s
  | .token h lt thr ctr count epoch => Sys2Proof.Machine.execToken h lt thr ctr count epoch s
  | .verdict h epoch v nf => Sys2Proof.Machine.execVerdict h epoch v nf s
  | .outcome h epoch o => Sys2Proof.Machine.execOutcome h epoch o s
  | .mready h epoch count => Sys2Proof.Machine.execMready h epoch count s
  | .mrelease h epoch count => Sys2Proof.Machine.execMrelease h epoch count s
  | .retractToken h lt srcLt reason hw epoch => Sys2Proof.Machine.execRetractToken h lt srcLt reason hw epoch s
  | .ctrlStart h count epoch => Sys2Proof.Machine.execCtrlStart h count epoch s
  | .mirrorData h slot offset data => Sys2Proof.Machine.execMirrorData h slot offset data s
  | .seal h slot r => Sys2Proof.Machine.execSeal h slot r s
  | .sealAck h slot => Sys2Proof.Machine.execSealAck h slot s
  | .rdata h slot offset data => Sys2Proof.Machine.execRdata h slot offset data s
  | .rend h slot r => Sys2Proof.Machine.execRend h slot r s
  | .rendAck h slot => Sys2Proof.Machine.execRendAck h slot s
  | .put h v data => Sys2Proof.Machine.execPut h v data s
  | .get h v up => Sys2Proof.Machine.execGet h v up s
  | .getData h v data => Sys2Proof.Machine.execGetData h v data s
  | .putDone h v => Sys2Proof.Machine.execPutDone h v s
  | .ack h ackseq avc ece => Sys2Proof.Machine.execAck h ackseq avc ece s
  | .nak h nseq nvc code detail => Sys2Proof.Machine.execNak h nseq nvc code detail s
  | .linkControl port sub lseq lack lackv rreq => Sys2Proof.Machine.execLinkControl port sub lseq lack lackv rreq s
  | .arp port sub ip => Sys2Proof.Machine.execArp port sub ip s
  | .neighbourDiscovery port sub ip => Sys2Proof.Machine.execNeighbourDiscovery port sub ip s
  | .priorityFlowControl port sub prio pause => Sys2Proof.Machine.execPriorityFlowControl port sub prio pause s
  | .retransmissionTimeout peer vc seq => Sys2Proof.Machine.execRetransmissionTimeout peer vc seq s
  | .ackDue peer vc => Sys2Proof.Machine.execAckDue peer vc s
  | .helloRepeat peer route => Sys2Proof.Machine.execHelloRepeat peer route s
  | .linkReplayTimeout port sub => Sys2Proof.Machine.execLinkReplayTimeout port sub s
  | .lackRefresh port sub => Sys2Proof.Machine.execLackRefresh port sub s
  | .ecnRateRaise peer => Sys2Proof.Machine.execEcnRateRaise peer s
  | .stragglerTimeout ctx => Sys2Proof.Machine.execStragglerTimeout ctx s
  | .hold e => Sys2Proof.Machine.execHold e s
  | .release e => Sys2Proof.Machine.execRelease e s
  | .endJob e => Sys2Proof.Machine.execEndJob e s
  | .setCap e capW => Sys2Proof.Machine.execSetCap e capW s
  | .reset e source => Sys2Proof.Machine.execReset e source s
  | .tileReset e lt => Sys2Proof.Machine.execTileReset e lt s
  | .power e target => Sys2Proof.Machine.execPower e target s
  | .coldBoot e => Sys2Proof.Machine.execColdBoot e s
  | .rollback e => Sys2Proof.Machine.execRollback e s
  | .push e slot => Sys2Proof.Machine.execPush e slot s
  | .writeReg e addr value mask => Sys2Proof.Machine.execWriteReg e addr value mask s
  | .activate e slot => Sys2Proof.Machine.execActivate e slot s
  | .selectMode e mode => Sys2Proof.Machine.execSelectMode e mode s
  | .enrol e hash => Sys2Proof.Machine.execEnrol e hash s
  | .revoke e slot => Sys2Proof.Machine.execRevoke e slot s
  | .start e => Sys2Proof.Machine.execStart e s
  | .read a addr count => Sys2Proof.Machine.execRead a addr count s
  | .image a slot addr data signer body => Sys2Proof.Machine.execImage a slot addr data signer body s
  | .getVersion a => Sys2Proof.Machine.execGetVersion a s
  | .getCapabilities a => Sys2Proof.Machine.execGetCapabilities a s
  | .negotiateAlgorithms a ecdsaP384 sha384 => Sys2Proof.Machine.execNegotiateAlgorithms a ecdsaP384 sha384 s
  | .getDigests a => Sys2Proof.Machine.execGetDigests a s
  | .getCertificate a slot => Sys2Proof.Machine.execGetCertificate a slot s
  | .challenge a slot nonce => Sys2Proof.Machine.execChallenge a slot nonce s
  | .getMeasurements a index signed nonce => Sys2Proof.Machine.execGetMeasurements a index signed nonce s
  | .setEndpointId eid => Sys2Proof.Machine.execSetEndpointId eid s
  | .getEndpointId => Sys2Proof.Machine.execGetEndpointId s
  | .getMctpVersionSupport => Sys2Proof.Machine.execGetMctpVersionSupport s
  | .getMessageTypeSupport => Sys2Proof.Machine.execGetMessageTypeSupport s
  | .getTid => Sys2Proof.Machine.execGetTid s
  | .getPldmVersion => Sys2Proof.Machine.execGetPldmVersion s
  | .getPldmTypes => Sys2Proof.Machine.execGetPldmTypes s
  | .getPldmCommands type => Sys2Proof.Machine.execGetPldmCommands type s
  | .getPdr handle => Sys2Proof.Machine.execGetPdr handle s
  | .getSensorReading id => Sys2Proof.Machine.execGetSensorReading id s
  | .getStateSensorReadings id => Sys2Proof.Machine.execGetStateSensorReadings id s
  | .pollForPlatformEventMessage => Sys2Proof.Machine.execPollForPlatformEventMessage s
  | .getFruRecordTableMetadata => Sys2Proof.Machine.execGetFruRecordTableMetadata s
  | .getFruRecordTable => Sys2Proof.Machine.execGetFruRecordTable s
  | .entdaa addr => Sys2Proof.Machine.execEntdaa addr s
  | .setdasa static addr => Sys2Proof.Machine.execSetdasa static addr s
  | .meterI3cRead offset => Sys2Proof.Machine.execMeterI3cRead offset s
  | .tapInstruction ix => Sys2Proof.Machine.execTapInstruction ix s
  | .supplyGlitch => Sys2Proof.Machine.execSupplyGlitch s
  | .tlcHoldWrite lt v => Sys2Proof.Machine.execTlcHoldWrite lt v s
  | .dbgEnWrite lt v => Sys2Proof.Machine.execDbgEnWrite lt v s
  | .force lt v => Sys2Proof.Machine.execForce lt v s
  | .go => Sys2Proof.Machine.execGo s
  | .fdbgAccessComplete => Sys2Proof.Machine.execFdbgAccessComplete s
  | .gdrLinkRead => Sys2Proof.Machine.execGdrLinkRead s
  | .cxmLinkerrRead => Sys2Proof.Machine.execCxmLinkerrRead s
  | .cxmLinkRead l => Sys2Proof.Machine.execCxmLinkRead l s
  | .tshPortRead p => Sys2Proof.Machine.execTshPortRead p s
  | .ermChkCfgRead => Sys2Proof.Machine.execErmChkCfgRead s
  | .chrLastTlRead => Sys2Proof.Machine.execChrLastTlRead s
  | .registerWrite addr width value => Sys2Proof.Machine.execRegisterWrite addr width value s
  | .powerOn p => Sys2Proof.Machine.execPowerOn p s
  | .resetN ns => Sys2Proof.Machine.execResetN ns s
  | .pwrOk high => Sys2Proof.Machine.execPwrOk high s
  | .regulatorFault domain => Sys2Proof.Machine.execRegulatorFault domain s
  | .refclkFault => Sys2Proof.Machine.execRefclkFault s
  | .managementWatchdog => Sys2Proof.Machine.execManagementWatchdog s
  | .blockLockLoss port sub => Sys2Proof.Machine.execBlockLockLoss port sub s
  | .cxlLinkDown l => Sys2Proof.Machine.execCxlLinkDown l s
  | .cxlRetrainTimeout l => Sys2Proof.Machine.execCxlRetrainTimeout l s
  | .prsntN l high => Sys2Proof.Machine.execPrsntN l high s
  | .resetHoldEnd => Sys2Proof.Machine.execResetHoldEnd s
  | .resetRelease => Sys2Proof.Machine.execResetRelease s
  | .suppliesAndClock => Sys2Proof.Machine.execSuppliesAndClock s
  | .optionLoading fusesOk => Sys2Proof.Machine.execOptionLoading fusesOk s
  | .managementBoot => Sys2Proof.Machine.execManagementBoot s
  | .selfTest r => Sys2Proof.Machine.execSelfTest r s
  | .defectMap => Sys2Proof.Machine.execDefectMap s
  | .linkTraining r => Sys2Proof.Machine.execLinkTraining r s
  | .topologyDiscovery => Sys2Proof.Machine.execTopologyDiscovery s
  | .topoWaitExpiry => Sys2Proof.Machine.execTopoWaitExpiry s
  | .firmwareBroadcast failed => Sys2Proof.Machine.execFirmwareBroadcast failed s
  | .ready => Sys2Proof.Machine.execReady s
  | .backgroundFill => Sys2Proof.Machine.execBackgroundFill s
  | .channelRetrain ch r => Sys2Proof.Machine.execChannelRetrain ch r s
  | .correctionWriteBack cxl unit up => Sys2Proof.Machine.execCorrectionWriteBack cxl unit up s
  | .scrub cxl up => Sys2Proof.Machine.execScrub cxl up s
  | .regulatorReading domain deciWatt => Sys2Proof.Machine.execRegulatorReading domain deciWatt s
  | .alphaUpdate => Sys2Proof.Machine.execAlphaUpdate s
  | .temperatureEvent sn c => Sys2Proof.Machine.execTemperatureEvent sn c s
  | .thermalLowerTimer g => Sys2Proof.Machine.execThermalLowerTimer g s
  | .starvationAdmission => Sys2Proof.Machine.execStarvationAdmission s
  | .voltageChangeComplete g => Sys2Proof.Machine.execVoltageChangeComplete g s
  | .meterStart => Sys2Proof.Machine.execMeterStart s
  | .readingIntervalEnd m => Sys2Proof.Machine.execReadingIntervalEnd m s
  | .tapUpdate mainMw auxCw => Sys2Proof.Machine.execTapUpdate mainMw auxCw s
  | .delayedTag m => Sys2Proof.Machine.execDelayedTag m s
  | .sealSwitchOpened m => Sys2Proof.Machine.execSealSwitchOpened m s
  | .testModeEnter m => Sys2Proof.Machine.execTestModeEnter m s
  | .testModeLeave m => Sys2Proof.Machine.execTestModeLeave m s
  | .refclkRunsAgain => Sys2Proof.Machine.execRefclkRunsAgain s
  | .regulatorReportsGood => Sys2Proof.Machine.execRegulatorReportsGood s
  | .resetNReturnsHigh => Sys2Proof.Machine.execResetNReturnsHigh s
  | .subPortRetrained port sub lanes => Sys2Proof.Machine.execSubPortRetrained port sub lanes s
  | .cxlLinkRetrained l => Sys2Proof.Machine.execCxlLinkRetrained l s
  | .powerTransitionComplete => Sys2Proof.Machine.execPowerTransitionComplete s
  | .frameDiscarded port sub reason => Sys2Proof.Machine.execFrameDiscarded port sub reason s
  | .testLogicReset => Sys2Proof.Machine.execTestLogicReset s

end Sys2Proof.Machine
end

