-- ==== Sys2Proof/Machine/Sequencer.lean ====
section
/-! DEFINITION. The tile's own sequencer (03 R81): which thread's word issues next. -/
namespace Sys2Proof.Machine

/-- A thread is fetched for: the test of `canFetch` without an instruction in hand. -/
def Node.threadReady (n : Node) (t : Nat) (i : Fin 8) : Bool :=
  n.canFetch { tile := t, thr := i, ps := 0, pn := false, res := 0, hi := 0 }

/-- The next ready thread of a tile, round-robin from where the search begins (R81). -/
def Node.nextThread (n : Node) (t : Nat) : Option (Fin 8) :=
  ((List.range 8).map fun k => Fin.ofNat 8 ((n.tile t).rr + k)).find? (n.threadReady t)

/-- The word at a thread's pc; the filler where the slice loaded none (R66). -/
def Tile.fetch (x : Tile) (i : Nat) : Word := Map.getD x.imem (x.thread i).pc (BitVec.allOnes 64)

/-- The instruction that tile `t` issues next, if any of its threads is ready. -/
def Node.nextOf (n : Node) (t : Nat) : Option Instr :=
  match n.nextThread t with
  | none => none
  | some i => some (decodeTile t i ((n.tile t).fetch i))

/-- The first of a list of tiles that can issue, with its instruction. -/
def Node.firstIssue (n : Node) : List Nat → Option (Nat × Instr)
  | [] => none
  | t :: rest =>
    match n.nextOf t with
    | some i => some (t, i)
    | none => n.firstIssue rest

/-- The tiles in the order the model turns to them: from `shift` up, then from the lowest. -/
def Node.turns (n : Node) : List Nat :=
  let ks := n.tiles.map (·.1)
  ks.filter (n.shift ≤ ·) ++ ks.filter (· < n.shift)

/-- What the sequencers do when no command waits (log entry 2): the tile to issue, its instruction, and the node with
its turn passed on. -/
def Node.sequence (n : Node) : Option (Instr × Node) :=
  match n.firstIssue n.turns with
  | none => none
  | some (t, i) => some (i, { n with shift := t + 1 })

end Sys2Proof.Machine
end

