-- ==== Sys2Proof/WellFormed.lean ====
section
/-! DEFINITION. Which commands are well formed: every operand lies in the range that its field or its table gives. A
command that the spec gives a fault, a refusal or a discard is well formed. -/
namespace Sys2Proof

/-- A tile key: a logical tile, or 4096 plus one for its shadow. -/
def tileKeyWf (t : Nat) : Bool := decide (t < 2304 ∨ (4096 ≤ t ∧ t < 6400))

/-- The site names a tile. -/
def Site.wf (x : Site) : Bool := tileKeyWf x.tile

/-- The fields of a link header fit their widths (11 R347). -/
def LinkHdr.wf (l : LinkHdr) : Bool := decide (l.lseq < 2 ^ 24 ∧ l.lack < 2 ^ 24)

/-- The fields of a frame fit their widths (11 R332): an address is one of IPv4 or IPv6. -/
def Frame.wf (f : Frame) : Bool :=
  decide (f.port < 8 ∧ f.sub < 4 ∧ f.vlan < 4096 ∧ f.src < 2 ^ 128 ∧ f.udpPort < 65536 ∧ f.udpLen < 65536) && f.link.all LinkHdr.wf

/-- The fields of a HELLO payload fit their widths (11 R353). -/
def HelloBody.wf (b : HelloBody) : Bool :=
  decide (b.vermask < 65536 ∧ b.node < 4096 ∧ b.port < 8 ∧ b.sub < 4 ∧ b.lanes < 16 ∧ b.serial < 2 ^ 64 ∧ b.session < 2 ^ 32)

/-- CREDIT names the eight channels, and it and MAXPAY fit their widths (11 R353). -/
def HelloRoom.wf (r : HelloRoom) : Bool :=
  decide (r.credits.length = 8 ∧ r.maxpay < 65536) && r.credits.all fun c => decide (c < 65536)

/-- What silicon changed is a word of the machine. -/
def Upset.wf : Upset → Bool
  | .sram t off _ => tileKeyWf t && decide (off < 524288)
  | .tier a _ | .cache a _ | .wire a _ | .poison a => decide (a < 2 ^ 48)
  | .instr t pc _ => tileKeyWf t && decide (pc < 4096)
  | .desc t w _ => tileKeyWf t && decide (w < 8192)
  | .retry l _ => decide (l < 4)
  | .retained off _ => decide (off < 131072)

/-- The fields of the base header fit their widths (11 R336). -/
def Header.wf (h : Header) : Bool :=
  decide (h.ver < 16 ∧ h.vc < 8 ∧ h.src < 4096 ∧ h.dst < 4096 ∧ h.len < 65536 ∧ h.seq < 2 ^ 32 ∧ h.jobtag < 2 ^ 32 ∧ h.ctx < 4096)
    && h.grant.all (fun g => decide (g.1 < 8 ∧ g.2 < 65536)) && h.res.all (fun r => decide (r < 2 ^ 64)) && h.frame.wf

/-- The fields of a command envelope fit their widths (19 R562), and the message's payload is the envelope: 48 bytes, the
arguments and the signature. -/
def Envelope.wf (e : Envelope) : Bool :=
  e.odd.all (fun k => decide (k = 0 ∨ (0x10 < k ∧ k < 256))) && e.h.wf && decide (e.h.len = 144 + e.arglen) &&
  decide (e.version < 65536 ∧ e.keyidx < 256 ∧ e.arglen ≤ 256 ∧ e.resv < 2 ^ 64 ∧ e.serial < 2 ^ 64 ∧ e.session < 2 ^ 64 ∧ e.seq < 2 ^ 64 ∧ e.job < 2 ^ 64)

/-- The fields of a management question fit their widths; `len` is its payload's length where that is fixed (19 R558). -/
def Asker.wf (a : Asker) (len : Option Nat) : Bool := a.h.wf && len.all (· == a.h.len)

/-- The fields of the Voile header fit their widths (09 R296). -/
def VoileHdr.wf (v : VoileHdr) : Bool :=
  decide (1 ≤ v.len ∧ v.len ≤ 256 ∧ v.srcLt < 4096 ∧ v.epoch < 256 ∧ v.tag < 16 ∧ v.addr < 2 ^ 48)

/-- A fragment of a LAUNCH fits its fields (11 R352). -/
def Fragment.wf (f : Fragment) : Bool := f.h.wf && decide (f.offset < 2 ^ 40 ∧ f.data.length < 65536)

/-- Every operand of the command lies in its range. -/
def Instr.wf : Instr → Bool
  | .nop x _ => x.wf
  | .add x _ _ _ => x.wf
  | .sub x _ _ _ => x.wf
  | .and x _ _ _ => x.wf
  | .or x _ _ _ => x.wf
  | .xor x _ _ _ => x.wf
  | .shl x _ _ _ => x.wf
  | .shr x _ _ _ => x.wf
  | .sra x _ _ _ => x.wf
  | .mul x _ _ _ => x.wf
  | .mulhu x _ _ _ => x.wf
  | .min x _ _ _ => x.wf
  | .max x _ _ _ => x.wf
  | .minu x _ _ _ => x.wf
  | .maxu x _ _ _ => x.wf
  | .clz x _ _ => x.wf
  | .popc x _ _ => x.wf
  | .addi x _ _ _ => x.wf
  | .subi x _ _ _ => x.wf
  | .andi x _ _ _ => x.wf
  | .ori x _ _ _ => x.wf
  | .xori x _ _ _ => x.wf
  | .shli x _ _ _ => x.wf
  | .shri x _ _ _ => x.wf
  | .srai x _ _ _ => x.wf
  | .muli x _ _ _ => x.wf
  | .mini x _ _ _ => x.wf
  | .maxi x _ _ _ => x.wf
  | .minui x _ _ _ => x.wf
  | .maxui x _ _ _ => x.wf
  | .lil x _ _ => x.wf
  | .lih x _ _ => x.wf
  | .getc x _ _ => x.wf
  | .ld8u x _ _ _ => x.wf
  | .ld16u x _ _ _ => x.wf
  | .ld32u x _ _ _ => x.wf
  | .ld64 x _ _ _ => x.wf
  | .ld8s x _ _ _ => x.wf
  | .ld16s x _ _ _ => x.wf
  | .ld32s x _ _ _ => x.wf
  | .st8 x _ _ _ => x.wf
  | .st16 x _ _ _ => x.wf
  | .st32 x _ _ _ => x.wf
  | .st64 x _ _ _ => x.wf
  | .loadComplete tile _ up => tileKeyWf tile && up.all Upset.wf
  | .storeComplete tile _ => tileKeyWf tile
  | .mfence x => x.wf
  | .cmpEq x _ _ _ => x.wf
  | .cmpNe x _ _ _ => x.wf
  | .cmpLt x _ _ _ => x.wf
  | .cmpGe x _ _ _ => x.wf
  | .cmpLtu x _ _ _ => x.wf
  | .cmpGeu x _ _ _ => x.wf
  | .cmpAny x _ _ _ => x.wf
  | .cmpNone x _ _ _ => x.wf
  | .cmpiEq x _ _ _ => x.wf
  | .cmpiNe x _ _ _ => x.wf
  | .cmpiLt x _ _ _ => x.wf
  | .cmpiGe x _ _ _ => x.wf
  | .cmpiLtu x _ _ _ => x.wf
  | .cmpiGeu x _ _ _ => x.wf
  | .cmpiAny x _ _ _ => x.wf
  | .cmpiNone x _ _ _ => x.wf
  | .plogAnd x _ _ _ _ _ => x.wf
  | .plogOr x _ _ _ _ _ => x.wf
  | .plogXor x _ _ _ _ _ => x.wf
  | .br x _ => x.wf
  | .call x _ _ => x.wf
  | .brr x _ => x.wf
  | .callr x _ _ => x.wf
  | .bdec x _ _ => x.wf
  | .exit x => x.wf
  | .tsend x _ _ _ _ _ _ => x.wf
  | .tsendr x _ _ => x.wf
  | .tokenArrival _ => true
  | .twait x _ _ _ _ => x.wf
  | .bar x _ _ => x.wf
  | .tread x _ _ => x.wf
  | .pmark x _ => x.wf
  | .stend x _ _ _ => x.wf
  | .retract x _ => x.wf
  | .dbgrd x _ _ _ _ _ => x.wf
  | .dbgwr x _ _ _ _ _ => x.wf
  | .dbgbrk x _ => x.wf
  | .falloc x _ _ => x.wf
  | .ffree x _ => x.wf
  | .fstat x _ _ _ => x.wf
  | .finv x _ _ _ => x.wf
  | .fsumr x _ => x.wf
  | .mma x _ _ _ _ _ => x.wf
  | .mman x _ _ _ _ _ => x.wf
  | .fssq x _ _ _ _ => x.wf
  | .fldx x _ _ => x.wf
  | .frdx x _ _ _ => x.wf
  | .frd x _ _ _ _ _ _ _ => x.wf
  | .matrixRetire tile => tileKeyWf tile
  | .readoutRetire tile _ => tileKeyWf tile
  | .ermineCheck tile => tileKeyWf tile
  | .vld x _ _ _ => x.wf
  | .vst x _ _ _ => x.wf
  | .vadd x _ _ _ _ => x.wf
  | .vsub x _ _ _ _ => x.wf
  | .vmul x _ _ _ _ => x.wf
  | .vfma x _ _ _ _ => x.wf
  | .vmax x _ _ _ _ => x.wf
  | .vmin x _ _ _ _ => x.wf
  | .vand x _ _ _ _ => x.wf
  | .vor x _ _ _ _ => x.wf
  | .vxor x _ _ _ _ => x.wf
  | .vshl x _ _ _ _ => x.wf
  | .vshr x _ _ _ _ => x.wf
  | .vsra x _ _ _ _ => x.wf
  | .vcvt x _ _ _ _ _ _ _ _ _ _ => x.wf
  | .topk x _ _ _ _ => x.wf
  | .topkRetire tile => tileKeyWf tile
  | .topkm x _ _ _ _ _ => x.wf
  | .vanynf x _ _ _ => x.wf
  | .vmovs x _ _ _ => x.wf
  | .vbcast x _ _ _ => x.wf
  | .vins x _ _ _ => x.wf
  | .sarm x _ _ => x.wf
  | .sbind x _ _ => x.wf
  | .sbindr x _ _ => x.wf
  | .sstat x _ _ => x.wf
  | .streamGrant ctx up sent => decide (ctx < 4096) && up.all Upset.wf && sent.all Upset.wf
  | .streamComplete ctx => decide (ctx < 4096)
  | .vput x _ _ _ _ _ _ _ => x.wf
  | .vget x _ _ _ _ _ _ _ => x.wf
  | .voileLocalComplete tile _ => tileKeyWf tile
  | .tileVerdict tile => tileKeyWf tile
  | .moduleVerdict => true
  | .shadowCompare lt => decide (lt < 4096)
  | .tapestryRecord => true
  | .hello h b room => h.wf && b.wf && room.wf
  | .launch f => f.wf
  | .streamData h addr epoch fbit lbit data => h.wf && decide (addr < 2 ^ 48) && decide (epoch < 256) && decide (fbit < 8) && decide (lbit < 8) && decide (data.length < 65536)
  | .accw h epoch _ => h.wf && decide (epoch < 256)
  | .doneReq h addr epoch _ _ _ => h.wf && decide (addr < 2 ^ 48) && decide (epoch < 256)
  | .done h addr epoch => h.wf && decide (addr < 2 ^ 48) && decide (epoch < 256)
  | .pre h first epoch _ => h.wf && decide (first < 524288) && decide (epoch < 256)
  | .grid h first epoch _ => h.wf && decide (first < 524288) && decide (epoch < 256)
  | .part h first epoch _ => h.wf && decide (first < 524288) && decide (epoch < 256)
  | .report h first epoch _ => h.wf && decide (first < 524288) && decide (epoch < 256)
  | .result h first epoch _ => h.wf && decide (first < 524288) && decide (epoch < 256)
  | .token h lt _ _ count epoch => h.wf && decide (lt < 4096) && decide (count < 65536) && decide (epoch < 256)
  | .verdict h epoch v _ => h.wf && decide (epoch < 256) && decide (v < 4)
  | .outcome h epoch o => h.wf && decide (epoch < 256) && decide (o < 4)
  | .mready h epoch _ => h.wf && decide (epoch < 256)
  | .mrelease h epoch _ => h.wf && decide (epoch < 256)
  | .retractToken h lt srcLt reason _ epoch => h.wf && decide (lt < 4096) && decide (srcLt < 4096) && decide (reason < 256) && decide (epoch < 256)
  | .ctrlStart h _ epoch => h.wf && decide (epoch < 256)
  | .mirrorData h slot offset data => h.wf && decide (slot < 2) && decide (offset < 2 ^ 40) && decide (data.length < 65536)
  | .seal h slot _ => h.wf && decide (slot < 2)
  | .sealAck h slot => h.wf && decide (slot < 2)
  | .rdata h slot offset data => h.wf && decide (slot < 2) && decide (offset < 2 ^ 40) && decide (data.length < 65536)
  | .rend h slot _ => h.wf && decide (slot < 2)
  | .rendAck h slot => h.wf && decide (slot < 2)
  | .put h v data => h.wf && v.wf && decide (data.length < 65536)
  | .get h v up => h.wf && v.wf && up.all Upset.wf
  | .getData h v data => h.wf && v.wf && decide (data.length < 65536)
  | .putDone h v => h.wf && v.wf
  | .ack h ackseq avc _ => h.wf && decide (ackseq < 2 ^ 32) && decide (avc < 8)
  | .nak h nseq nvc code detail => h.wf && decide (nseq < 2 ^ 32) && decide (nvc < 8) && decide (code < 256) && decide (detail < 65536)
  | .linkControl port_ sub_ lseq lack _ _ => decide (port_ < 8) && decide (sub_ < 4) && decide (lseq < 2 ^ 24) && decide (lack < 2 ^ 24)
  | .arp port_ sub_ _ => decide (port_ < 8) && decide (sub_ < 4)
  | .neighbourDiscovery port_ sub_ _ => decide (port_ < 8) && decide (sub_ < 4)
  | .priorityFlowControl port_ sub_ prio _ => decide (port_ < 8) && decide (sub_ < 4) && decide (prio < 8)
  | .retransmissionTimeout peer vc seq => decide (peer < 4096) && decide (vc < 8) && decide (seq < 2 ^ 32)
  | .ackDue peer vc => decide (peer < 4096) && decide (vc < 8)
  | .helloRepeat peer route => decide (peer < 4096) && decide (route < 8)
  | .linkReplayTimeout port_ sub_ => decide (port_ < 8) && decide (sub_ < 4)
  | .lackRefresh port_ sub_ => decide (port_ < 8) && decide (sub_ < 4)
  | .ecnRateRaise peer => decide (peer < 4096)
  | .stragglerTimeout ctx => decide (ctx < 4096)
  | .hold e => e.wf
  | .release e => e.wf
  | .endJob e => e.wf
  | .setCap e capW => e.wf && decide (capW < 65536)
  | .reset e source => e.wf && decide (source < 256)
  | .tileReset e lt => e.wf && decide (lt < 65536)
  | .power e target => e.wf && decide (target < 256)
  | .coldBoot e => e.wf
  | .rollback e => e.wf
  | .push e slot => e.wf && decide (slot < 256)
  | .writeReg e addr _ _ => e.wf && decide (addr < 2 ^ 64)
  | .activate e slot => e.wf && decide (slot < 256)
  | .selectMode e mode => e.wf && decide (mode < 256)
  | .enrol e hash => e.wf && decide (hash < 2 ^ 384)
  | .revoke e slot => e.wf && decide (slot < 256)
  | .start e => e.wf
  | .read a addr count => a.wf (some 4) && decide (addr < 2 ^ 48 ∧ count < 2 ^ 32)
  | .image a slot addr data _ _ => a.wf (some data.length) && decide (slot < 256 ∧ addr < 2 ^ 48 ∧ data.length ≤ 8192)
  | .getVersion a => a.wf none
  | .getCapabilities a => a.wf none
  | .negotiateAlgorithms a _ _ => a.wf none
  | .getDigests a => a.wf none
  | .getCertificate a _ => a.wf none
  | .challenge a _ nonce => a.wf none && decide (nonce < 2 ^ 256)
  | .getMeasurements a _ _ nonce => a.wf none && decide (nonce < 2 ^ 256)
  | .setEndpointId eid => decide (eid < 256)
  | .getEndpointId => true
  | .getMctpVersionSupport => true
  | .getMessageTypeSupport => true
  | .getTid => true
  | .getPldmVersion => true
  | .getPldmTypes => true
  | .getPldmCommands _ => true
  | .getPdr handle => decide (handle < 2 ^ 32)
  | .getSensorReading _ => true
  | .getStateSensorReadings _ => true
  | .pollForPlatformEventMessage => true
  | .getFruRecordTableMetadata => true
  | .getFruRecordTable => true
  | .entdaa addr => decide (addr < 128)
  | .setdasa _ addr => decide (addr < 128)
  | .meterI3cRead offset => decide (offset < 2 ^ 24)
  | .tapInstruction _ => true
  | .supplyGlitch => true
  | .tlcHoldWrite lt _ => decide (lt < 4096)
  | .dbgEnWrite lt _ => decide (lt < 4096)
  | .force lt _ => decide (lt < 4096)
  | .go => true
  | .fdbgAccessComplete => true
  | .gdrLinkRead => true
  | .cxmLinkerrRead => true
  | .cxmLinkRead l => decide (l < 4)
  | .tshPortRead p => decide (p < 8)
  | .ermChkCfgRead => true
  | .chrLastTlRead => true
  | .registerWrite addr _ _ => decide (addr < 2 ^ 48)
  | .powerOn p => decide (p.straps < 8)
  | .resetN _ => true
  | .pwrOk _ => true
  | .regulatorFault domain => decide (domain < 72)
  | .refclkFault => true
  | .managementWatchdog => true
  | .blockLockLoss port_ sub_ => decide (port_ < 8) && decide (sub_ < 4)
  | .cxlLinkDown l => decide (l < 4)
  | .cxlRetrainTimeout l => decide (l < 4)
  | .prsntN l _ => decide (l < 4)
  | .resetHoldEnd => true
  | .resetRelease => true
  | .suppliesAndClock => true
  | .optionLoading _ => true
  | .managementBoot => true
  | .selfTest _ => true
  | .defectMap => true
  | .linkTraining _ => true
  | .topologyDiscovery => true
  | .topoWaitExpiry => true
  | .firmwareBroadcast _ => true
  | .ready => true
  | .backgroundFill => true
  | .channelRetrain ch r => decide (ch < 128) && decide (1 ≤ r.repeats ∧ r.repeats ≤ 5)
  | .correctionWriteBack _ _ up => up.all Upset.wf
  | .scrub _ up => up.all Upset.wf
  | .regulatorReading domain _ => decide (domain < 72)
  | .alphaUpdate => true
  | .temperatureEvent _ _ => true
  | .thermalLowerTimer _ => true
  | .starvationAdmission => true
  | .voltageChangeComplete g => decide (g < 64)
  | .meterStart => true
  | .readingIntervalEnd m => decide (m.durMs = 1000)
  | .tapUpdate _ _ => true
  | .delayedTag m => decide (10 ≤ m.durMs ∧ m.durMs ≤ 1000)
  | .sealSwitchOpened m => decide (m.durMs ≤ 1000)
  | .testModeEnter m => decide (m.durMs ≤ 1000)
  | .testModeLeave m => decide (m.durMs ≤ 1000)
  | .refclkRunsAgain => true
  | .regulatorReportsGood => true
  | .resetNReturnsHigh => true
  | .subPortRetrained port_ sub_ lanes => decide (port_ < 8) && decide (sub_ < 4) && decide (lanes < 256)
  | .cxlLinkRetrained l => decide (l < 4)
  | .powerTransitionComplete => true
  | .frameDiscarded port_ sub_ reason => decide (port_ < 8) && decide (sub_ < 4) && decide (reason < 256)
  | .testLogicReset => true

end Sys2Proof
end

