-- ==== Sys2Proof/Certificates/Slice0/Obligations.lean ====
section
/-! DEFINITION. What is claimed of the machine: one proposition for each obligation, after the words that they share. -/
namespace Sys2Proof.Slice0
open Machine

/-! ### Where an instruction stands -/

/-- The thread that issues at site `x`. -/
def thr (s : State) (x : Site) : Thread := s.node.thread x.tile x.thr

/-- The module asks nothing of the always-on domain, the thread of site `x` can issue (03 R81), the word's reserved bits
are zero (R106) and its predicate selects it (04 R113). -/
def Runs (s : State) (x : Site) : Prop :=
  s.node.quiet = true ∧ s.node.canIssue x = true ∧ x.res = 0 ∧ (thr s x).selects x = true

/-- `s` after the thread of site `x` has issued an instruction of `cost` slots and become `th`: the issue counters of its
tile move on (20 R593) and nothing else of the machine changes. -/
def after (s : State) (x : Site) (cost : Nat) (th : Thread) : State :=
  { s with node := s.node.setTile x.tile (((s.node.tile x.tile).issueMark x.thr cost).setThread x.thr th) }

/-- The tile of site `x` after the issue of an instruction of `cost` slots, before its effect. -/
def issued (s : State) (x : Site) (cost : Nat) : Node := s.node.modTile x.tile (·.issueMark x.thr cost)

/-! ### The scalar instructions (04 R117-R133) -/

/-- Register form of the ALU (R120): the site, the cost in slots, the destination and its value. -/
def aluReg : Instr → Option (Site × Nat × Fin 32 × (Thread → Word))
  | .add x rd ra rb => some (x, 1, rd, fun th => th.getS ra + th.getS rb)
  | .sub x rd ra rb => some (x, 1, rd, fun th => th.getS ra - th.getS rb)
  | .and x rd ra rb => some (x, 1, rd, fun th => th.getS ra &&& th.getS rb)
  | .or x rd ra rb => some (x, 1, rd, fun th => th.getS ra ||| th.getS rb)
  | .xor x rd ra rb => some (x, 1, rd, fun th => th.getS ra ^^^ th.getS rb)
  | .shl x rd ra rb => some (x, 1, rd, fun th => th.getS ra <<< (th.getS rb &&& 63).toNat)
  | .shr x rd ra rb => some (x, 1, rd, fun th => th.getS ra >>> (th.getS rb &&& 63).toNat)
  | .sra x rd ra rb => some (x, 1, rd, fun th => (th.getS ra).sshiftRight (th.getS rb &&& 63).toNat)
  | .mul x rd ra rb => some (x, 2, rd, fun th => BitVec.ofNat 64 ((th.getS ra).toNat * (th.getS rb).toNat))
  | .mulhu x rd ra rb => some (x, 2, rd, fun th => BitVec.ofNat 64 ((th.getS ra).toNat * (th.getS rb).toNat / 2 ^ 64))
  | .min x rd ra rb => some (x, 1, rd, fun th => BitVec.ofInt 64 (Min.min (th.getS ra).toInt (th.getS rb).toInt))
  | .max x rd ra rb => some (x, 1, rd, fun th => BitVec.ofInt 64 (Max.max (th.getS ra).toInt (th.getS rb).toInt))
  | .minu x rd ra rb => some (x, 1, rd, fun th => BitVec.ofNat 64 (Min.min (th.getS ra).toNat (th.getS rb).toNat))
  | .maxu x rd ra rb => some (x, 1, rd, fun th => BitVec.ofNat 64 (Max.max (th.getS ra).toNat (th.getS rb).toNat))
  | .clz x rd ra => some (x, 1, rd, fun th => BitVec.ofNat 64 (64 - (th.getS ra).toNat.size))
  | .popc x rd ra => some (x, 1, rd, fun th => BitVec.ofNat 64 ((List.range 64).countP (th.getS ra).toNat.testBit))
  | _ => none

/-- Immediate form of the ALU (R120, R121): the site, the cost, the destination, its value, and whether the immediate is
a reserved operand value (IMM[31:6] of a shift other than zero). -/
def aluImm : Instr → Option (Site × Nat × Fin 32 × (Thread → Word) × Bool)
  | .addi x rd ra i => some (x, 1, rd, fun th => th.getS ra + i.signExtend 64, false)
  | .subi x rd ra i => some (x, 1, rd, fun th => th.getS ra - i.signExtend 64, false)
  | .andi x rd ra i => some (x, 1, rd, fun th => th.getS ra &&& i.signExtend 64, false)
  | .ori x rd ra i => some (x, 1, rd, fun th => th.getS ra ||| i.signExtend 64, false)
  | .xori x rd ra i => some (x, 1, rd, fun th => th.getS ra ^^^ i.signExtend 64, false)
  | .shli x rd ra i => some (x, 1, rd, fun th => th.getS ra <<< i.toNat, decide (64 ≤ i.toNat))
  | .shri x rd ra i => some (x, 1, rd, fun th => th.getS ra >>> i.toNat, decide (64 ≤ i.toNat))
  | .srai x rd ra i => some (x, 1, rd, fun th => (th.getS ra).sshiftRight i.toNat, decide (64 ≤ i.toNat))
  | .muli x rd ra i => some (x, 2, rd, fun th => BitVec.ofInt 64 ((th.getS ra).toInt * i.toInt), false)
  | .mini x rd ra i => some (x, 1, rd, fun th => BitVec.ofInt 64 (Min.min (th.getS ra).toInt i.toInt), false)
  | .maxi x rd ra i => some (x, 1, rd, fun th => BitVec.ofInt 64 (Max.max (th.getS ra).toInt i.toInt), false)
  | .minui x rd ra i => some (x, 1, rd, fun th => BitVec.ofNat 64 (Min.min (th.getS ra).toNat (i.signExtend 64).toNat), false)
  | .maxui x rd ra i => some (x, 1, rd, fun th => BitVec.ofNat 64 (Max.max (th.getS ra).toNat (i.signExtend 64).toNat), false)
  | .lil x rd i => some (x, 1, rd, fun _ => i.signExtend 64, false)
  | .lih x rd i => some (x, 1, rd, fun th => i ++ (th.getS rd).setWidth 32, false)
  | _ => none

/-- Comparisons (R130): the site, the destination predicate and its value. -/
def compares : Instr → Option (Site × Fin 8 × (Thread → Bool))
  | .cmpEq x pd ra rb => some (x, pd, fun th => decide (th.getS ra = th.getS rb))
  | .cmpNe x pd ra rb => some (x, pd, fun th => decide (th.getS ra ≠ th.getS rb))
  | .cmpLt x pd ra rb => some (x, pd, fun th => decide ((th.getS ra).toInt < (th.getS rb).toInt))
  | .cmpGe x pd ra rb => some (x, pd, fun th => decide ((th.getS rb).toInt ≤ (th.getS ra).toInt))
  | .cmpLtu x pd ra rb => some (x, pd, fun th => decide ((th.getS ra).toNat < (th.getS rb).toNat))
  | .cmpGeu x pd ra rb => some (x, pd, fun th => decide ((th.getS rb).toNat ≤ (th.getS ra).toNat))
  | .cmpAny x pd ra rb => some (x, pd, fun th => decide (th.getS ra &&& th.getS rb ≠ 0))
  | .cmpNone x pd ra rb => some (x, pd, fun th => decide (th.getS ra &&& th.getS rb = 0))
  | .cmpiEq x pd ra i => some (x, pd, fun th => decide (th.getS ra = i.signExtend 64))
  | .cmpiNe x pd ra i => some (x, pd, fun th => decide (th.getS ra ≠ i.signExtend 64))
  | .cmpiLt x pd ra i => some (x, pd, fun th => decide ((th.getS ra).toInt < i.toInt))
  | .cmpiGe x pd ra i => some (x, pd, fun th => decide (i.toInt ≤ (th.getS ra).toInt))
  | .cmpiLtu x pd ra i => some (x, pd, fun th => decide ((th.getS ra).toNat < (i.signExtend 64).toNat))
  | .cmpiGeu x pd ra i => some (x, pd, fun th => decide ((i.signExtend 64).toNat ≤ (th.getS ra).toNat))
  | .cmpiAny x pd ra i => some (x, pd, fun th => decide (th.getS ra &&& i.signExtend 64 ≠ 0))
  | .cmpiNone x pd ra i => some (x, pd, fun th => decide (th.getS ra &&& i.signExtend 64 = 0))
  | _ => none

/-- Predicate logic (R131). -/
def plogs : Instr → Option (Site × Fin 8 × (Thread → Bool))
  | .plogAnd x pd pa na pb nb => some (x, pd, fun th => (th.getP pa != na) && (th.getP pb != nb))
  | .plogOr x pd pa na pb nb => some (x, pd, fun th => (th.getP pa != na) || (th.getP pb != nb))
  | .plogXor x pd pa na pb nb => some (x, pd, fun th => (th.getP pa != na) != (th.getP pb != nb))
  | _ => none

/-- The job coordinates that GETC selects (R123). -/
def coordinate (s : State) (x : Site) : Nat → Word
  | 0 => s.node.commit.now.step
  | 1 => BitVec.ofNat 64 (x.tile % 4096)
  | 2 => BitVec.ofNat 64 x.thr.val
  | 3 => BitVec.ofNat 64 s.node.job.node
  | 4 => BitVec.ofNat 64 s.node.job.nnodes
  | 5 => s.node.commit.now.skips
  | 6 => s.node.commit.now.cursor
  | 7 => BitVec.ofNat 64 s.node.job.highLt
  | 8 => 256
  | _ => BitVec.ofNat 64 s.node.job.id

/-- A branch (R132, R133): the thread after it. -/
def branches : Instr → Option (Site × (Thread → Thread))
  | .br x target => some (x, fun th => { th with pc := target.toNat })
  | .call x rd target => some (x, fun th => { th.setS rd (BitVec.ofNat 64 (th.pc + 1)) with pc := target.toNat })
  | .brr x ra => some (x, fun th => { th with pc := (th.getS ra).toNat % 4096 })
  | .callr x rd ra => some (x, fun th => { th.setS rd (BitVec.ofNat 64 (th.pc + 1)) with pc := (th.getS ra).toNat % 4096 })
  | .bdec x rd target => some (x, fun th =>
      if th.getS rd = 1 then { th.setS rd 0 with pc := (th.pc + 1) % 4096 }
      else { th.setS rd (th.getS rd - 1) with pc := target.toNat })
  | _ => none

/-! ### Every tile instruction -/

/-- The site at which a tile instruction (04, 05) issues; none for a command of another kind. -/
def siteOf : Instr → Option Site
  | .nop x _ | .add x _ _ _ | .sub x _ _ _ | .and x _ _ _ | .or x _ _ _ | .xor x _ _ _ | .shl x _ _ _ | .shr x _ _ _
  | .sra x _ _ _ | .mul x _ _ _ | .mulhu x _ _ _ | .min x _ _ _ | .max x _ _ _ | .minu x _ _ _ | .maxu x _ _ _
  | .clz x _ _ | .popc x _ _ => some x
  | .addi x _ _ _ | .subi x _ _ _ | .andi x _ _ _ | .ori x _ _ _ | .xori x _ _ _ | .shli x _ _ _ | .shri x _ _ _
  | .srai x _ _ _ | .muli x _ _ _ | .mini x _ _ _ | .maxi x _ _ _ | .minui x _ _ _ | .maxui x _ _ _
  | .lil x _ _ | .lih x _ _ | .getc x _ _ => some x
  | .ld8u x _ _ _ | .ld16u x _ _ _ | .ld32u x _ _ _ | .ld64 x _ _ _ | .ld8s x _ _ _ | .ld16s x _ _ _ | .ld32s x _ _ _
  | .st8 x _ _ _ | .st16 x _ _ _ | .st32 x _ _ _ | .st64 x _ _ _ | .mfence x => some x
  | .cmpEq x _ _ _ | .cmpNe x _ _ _ | .cmpLt x _ _ _ | .cmpGe x _ _ _ | .cmpLtu x _ _ _ | .cmpGeu x _ _ _
  | .cmpAny x _ _ _ | .cmpNone x _ _ _ | .cmpiEq x _ _ _ | .cmpiNe x _ _ _ | .cmpiLt x _ _ _ | .cmpiGe x _ _ _
  | .cmpiLtu x _ _ _ | .cmpiGeu x _ _ _ | .cmpiAny x _ _ _ | .cmpiNone x _ _ _ => some x
  | .plogAnd x _ _ _ _ _ | .plogOr x _ _ _ _ _ | .plogXor x _ _ _ _ _ => some x
  | .br x _ | .call x _ _ | .brr x _ | .callr x _ _ | .bdec x _ _ | .exit x => some x
  | .tsend x _ _ _ _ _ _ | .tsendr x _ _ | .twait x _ _ _ _ | .bar x _ _ | .tread x _ _ | .pmark x _ | .stend x _ _ _
  | .retract x _ | .dbgrd x _ _ _ _ _ | .dbgwr x _ _ _ _ _ | .dbgbrk x _ => some x
  | .falloc x _ _ | .ffree x _ | .fstat x _ _ _ | .finv x _ _ _ | .fsumr x _ | .mma x _ _ _ _ _ | .mman x _ _ _ _ _
  | .fssq x _ _ _ _ | .fldx x _ _ | .frdx x _ _ _ | .frd x _ _ _ _ _ _ _ => some x
  | .vld x _ _ _ | .vst x _ _ _ | .vadd x _ _ _ _ | .vsub x _ _ _ _ | .vmul x _ _ _ _ | .vfma x _ _ _ _ | .vmax x _ _ _ _
  | .vmin x _ _ _ _ | .vand x _ _ _ _ | .vor x _ _ _ _ | .vxor x _ _ _ _ | .vshl x _ _ _ _ | .vshr x _ _ _ _
  | .vsra x _ _ _ _ | .vcvt x _ _ _ _ _ _ _ _ _ _ | .topk x _ _ _ _ | .topkm x _ _ _ _ _ | .vanynf x _ _ _
  | .vmovs x _ _ _ | .vbcast x _ _ _ | .vins x _ _ _ => some x
  | .sarm x _ _ | .sbind x _ _ | .sbindr x _ _ | .sstat x _ _ | .vput x _ _ _ _ _ _ _ | .vget x _ _ _ _ _ _ _ => some x
  | _ => none

/-- A reserved operand value (R106): an unassigned word, IMM[31:6] of a shift, SEL, CHUNK, RM, T and OV values that their
rules reserve (04 R121, R123, R134, R137, R142, R148, 05 R159, R160, R168, R174-R179, R184). -/
def reserved : Instr → Bool
  | .nop _ bad => bad
  | .shli _ _ _ i | .shri _ _ _ i | .srai _ _ _ i => decide (64 ≤ i.toNat)
  | .getc _ _ sel => decide (10 ≤ sel.toNat)
  | .tsend _ node loc _ _ _ count => decide (count = 0) || (loc && decide (node ≠ 0))
  | .twait _ _ r ra count => if r then decide (count ≠ 0) else decide (ra ≠ 0)
  | .stend _ v pv vn => !v && (decide (pv ≠ 0) || vn)
  | .dbgrd _ _ _ _ _ c | .dbgwr _ _ _ _ _ c => decide (11 ≤ c.toNat)
  | .fstat _ _ _ sel => decide (3 ≤ sel.toNat)
  | .finv _ _ _ sel => decide (4 ≤ sel.toNat)
  | .frd _ _ _ rm _ _ _ _ => decide (6 ≤ rm.toNat)
  | .vadd _ _ _ _ o | .vsub _ _ _ _ o | .vmul _ _ _ _ o | .vfma _ _ _ _ o =>
    decide (5 ≤ o.t.toNat) || (if o.t.toNat ≤ 2 then decide (5 ≤ o.rm.toNat) else decide (o.rm ≠ 0))
  | .vmax _ _ _ _ o | .vmin _ _ _ _ o => decide (5 ≤ o.t.toNat) || decide (o.rm ≠ 0) || o.ov
  | .vand _ _ _ _ o | .vor _ _ _ _ o | .vxor _ _ _ _ o => decide (o.t ≠ 0) || decide (o.rm ≠ 0) || o.ov
  | .vshl _ _ _ _ o | .vshr _ _ _ _ o | .vsra _ _ _ _ o => decide (o.t ≠ 3 ∧ o.t ≠ 4) || decide (o.rm ≠ 0) || o.ov
  | .vcvt _ st dt _ _ part rm _ ra rb rc => cvtBad st dt part rm ra rb rc
  | .vanynf _ _ _ t => decide (3 ≤ t.toNat)
  | .vbcast _ _ _ t => decide (5 ≤ t.toNat)
  | .vput _ _ _ _ loc rn _ _ | .vget _ _ _ _ loc rn _ _ => loc && decide (rn ≠ 0)
  | _ => false

/-- No fault or retraction has counted for tile `t` in this step, and no interval is open in which a fault of it may take the
place of another (03 R105, R110). -/
def calm (s : State) (t : Nat) : Prop := (s.node.tile t).recur = [] ∧ (s.node.tile t).sameIv = false

/-- The record of a first illegal-instruction fault, and MORE for a further one (R110). -/
def illegalRecord (f : FaultRec) (th pc : Nat) (hi : BitVec 32) : FaultRec :=
  if f.valid then { f with more := true }
  else { valid := true, more := f.more, cls := 1, thr := th, pc := pc, detail := hi, addr := 0 }

/-! ### Memory -/

/-- Scalar loads (R124): the site, the destination, the base, the offset, the bytes read and whether they are signed. -/
def loads : Instr → Option (Site × Fin 32 × Fin 32 × BitVec 32 × Nat × Bool)
  | .ld8u x rd ra off => some (x, rd, ra, off, 1, false)
  | .ld16u x rd ra off => some (x, rd, ra, off, 2, false)
  | .ld32u x rd ra off => some (x, rd, ra, off, 4, false)
  | .ld64 x rd ra off => some (x, rd, ra, off, 8, false)
  | .ld8s x rd ra off => some (x, rd, ra, off, 1, true)
  | .ld16s x rd ra off => some (x, rd, ra, off, 2, true)
  | .ld32s x rd ra off => some (x, rd, ra, off, 4, true)
  | _ => none

/-- Scalar stores (R124): the site, the source, the base, the offset and the bytes written. -/
def stores : Instr → Option (Site × Fin 32 × Fin 32 × BitVec 32 × Nat)
  | .st8 x rs ra off => some (x, rs, ra, off, 1)
  | .st16 x rs ra off => some (x, rs, ra, off, 2)
  | .st32 x rs ra off => some (x, rs, ra, off, 4)
  | .st64 x rs ra off => some (x, rs, ra, off, 8)
  | _ => none

/-- The effective address (R124): ra + sext(OFF) modulo 2^64. -/
def effective (th : Thread) (ra : Fin 32) (off : BitVec 32) : Nat := (th.getS ra + off.signExtend 64).toNat

/-- The byte at `a` as a reader with view `v` meets it, a byte that nothing has written having its `f`-th free value. -/
def byteAt (s : State) (f v a : Nat) : Byte := ({ s.node with free := f } : Node).rd v a

/-- The little-endian number in `len` bytes from `a`. -/
def numberAt (s : State) (f v a len : Nat) : Nat := leNat ((List.range len).map fun k => byteAt s f v (a + k))

/-- Every byte outside `len` bytes from `a` reads as before. -/
def keepsOthers (s t : State) (a len : Nat) : Prop :=
  ∀ f v b, (b < a ∨ a + len ≤ b) → byteAt t f v b = byteAt s f v b

/-- Every byte reads as before. -/
def keepsMemory (s t : State) : Prop := ∀ f v b, byteAt t f v b = byteAt s f v b

/-- `len` bytes from `a` need no region of the CXL tier to be filled first (18 R534). -/
def regionsReady (s : State) (a len : Nat) : Prop :=
  ∀ k, k < len → s.node.place (a + k) = .cxl → s.node.cxlFilled (a + k) = true

/-- No thread but that of site `x` has changed. -/
def keepsThreads (s t : State) (x : Site) : Prop :=
  ∀ u j, ¬(u = x.tile ∧ j = x.thr.val) → t.node.thread u j = s.node.thread u j

/-- Every word of the machine can be read as it stands, and none is about to arrive changed: no memory has an uncorrectable word
for any reader, no line of the shared fetch cache has one, and no flaw travels (10 R302, 09 R295, 14 R427). -/
def Sound (s : State) : Prop :=
  s.node.wire = [] ∧ ∀ w, (∀ v, s.node.storedEcc v w ≠ .bad) ∧ s.node.lineEcc w ≠ some .bad

/-- `s` with what silicon changed before a command read (10 R302). -/
def struck (s : State) (up : List Upset) : State := { s with node := s.node.upsets up }

/-- A reader with view `v` can read words `ws` as they stand: from the shared fetch cache where that holds them, else where
they are stored. -/
def readable (s : State) (v : Nat) (ws : List Nat) : Prop :=
  ∀ w ∈ ws, match s.node.lineEcc w with
    | none => s.node.storedEcc v w ≠ .bad
    | some e => e ≠ .bad

/-- `len` bytes can be written at `a`: the words that they cover only in part can be read as they stand, and no flaw travels
there. -/
def writable (s : State) (a len : Nat) : Prop :=
  (∀ w ∈ partWords a len, (∀ v, s.node.storedEcc v w ≠ .bad) ∧ s.node.lineEcc w ≠ some .bad) ∧
  ∀ w ∈ wordsOf a len, Map.look s.node.wire w = none

/-- Where no check refuses a scalar access of `size` bytes at `a`: the address has 48 bits (R125) and every byte lies in
tile SRAM, GDDR7 or the populated CXL tier (R126, R59). -/
def inMemory (s : State) (a size : Nat) : Prop := a < 2 ^ 48 ∧ s.node.badAddr a size = none

/-! ### Tokens, barriers, phases and the end of a step -/

/-- The count of a TWAIT (R137): in its encoding or in ra[15:0]. -/
def waited (th : Thread) (r : Bool) (ra : Fin 32) (count : BitVec 16) : Nat :=
  if r then (th.getS ra).toNat % 65536 else count.toNat

/-- What a token names: within the node, the node, the logical tile, the thread, the counter and the count. -/
structure Dest where
  loc   : Bool
  node  : Nat
  lt    : Nat
  thr   : Nat
  ctr   : Nat
  count : Nat

/-- What TSEND and TSENDR send (R134, R135). -/
def sends (s : State) : Instr → Option (Site × Dest)
  | .tsend x node loc lt thr ctr count => some (x, ⟨loc, node.toNat, lt.toNat, thr, ctr, count.toNat⟩)
  | .tsendr x ra rb =>
    let d := ((thr s x).getS ra).toNat
    some (x, ⟨d.testBit 18, d / 2 ^ 19 % 2 ^ 12, d % 2 ^ 12, d / 2 ^ 12 % 8, d / 2 ^ 15 % 8, ((thr s x).getS rb).toNat % 65536⟩)
  | _ => none

/-- Whether a destination lies within the node. -/
def Dest.here (d : Dest) (s : State) : Prop := d.loc = true ∨ d.node = s.node.self

/-- The thread of site `x` has become `th`, every other thread and all of memory is as it was, and the always-on domain
too. -/
def onlyThread (s t : State) (x : Site) (th : Thread) : Prop :=
  t.node.thread x.tile x.thr = th ∧ keepsThreads s t x ∧ keepsMemory s t ∧ t.chip = s.chip

/-- Between `s` and `t` one event was sent: `code` about `lt` with `detail` (20 R594). -/
def sentEvent (s t : State) (code lt : Nat) (detail : Word) : Prop :=
  t.node.evSeq = s.node.evSeq + 1 ∧ ∃ e, Map.look t.node.events (s.node.evSeq % 1024) = some e ∧
    e.code = code ∧ e.lt = lt ∧ e.detail = detail ∧ e.seq = s.node.evSeq

/-- The first waiting thread or a later one may have been admitted to its phase; else no other thread has changed. -/
def onlyAdmits (s t : State) (x : Site) : Prop :=
  ∀ u j, ¬(u = x.tile ∧ j = x.thr.val) → t.node.thread u j = s.node.thread u j ∨
    ∃ p, (s.node.thread u j).wait = .admission p ∧ t.node.thread u j = { s.node.thread u j with wait := .ready }

/-- The thread halted where it stood with the record of an illegal instruction, and tainted the step. -/
def faulted (s t : State) (x : Site) : Prop :=
  t.node.thread x.tile x.thr = { thr s x with wait := .halted } ∧
  (t.node.tile x.tile).fault = illegalRecord (s.node.tile x.tile).fault x.thr (thr s x).pc x.hi ∧
  (t.node.tile x.tile).tainted = true ∧ t.node.commit.tainted = true ∧ keepsThreads s t x ∧ keepsMemory s t

/-- Which threads a barrier has seen once the thread of site `x` is there. -/
def arrivals (b : Option Barrier) (x : Site) : List Nat :=
  match b with
  | none => [x.thr.val]
  | some b => if b.arrived.contains x.thr.val then b.arrived else b.arrived ++ [x.thr.val]

/-- Whether every thread of a participant set has arrived or has no code (R139). -/
def allThere (s : State) (tile set : Nat) (there : List Nat) : Prop :=
  ∀ i, i < 8 → set.testBit i = true → i ∈ there ∨ (s.node.thread tile i).hasCode = false

/-! ### Felt arrays and the matrix queue -/

/-- Array `f` of the tile of site `x`. -/
def arr (s : State) (x : Site) (f : Nat) : Felt := (s.node.tile x.tile).arr f

/-- What an M instruction puts into the queue at its issue (05 R154, R161-R172): the site, the array, whether a strict
array is refused, the operation with its bindings and register values, and whether it is a readout. -/
def queues (s : State) : Instr → Option (Site × Fin 2 × Bool × MOp × Bool)
  | .fsumr x f => some (x, f, true, .fsumr, false)
  | .mma x f aa ab rk rij =>
    some (x, f, false, .mma false (s.node.handle x aa) (s.node.handle x ab) ((thr s x).getS rk) ((thr s x).getS rij), false)
  | .mman x f aa ab rk rij =>
    some (x, f, false, .mma true (s.node.handle x aa) (s.node.handle x ab) ((thr s x).getS rk) ((thr s x).getS rij), false)
  | .fssq x f ab rk rij =>
    some (x, f, true, .fssq (s.node.handle x ab) ((thr s x).getS rk) ((thr s x).getS rij), false)
  | .fldx x f ra => some (x, f, true, .fldx (((thr s x).getS ra).toNat % 2 ^ 19), false)
  | .frdx x f clr ra => some (x, f, true, .frdx (((thr s x).getS ra).toNat % 2 ^ 19) clr, true)
  | .frd x f ad rm ov sr clr rij =>
    some (x, f, false, .frd (s.node.handle x ad) rm.toNat ov sr clr ((thr s x).getS rij), true)
  | _ => none

/-- The operand values that an M instruction refuses at its issue: an exact-record region that leaves the SRAM (R171), and
SR with a destination that is not in a block format (R168). -/
def refusedAtIssue (s : State) (x : Site) : MOp → Bool
  | .fldx o | .frdx o _ => decide (2 ^ 19 < o + 98336)
  | .frd h _ _ sr _ _ => sr && (match h.bind (s.node.tile x.tile).descAt with
    | none => false
    | some d => (elemOf d.side0.fmt).isSome && !isBlock d.side0.fmt)
  | _ => false

/-- Places of the queue that thread `i` holds (R154). -/
def places (s : State) (tile i : Nat) : Nat := ((s.node.tile tile).queue.filter fun e => e.thr == i && e.counts).length

/-- No other thread has changed but those that waited on a register, an array or a bound, which look again. -/
def onlyWakes (s t : State) (tile i : Nat) : Prop :=
  (∀ u j, u ≠ tile → t.node.thread u j = s.node.thread u j) ∧
  (∀ j, j ≠ i → t.node.thread tile j = s.node.thread tile j ∨
    (((s.node.thread tile j).wait = .reg ∨ (s.node.thread tile j).wait = .bound ∨ ∃ f, (s.node.thread tile j).wait = .felt f) ∧
      t.node.thread tile j = { s.node.thread tile j with wait := .ready }))

/-- The thread of site `x` waits as `w` says and the machine is otherwise as it was. -/
def waits (s : State) (x : Site) (w : Wait) : State :=
  { s with node := s.node.setThread x.tile x.thr { thr s x with wait := w } }

/-- What the oldest engine instruction makes of its array (05 R161-R167), where its descriptors are fit: the array and the
flags that it marks. -/
def engineResult (s : State) (tile : Nat) (e : MEntry) : Option (Felt × Marks) :=
  let x := s.node.tile tile
  let a := x.arr e.f
  let lt := ltOf tile
  match e.op with
  | .mma neg ha hb rk rij =>
    let k0 := rk.toNat % 2 ^ 32
    let cnt := rk.toNat / 2 ^ 32
    let i0 := rij.toNat % 2 ^ 32
    let j0 := rij.toNat / 2 ^ 32
    (x.fit .operand lt ha).bind fun da => (x.fit .operand lt hb).bind fun db =>
      (pairGroup da.side0 db.side0 k0 cnt).map fun g =>
        let b : Felt := { a with turned := a.turned || da.turned || db.turned }
        let ra := s.node.rows tile da k0 cnt i0
        let rb := s.node.rows tile db k0 cnt j0
        if a.strict then (b.strictMma neg ra rb, ⟨false, false, false⟩)
        else b.mma neg g ra rb fun i j => (span k0 cnt).map fun k =>
          ⟨da.pglobal da.side0 0 k, da.pglobal da.side0 1 (i0 + i), db.pglobal db.side0 1 (j0 + j)⟩
  | .fssq hb rk rij =>
    let k0 := rk.toNat % 2 ^ 32
    let cnt := rk.toNat / 2 ^ 32
    let j0 := rij.toNat / 2 ^ 32
    (x.fit .operand lt hb).bind fun d => (pairGroup d.side0 d.side0 k0 cnt).map fun g =>
      ({ a with turned := a.turned || d.turned } : Felt).fssq (if isBlock d.side0.fmt then g else 1) (s.node.rows tile d k0 cnt j0)
  | .fsumr => some a.fsumr
  | .fldx o => some (a.fldx (s.node.rdBytes tile (sramAddr lt o) 98336))
  | _ => none

/-- The value of a finite number in units of 2^-298, as a rational. -/
def exactOf : Val → Rat
  | .fin n m e => (if n then -1 else 1) * (m : Rat) * (if 0 ≤ e then (2 : Rat) ^ e.toNat else 1 / (2 : Rat) ^ (-e).toNat)
  | _ => 0

/-- A finite element of a format of the machine: its exponent is at least −149 (06 R187). -/
def finiteElem : Option Val → Bool
  | none => true
  | some (.fin _ _ e) => decide (-149 ≤ e)
  | some _ => false

/-- Σ over k of a(k, i) × b(k, j), an element outside an extent counting as zero. -/
def dotOf (ra rb : Rows) (i j : Nat) : Rat :=
  ((ra.zip rb).map fun ab => exactOf ((ab.1.getD i none).getD (.fin false 0 0)) *
    exactOf ((ab.2.getD j none).getD (.fin false 0 0))).foldl (· + ·) 0

/-- The sum of the magnitudes of the same products. -/
def loadOf (ra rb : Rows) (i j : Nat) : Rat :=
  ((ra.zip rb).map fun ab => |exactOf ((ab.1.getD i none).getD (.fin false 0 0)) *
    exactOf ((ab.2.getD j none).getD (.fin false 0 0))|).foldl (· + ·) 0

/-- What a readout leaves of ERM_CHK_CFG (R454): its UNCHECKED count one higher, and never above its greatest value, where the
readout is not checked; the register as it was where it is. -/
def countedIf (s t : State) (unchecked : Bool) : Prop :=
  let c := s.node.guard.chkCfg
  let d := t.node.guard.chkCfg
  fld d 8 32 = (if unchecked then Min.min (fld c 8 32 + 1) (2 ^ 32 - 1) else fld c 8 32) ∧ fld d 0 8 = fld c 0 8 ∧
  fld d 40 24 = fld c 40 24

/-- An array with a bit of one cell turned over before a readout, or as it is (14 R427). -/
def flipped (a : Felt) : Option (Fin 32 × Fin 32 × Nat) → Felt
  | none => a
  | some (i, j, b) => a.flip (32 * i.val + j.val) b

/-! ### The vector unit -/

/-- `s` after a vector instruction of `cost` slots whose thread became `th`, with VOVF and VINV set where it says so. -/
def afterV (s : State) (x : Site) (cost : Nat) (th : Thread) (ovf inv : Bool) : State :=
  let y := ((s.node.tile x.tile).issueMark x.thr cost).setThread x.thr th
  let flags := (s.node.tile x.tile).flags ||| BitVec.ofNat 6 ((if ovf then 8 else 0) + (if inv then 16 else 0))
  { s with node := s.node.setTile x.tile { y with flags := flags } }

/-- Bits per lane of a lane type (R174): 0 bfloat16, 1 binary16, 2 binary32, 3 INT16, 4 INT32. -/
def widthOf (t : Nat) : Nat := if t = 2 ∨ t = 4 then 32 else 16

/-- Lane `k` of width `w` of a register. -/
def laneOf (v : VReg) (w k : Nat) : Nat := v.toNat / 2 ^ (w * k) % 2 ^ w

/-- A lane as a signed number. -/
def signedOf (w a : Nat) : Int := if 2 ^ (w - 1) ≤ a then (a : Int) - 2 ^ w else a

/-- An integer lane (R175): the exact result wraps, or saturates with OV; VOVF says that it left the range. -/
def intResult (w : Nat) (ov : Bool) (y : Int) : Nat × Bool × Bool :=
  let out := decide (y < -(2 ^ (w - 1)) ∨ 2 ^ (w - 1) ≤ y)
  let z := if ov && out then (if y < 0 then -(2 ^ (w - 1)) else 2 ^ (w - 1) - 1) else y
  ((z % 2 ^ w).toNat, out, false)

/-- A floating-point lane (R175, 06 R202-R206): one exact value, rounded once. -/
def fpResult (f : FloatFmt) (o : VOpts) (r : Val × Bool) : Nat × Bool × Bool :=
  ((f.encode o.rm.toNat o.ov 0 r.1).bits, (f.encode o.rm.toNat o.ov 0 r.1).ovf, r.2)

/-- The lane functions of VADD, VSUB, VMUL and VFMA. -/
def arithOf (o : VOpts) (ff : Val → Val → Val → Val × Bool) (fi : Int → Int → Int → Int) (a b d : Nat) : Nat × Bool × Bool :=
  match o.t.toNat with
  | 0 => fpResult bf16 o (ff (bf16.decode a) (bf16.decode b) (bf16.decode d))
  | 1 => fpResult fp16 o (ff (fp16.decode a) (fp16.decode b) (fp16.decode d))
  | 2 => fpResult fp32 o (ff (fp32.decode a) (fp32.decode b) (fp32.decode d))
  | t => intResult (widthOf t) o.ov (fi (signedOf (widthOf t) a) (signedOf (widthOf t) b) (signedOf (widthOf t) d))

/-- VMAX and VMIN of integer lanes and of numbers; a NaN gives way to the other lane (06 R205). -/
def pickOf (max : Bool) (t a b : Nat) : Nat × Bool × Bool :=
  match t with
  | 0 => pickLane max 0 a b
  | 1 => pickLane max 1 a b
  | 2 => pickLane max 2 a b
  | _ => (if (if max then signedOf (widthOf t) b ≤ signedOf (widthOf t) a else signedOf (widthOf t) a ≤ signedOf (widthOf t) b)
      then a else b, false, false)

/-- Opcode 0x21 (R174-R176): the site, the cost, vd, va, vb, the lane width, and each lane of the result from the lanes of
va, vb and the old vd. -/
def lanes : Instr → Option (Site × Nat × Fin 32 × Fin 32 × Fin 32 × Nat × (Nat → Nat → Nat → Nat × Bool × Bool))
  | .vadd x vd va vb o => some (x, widthOf o.t.toNat / 16, vd, va, vb, widthOf o.t.toNat,
      arithOf o (fun a b _ => a.add b) (fun a b _ => a + b))
  | .vsub x vd va vb o => some (x, widthOf o.t.toNat / 16, vd, va, vb, widthOf o.t.toNat,
      arithOf o (fun a b _ => a.add b.neg) (fun a b _ => a - b))
  | .vmul x vd va vb o => some (x, widthOf o.t.toNat / 16, vd, va, vb, widthOf o.t.toNat,
      arithOf o (fun a b _ => a.mul b) (fun a b _ => a * b))
  | .vfma x vd va vb o => some (x, widthOf o.t.toNat / 16, vd, va, vb, widthOf o.t.toNat,
      arithOf o (fun a b d => a.fma b d) (fun a b d => a * b + d))
  | .vmax x vd va vb o => some (x, widthOf o.t.toNat / 16, vd, va, vb, widthOf o.t.toNat, fun a b _ => pickOf true o.t.toNat a b)
  | .vmin x vd va vb o => some (x, widthOf o.t.toNat / 16, vd, va, vb, widthOf o.t.toNat, fun a b _ => pickOf false o.t.toNat a b)
  | .vand x vd va vb _ => some (x, 1, vd, va, vb, 16, fun a b _ => (a &&& b, false, false))
  | .vor x vd va vb _ => some (x, 1, vd, va, vb, 16, fun a b _ => (a ||| b, false, false))
  | .vxor x vd va vb _ => some (x, 1, vd, va, vb, 16, fun a b _ => (a ^^^ b, false, false))
  | .vshl x vd va vb o => some (x, widthOf o.t.toNat / 16, vd, va, vb, widthOf o.t.toNat, fun a b _ =>
      (a * 2 ^ (b % widthOf o.t.toNat) % 2 ^ widthOf o.t.toNat, false, false))
  | .vshr x vd va vb o => some (x, widthOf o.t.toNat / 16, vd, va, vb, widthOf o.t.toNat, fun a b _ =>
      (a / 2 ^ (b % widthOf o.t.toNat), false, false))
  | .vsra x vd va vb o => some (x, widthOf o.t.toNat / 16, vd, va, vb, widthOf o.t.toNat, fun a b _ =>
      ((signedOf (widthOf o.t.toNat) a / 2 ^ (b % widthOf o.t.toNat) % 2 ^ widthOf o.t.toNat).toNat, false, false))
  | _ => none

/-- The vector registers that a vector instruction reads or writes (R173-R181). -/
def vregs : Instr → Option (Site × List (Fin 32))
  | .vadd x vd va vb _ | .vsub x vd va vb _ | .vmul x vd va vb _ | .vfma x vd va vb _ | .vmax x vd va vb _
  | .vmin x vd va vb _ | .vand x vd va vb _ | .vor x vd va vb _ | .vxor x vd va vb _ | .vshl x vd va vb _
  | .vshr x vd va vb _ | .vsra x vd va vb _ | .topkm x vd va vb _ _ => some (x, [vd, va, vb])
  | .vcvt x _ _ vd vs _ _ _ _ _ _ => some (x, [vd, vs])
  | .vanynf x _ vs _ | .vmovs x _ vs _ => some (x, [vs])
  | .vbcast x vd _ _ | .vins x vd _ _ | .topk x vd _ _ _ | .vld x vd _ _ => some (x, [vd])
  | .vst x vs _ _ => some (x, [vs])
  | _ => none

/-- No TOPK has yet to write one of these registers (R181). -/
def settled (s : State) (x : Site) (rs : List (Fin 32)) : Prop := ∀ r ∈ rs, r.val ∉ (thr s x).vbusy

/-- The offset of a vector access in the tile's SRAM (R173). -/
def vectorAt (s : State) (x : Site) (ra : Fin 32) (off : BitVec 32) : Nat := ((thr s x).getS ra + off.signExtend 64).toNat

/-- Elements of a conversion, and the group that a side of width `a` uses beside one of width `b` (R177). -/
def elemsOf (a b : Nat) : Nat := if a = 32 ∨ b = 32 then 32 else 64

/-- The group of a register in which the elements of the narrower side lie. -/
def groupIn (a b part : Nat) : Nat := if a ≤ b then part else 0

/-- `w` bits of a register from bit `lo`. -/
def regBits (v : VReg) (lo w : Nat) : Nat := v.toNat / 2 ^ lo % 2 ^ w

/-- The uniform bits of element `e` of a conversion (R177, 06 R211): with RM 5 the hash of the seed, the committed step
count, ra and rb + e × rc. -/
def uniformOf (s : State) (x : Site) (rm : BitVec 3) (ra rb rc : Fin 32) (e : Nat) : Nat :=
  if rm.toNat = 5 then
    (srHash s.node.job.seed s.node.commit.now.step (((thr s x).getS ra).setWidth 32)
      ((thr s x).getS rb + BitVec.ofNat 64 e * (thr s x).getS rc)).toNat
  else 0

/-- The entries of a top-k state (R180). -/
def entriesIn (v : VReg) : List (Nat × Nat) :=
  ((List.range (Min.min 8 (regBits v 768 4))).map fun i => (regBits v (32 * i) 32, regBits v (256 + 64 * i) 64)).filter
    fun e => decide (fp32.decode e.1 ≠ .nan)

/-- Whether entry `a` is better than `b` (R181): the greater value, or the smaller with DIR; of equal ones the lower index. -/
def better (small : Bool) (a b : Nat × Nat) : Prop :=
  (if small then (fp32.decode a.1).lt (fp32.decode b.1) else (fp32.decode b.1).lt (fp32.decode a.1)) = true ∨
  ((fp32.decode a.1).lt (fp32.decode b.1) = false ∧ (fp32.decode b.1).lt (fp32.decode a.1) = false ∧ a.2 < b.2)

/-! ### What lands element by element -/

/-- `w` bits from bit `b` as a reader with view `v` meets them. -/
def bitsAt (s : State) (f v b w : Nat) : Nat := ({ s.node with free := f } : Node).rdBits v b w

/-- Element writes of which no two share a bit. -/
def apart (es : List EWrite) : Prop := es.Pairwise fun a b => a.bit + a.w ≤ b.bit ∨ b.bit + b.w ≤ a.bit

/-- Element writes that find their place: in memory, in filled regions of the CXL tier, on words that can be read as they
stand and to which no flaw travels, and themselves sound. -/
def landable (s : State) (es : List EWrite) : Prop :=
  (∀ e ∈ es, e.poison = false ∧ 0 < e.w) ∧
  ∀ a ∈ touched es, (s.node.stretchEnd a).isSome = true ∧ (s.node.place a = .cxl → s.node.cxlFilled a = true) ∧
    (∀ v, s.node.storedEcc v (a / 8) ≠ .bad) ∧ s.node.lineEcc (a / 8) ≠ some .bad ∧ Map.look s.node.wire (a / 8) = none

/-- Element writes have landed as view `v` meets them: each has its bits, and every byte that none touches reads as before. -/
def landed (s t : State) (v : Nat) (es : List EWrite) : Prop :=
  (∀ f, ∀ e ∈ es, bitsAt t f v e.bit e.w = e.v % 2 ^ e.w) ∧
  ∀ f u b, (∀ e ∈ es, b < e.bit / 8 ∨ (e.bit + e.w - 1) / 8 < b) → byteAt t f u b = byteAt s f u b

/-! ### Streams -/

/-- The descriptor that an arming of a context acts by (09 R272, 05 R182). -/
def descOf (s : State) (x : Ctx) : Option Desc := (s.node.ctxDesc x).map fun d => (s.node.armDesc d).moved x.arm.off

/-- What SARM arms: the descriptor table index and the descriptor with its window moved (R182, R272). -/
def armed (s : State) (x : Site) (an : Fin 8) (ra : Fin 32) : Option (Nat × Desc) :=
  (s.node.handle x an).bind fun i => ((s.node.tile x.tile).descAt i).map fun d =>
    (i, (s.node.armDesc d).moved (signedOf 40 (((thr s x).getS ra).toNat % 2 ^ 40)))

/-- The generation in a descriptor of the store (R277). -/
def genOf (s : State) (tile i : Nat) : Nat := (dword (((s.node.tile tile).desc i).getD []) 2).toNat % 65536

/-- The thread halted with a descriptor-invalid fault (R256, R274). -/
def descFault (s t : State) (x : Site) (detail : Nat → Prop) : Prop :=
  t.node.thread x.tile x.thr = { thr s x with wait := .halted } ∧
  (t.node.tile x.tile).fault.valid = true ∧ (t.node.tile x.tile).fault.cls = 3 ∧
  (t.node.tile x.tile).fault.pc = (thr s x).pc ∧ detail (t.node.tile x.tile).fault.detail.toNat ∧
  t.node.commit.tainted = true ∧ t.node.ctxs = s.node.ctxs ∧ keepsThreads s t x ∧ keepsMemory s t

/-! ### Voile -/

/-- A VPUT or VGET: the site, whether it puts, the bytes, thread, counter, LOC, and the registers. -/
def voiles : Instr → Option (Site × Bool × Nat × Fin 8 × Fin 8 × Bool × Fin 32 × Fin 32 × Fin 32)
  | .vput x len dthr ctr loc rn ra rb => some (x, true, len.toNat + 1, dthr, ctr, loc, rn, ra, rb)
  | .vget x len dthr ctr loc rn ra rb => some (x, false, len.toNat + 1, dthr, ctr, loc, rn, ra, rb)
  | _ => none

/-- The node that a Voile operation names (R184). -/
def voileNode (s : State) (x : Site) (rn : Fin 32) : Nat := ((thr s x).getS rn).toNat % 4096

/-- The bytes of a range as numbers. -/
def bytesAt (s : State) (f v a len : Nat) : List Byte := (List.range len).map fun k => byteAt s f v (a + k)

/-! ### Verdicts and outcomes -/

/-- The outcome that the verdict of this node alone decides (13 R405, R407): Abort, Re-execute, Skip or Commit; none while
a tile, a reduction or a shadow has yet to finish. -/
def decides (s : State) : Option Nat :=
  let c := s.node.commit
  if c.abort then some 3
  else if c.tainted then some 2
  else if (s.node.usedTiles.all fun lt => (s.node.tile lt).verdict == some 0) &&
      (s.node.job.red.all fun kv => (s.node.redCtx kv.1).complete) &&
      (s.node.guard.shadows.all fun a => s.node.guard.matched.contains a.1) then
    some (if (s.node.usedTiles.any fun lt => (s.node.tile lt).nf) || s.node.job.red.any (fun kv =>
        (s.node.redCtx kv.1).nf && (kv.2.kind == 0 || kv.2.members.idxOf s.node.self == 0))
      then 1 else 0)
  else none

/-- The counts after an outcome (13 R409): Commit counts a step, Skip a skip, each of them moves the cursor on. -/
def countsAfter (c : Counts) (o : Nat) : Counts :=
  { step := if o = 0 then c.step + 1 else c.step
    skips := if o = 1 then c.skips + 1 else c.skips
    cursor := if o ≤ 1 then c.cursor + 1 else c.cursor }

/-- Every thread with code on every used tile has issued EXIT, and there is one (R143). -/
def everyoneExited (s : State) : Bool :=
  let ths := s.node.usedTiles.flatMap fun lt => ((s.node.tile lt).thr.filter fun kv => kv.2.hasCode).map (·.2)
  !ths.isEmpty && ths.all fun th => th.wait == .exited

/-- Whether a tile's part of the step is done (R98): every thread with code at STEND or EXIT, nothing outstanding. -/
def tileDone (s : State) (t : Nat) : Prop :=
  let x := s.node.tile t
  x.restart = false ∧ (∀ kv ∈ x.thr, kv.2.hasCode = true → kv.2.wait = .outcome ∨ kv.2.wait = .exited) ∧
  (∀ kv ∈ s.node.ctxs, kv.2.lt ≠ t) ∧ x.voile = [] ∧ x.queue = [] ∧ x.topk = [] ∧ x.checks = []

/-- No store of a tile holds an uncorrectable word. -/
def tilesSound (s : State) : Prop :=
  ∀ t, (s.node.tile t).bad = [] ∧ (s.node.tile t).ibad = [] ∧ (s.node.tile t).dbad = []

/-! ### Messages from the network -/

/-- The messages that take a sequence number (11 R336-R338): the header and the message. -/
def messages : Instr → Option (Header × Msg)
  | .streamData h addr epoch fbit lbit data => some (h, .streamData addr epoch fbit lbit data)
  | .accw h epoch entries => some (h, .accw epoch entries)
  | .doneReq h addr epoch cthr cctr token => some (h, .doneReq addr epoch cthr cctr token)
  | .done h addr epoch => some (h, .done addr epoch)
  | .pre h first epoch entries => some (h, .pre first epoch entries)
  | .grid h first epoch entries => some (h, .grid first epoch entries)
  | .part h first epoch blocks => some (h, .part first epoch blocks)
  | .report h first epoch entries => some (h, .report first epoch entries)
  | .result h first epoch blocks => some (h, .result first epoch blocks)
  | .token h lt thr ctr count epoch => some (h, .token lt thr ctr count epoch)
  | .verdict h epoch v nf => some (h, .verdict epoch v nf)
  | .outcome h epoch o => some (h, .outcome epoch o)
  | .mready h epoch count => some (h, .mready epoch count)
  | .mrelease h epoch count => some (h, .mrelease epoch count)
  | .retractToken h lt srcLt reason hw epoch => some (h, .retract lt srcLt reason hw epoch)
  | .ctrlStart h count epoch => some (h, .start count epoch)
  | .mirrorData h slot offset data => some (h, .mirrorData slot offset data)
  | .seal h slot r => some (h, .seal slot r)
  | .sealAck h slot => some (h, .sealAck slot)
  | .rdata h slot offset data => some (h, .rdata slot offset data)
  | .rend h slot r => some (h, .rend slot r)
  | .rendAck h slot => some (h, .rendAck slot)
  | .put h v data => some (h, .put v data)
  | .get h v _ => some (h, .get v)
  | .getData h v data => some (h, .getData v data)
  | .putDone h v => some (h, .putDone v)
  | _ => none

/-- The channel of a message (R337). -/
def channel : Msg → Option Nat
  | .token .. | .verdict .. | .outcome .. | .mready .. | .mrelease .. | .retract .. | .start .. => some 1
  | .doneReq .. => some 2
  | .done .. | .sealAck .. | .rendAck .. | .getData .. | .putDone .. => some 3
  | .streamData .. | .accw .. => some 4
  | .pre .. | .grid .. | .part .. | .report .. | .result .. => some 5
  | .mirrorData .. | .seal .. | .rdata .. | .rend .. => some 6
  | .put .. | .get .. => some 7
  | .unknown => none

/-- Only REDUCE messages carry a residue (R337). -/
def reduces : Msg → Bool
  | .pre .. | .grid .. | .part .. | .report .. | .result .. => true
  | _ => false

/-- The sequence that node `d` must send next on a channel (R340). -/
def expected (s : State) (d vc : Nat) : Nat := Map.getD (s.node.peer d).nextAcc vc 0

/-- Whether link sequence `q` lies below `lack` (R348). -/
def linkBelow (lack q : Nat) : Bool :=
  decide (1 ≤ (lack + 2 ^ 24 - q) % 2 ^ 24 ∧ (lack + 2 ^ 24 - q) % 2 ^ 24 < 2 ^ 23)

/-- The sub-port is up and not fenced, and the node serves the network. -/
def portOpen (s : State) (p k : Nat) : Prop :=
  s.node.on = true ∧ (s.node.sub p k).up = true ∧ (s.node.sub p k).fenced = false

/-- The tests of a frame before its link header is read (R332): checksum, no options and no fragment, the UDP port, the
sub-port's VLAN. -/
def frameFits (s : State) (f : Frame) : Prop :=
  f.sumOk = true ∧ f.plain = true ∧ f.udpPort = fld s.node.tshCfg 16 16 ∧
  ∃ c, s.node.subCfg f.port f.sub = some c ∧ f.vlan = c.vlan

/-- The link header of a frame (R347, R348): none on a switched port; on a direct one the expected sequence, no replay asked
for, and a LACK that frees nothing of the replay buffer. -/
def linkFits (s : State) (f : Frame) : Prop :=
  match f.link with
  | none => s.node.isDirect f.port f.sub = false
  | some l => s.node.isDirect f.port f.sub = true ∧ l.lseq % 2 ^ 24 = (s.node.sub f.port f.sub).expect ∧ l.rreq = false ∧
      (l.lackv = true → ∀ e ∈ (s.node.sub f.port f.sub).replay, linkBelow l.lack e.1 = false)

/-- The form of a Weavo header (R337, R339): the channel that its type has, a residue only where one may stand, the UDP length
and LEN. -/
def headForm (h : Header) (vc : Nat) (res : Bool) : Prop :=
  h.vc = vc ∧ (h.res.isSome = true → res = true) ∧
  h.frame.udpLen = 32 + (if h.res.isSome then 8 else 0) + h.len + (if h.frame.link.isSome then 8 else 0) ∧ h.len ≤ 8192

/-- The frame came from an address that the node table lists for the node that SRC names, for this module (R331, R332). -/
def fromListed (s : State) (h : Header) : Prop :=
  (∃ r ∈ s.node.routes h.src, r.ip = h.frame.src) ∧ h.dst = s.node.self

/-- The tests of a Weavo header. -/
def headFits (s : State) (h : Header) (vc : Nat) (res : Bool) : Prop := headForm h vc res ∧ fromListed s h

/-- A frame that passes every test of R332, R337, R339 and R348. -/
def wellFramed (s : State) (h : Header) (vc : Nat) (res : Bool) : Prop :=
  portOpen s h.frame.port h.frame.sub ∧ frameFits s h.frame ∧ linkFits s h.frame ∧ headFits s h vc res

/-- The peer has completed HELLO (R354). -/
def knows (s : State) (d : Nat) : Prop := (s.node.peer d).session.isSome = true ∧ (s.node.peer d).limit ≠ []

/-- A frame that passes every test, of a message of a type that version 1 knows or of another (`odd`), which travels on
whatever channel it names. -/
def wellMade (s : State) (h : Header) (m : Msg) : Prop :=
  ∃ vc, (if h.odd then vc = h.vc else channel m = some vc) ∧ wellFramed s h vc (reduces m)

/-- A well-made frame from a peer that has completed HELLO. -/
def wellSent (s : State) (h : Header) (m : Msg) : Prop := wellMade s h m ∧ knows s h.src

/-- The message is the next of its channel, of the loaded job, of version 1 and of a type that it knows, and of a group that
lists this node when it is multicast; nothing is held behind a gap, and it brings no credit and no congestion mark. -/
def inTurn (s : State) (h : Header) (m : Msg) : Prop :=
  s.node.quiet = true ∧ wellSent s h m ∧ h.odd = false ∧ h.seq = expected s h.src h.vc ∧ h.ver = 1 ∧ h.grant = none ∧
  h.ce = false ∧ s.node.job.loaded = true ∧ h.jobtag = s.node.job.id % 2 ^ 32 ∧
  (h.mc = true → s.node.inSomeGroup = true) ∧ (s.node.peer h.src).early = []

/-- The sequence of the message is used up and an ACK is due. -/
def took (t : State) (h : Header) : Prop :=
  expected t h.src h.vc = (h.seq + 1) % 2 ^ 32 ∧ h.vc ∈ (t.node.peer h.src).ackDue

/-- Nothing but pause frames and releases (R334). -/
def pausesOnly (l : List Out) : Prop := ∀ o ∈ l, ∃ p k q b, o = .pfc p k q b

/-- One frame `o` has gone out, with no other but a pause or a release behind it. -/
def answers (s t : State) (o : Out) : Prop := ∃ l, t.node.out = s.node.out ++ [o] ++ l ∧ pausesOnly l

/-- Where its channel and its route take it at once, `msg` has gone to node `d` with the next sequence. -/
def replied (s t : State) (d vc ctx : Nat) (msg : Msg) : Prop :=
  s.node.clear (OutMsg.make d vc ctx false none msg) = true →
    ∃ m f, .msg m false f ∈ t.node.out ∧ m.dst = d ∧ m.vc = vc ∧ m.ctx = ctx ∧ m.msg = msg ∧
      m.seq = Map.getD (s.node.peer d).sendSeq vc 0

/-- `s` after a frame of a sub-port has been discarded and counted. -/
def dropped (s : State) (p k : Nat) : State :=
  let x := s.node.sub p k
  { s with node := { s.node.setSub p k { x with discards := x.discards + 1 } with bycode := s.node.bycode + 1 } }

/-- The node as a message in its turn meets it: the credit and the mark that its header brings are taken, its sequence is used
up, and an ACK is due. -/
def taking (n : Node) (h : Header) : Node :=
  let k := (n.takeGrant h.src h.grant).takeMark h
  let p := k.peer h.src
  k.setPeer h.src { p with nextAcc := Map.put p.nextAcc h.vc ((h.seq + 1) % 2 ^ 32), ackDue := insertNew h.vc p.ackDue }

/-- Memory is sound, and `len` bytes from `a` are memory in which no local region of a bucket lies. -/
def plain (s : State) (a len : Nat) : Prop :=
  s.node.badAddr a len = none ∧ regionsReady s a len ∧ s.node.job.red = [] ∧ Sound s

/-- The same of bytes that neither a link that is down nor a Tile reset keeps an arrival from (10 R317, 17 R508). -/
def reachable (s : State) (a len : Nat) : Prop := plain s a len ∧ s.node.stalledRange a len = false

/-- An ACK or NAK to node `d` goes out at once: there is a usable route, and its sub-port takes the frame (R334, R348). -/
def answerable (s : State) (d vc : Nat) : Prop :=
  ∃ r, s.node.routeFor d 0 = some r ∧ s.node.portTakes r vc 40 = true

/-- No attempt has anything of the node's own that a child's verdict could meet: it is neither tainted nor asked to abort, and has
sent no verdict; every child's verdict so far is clean. -/
def awaitsKids (s : State) : Prop :=
  (s.node.commit.running = true → s.node.commit.tainted = false ∧ s.node.commit.abort = false) ∧ s.node.commit.sent = none ∧
  ∀ kv ∈ s.node.commit.kids, kv.2.1 = 0

/-- Nothing that an outcome meets needs more than the counts and the tiles: no bucket, no mirror, no replay, no arrival held, no
Voile write held, every tile's stores sound. -/
def bare (s : State) : Prop :=
  s.node.job.red = [] ∧ s.node.gng.cfg = 0 ∧ s.node.job.replay = false ∧ s.node.held = [] ∧ tilesSound s ∧
  ∀ lt, ∀ kv ∈ (s.node.tile lt).voile, kv.2.arrived = false

/-- The token counter of a thread after a token of `count` (R89). -/
def counted (s t : State) (lt thr ctr count : Nat) : Prop :=
  s.node.shadowed lt = false → (s.node.thread lt thr).getK ctr + count ≤ 65535 →
    (t.node.thread lt thr).getK ctr = (s.node.thread lt thr).getK ctr + count

/-! ### Sessions, acknowledgement, links and frames -/

/-- No token waits for another node. -/
def noneWaits (s : State) : Prop := ∀ f ∈ s.node.flight, f.node = none

/-- Whether an acknowledgement of `seq` on a channel covers a kept message (R349). -/
def covered (vc seq : Nat) (m : OutMsg) : Bool :=
  m.vc == vc && decide (1 ≤ (seq + 2 ^ 32 - m.seq) % 2 ^ 32 ∧ (seq + 2 ^ 32 - m.seq) % 2 ^ 32 < 2 ^ 31)

/-- No message waits for a peer, no frame for a sub-port, and no stream context is live: what frees a peer or a port lets
nothing go. -/
def nothingWaits (s : State) : Prop :=
  (∀ kv ∈ s.node.peers, kv.2.waiting = []) ∧ (∀ kv ∈ s.node.subs, kv.2.waitOut = []) ∧ s.node.ctxs = []

/-- The sub-ports of all routes to node `d` take a HELLO on each of them at once (R334, R348). -/
def hailable (s : State) (d : Nat) : Prop :=
  ∀ r ∈ s.node.routes d, s.node.portTakes r 0 (104 * (s.node.routes d).length) = true

/-- The way back of a frame takes the refusal of its message at once (R334, R348). -/
def refusable (s : State) (h : Header) (vc : Nat) : Prop :=
  ∀ r, s.node.wayBack h = some r → s.node.portTakes r vc 40 = true

/-- A direct sub-port that is up and not fenced while the node serves the network (R347). -/
def directUp (s : State) (p k : Nat) : Prop := s.node.quiet = true ∧ portOpen s p k ∧ s.node.isDirect p k = true

/-- The routes that a frame came on: those of its sender by its sub-port and source address; an address that several routes
share counts for each (DEDUCED, log entry 74). -/
def cameBy (s : State) (h : Header) : List Nat := s.node.routesBy h.src h.frame.port h.frame.sub h.frame.src

/-- A HELLO that the node takes up: its frame passes every test, it names its sender and offers version 1, and brings no
credit and no mark. -/
def helloFits (s : State) (h : Header) (b : HelloBody) : Prop :=
  s.node.quiet = true ∧ wellFramed s h 0 false ∧ b.node = h.src ∧ b.vermask.testBit 1 = true ∧ h.ver = 1 ∧ h.grant = none ∧
  h.ce = false

/-- A HELLO of this node's on route `i` of node `d`, request or reply, has gone out (R353). -/
def greeted (s t : State) (d i : Nat) (reply : Bool) : Prop :=
  ∃ b rm f, .hello d i b rm f ∈ t.node.out ∧ b.reply = reply ∧ b.session = s.node.session % 2 ^ 32 ∧ b.node = s.node.self ∧
    b.vermask.testBit 1 = true

/-- What is left of a replay buffer after a LACK (R348). -/
def kept (x : Sub) (lackv : Bool) (lack : Nat) : List (Nat × Out) :=
  if lackv then x.replay.filter (fun e => !linkBelow lack e.1) else x.replay

/-- Whether a LACK frees something. -/
def frees (x : Sub) (lackv : Bool) (lack : Nat) : Bool := lackv && x.replay.any fun e => linkBelow lack e.1

/-- The link-control frame that asks for a replay, unless one has been asked for (R348). -/
def asks (x : Sub) (p k : Nat) : List Out :=
  if x.rreqDue then [] else [.link p k { lseq := x.lseq, lackv := true, rreq := true, lack := x.expect }]

/-- REPLAYS of a port counts one more, up to 65,535 (R365). -/
def countedReplay (s t : State) (p : Nat) : Prop :=
  Map.getD t.node.ports p 0 = (if Map.getD s.node.ports p 0 = 65535 then 65535 else Map.getD s.node.ports p 0 + 1)

/-! ### LAUNCH -/

/-- The little-endian number in `len` bytes of an image from `off`. -/
def imageNum (b : List Byte) (off len : Nat) : Nat := leNat ((b.drop off).take len)

/-- Why a slice held whole is refused (R74, R77, R78, R352), as a NAK code: a job that is loaded is not this one or is not
held; the image does not end with its launch record or its signature is no plan key's; a check of R74 fails; a logical tile
that nothing backs. -/
def launchCode (s : State) (b : List Byte) : Option Nat :=
  let len := imageNum b 24 8
  let slice := b.take len
  let keys := s.node.cfg.elim [] fun c => (c.keys.filter (·.plan)).map (·.key)
  if s.node.job.loaded = true ∧ (imageNum b 8 8 ≠ s.node.job.id ∨ s.node.job.held = false) then some 5
  else if b.length ≠ len + 32 ∨
    ¬(∃ k ∈ keys, ecdsaVerify k (slice.take (slice.length - 96)) (slice.drop (slice.length - 96)) = true) then some 6
  else if s.node.sliceOk s.chip.sec.nonexact slice = false then some 1
  else if ∃ lt ∈ tilesIn (sectionsOf slice), s.node.backed lt = false then some 7
  else none

/-- The entry of HOSTS for an address. -/
def hostOf (s : State) (a : Nat) : Option HostCfg := s.node.cfg.bind fun c => c.hosts.find? (·.addr == a)

/-- The frame of a fragment passes every test of R332, R337, R339 and R348, on channel 0. -/
def fragmentFits (s : State) (f : Fragment) : Prop :=
  s.node.quiet = true ∧ portOpen s f.h.frame.port f.h.frame.sub ∧ frameFits s f.h.frame ∧ linkFits s f.h.frame ∧
  headForm f.h 0 false

/-- The sub-port by which a host's message came takes `size` bytes of answers at once (R334, R348). -/
def wayTakes (s : State) (h : Header) (size : Nat) : Prop :=
  s.node.portTakes { port := h.frame.port, sub := h.frame.sub, mac := 0, ip := h.frame.src } 0 size = true

/-- A fragment of version 1 from a host that HOSTS lists with the LAUNCH bit, which has no assembly under way, on a module that
is not asleep; its sub-port takes the answers at once. -/
def firstFragment (s : State) (f : Fragment) : Prop :=
  fragmentFits s f ∧ f.h.ver = 1 ∧ wayTakes s f.h 96 ∧ s.node.asleep = false ∧ Map.look s.node.asm f.host = none ∧
  ∃ hc, hostOf s f.host = some hc ∧ hc.launch = true

/-- The frame in which a message with base header `w` goes to a host: on the way of its request, the copper port standing as
port 8; I3C carries none (19 R557, R558, 21 R614). -/
def framed (p : MPath) (h : Header) (w : WireHdr) (f : Option Packet) : Prop :=
  match p with
  | .i3c => f = none
  | .copper => ∃ k, f = some k ∧ k.port = 8 ∧ k.header = w.bytes
  | .weavo => ∃ k, f = some k ∧ k.port = h.frame.port ∧ k.sub = h.frame.sub ∧ k.header = w.bytes

/-- The module has passed the meter, which was that of `c`, a job tag, and nothing else of the always-on domain has changed. The tag
waits while the meter is off, while another waits or in the first 10 ms of an interval, and else ends the interval with a
reading (R491); how old the interval is is a free value (log entry 16). -/
def tagPassed (c : Chip) (t : State) (tag : Nat) : Prop :=
  t.chip = { c with meter := { c.meter with waitTag := some tag } } ∨
  (c.meter.running = true ∧ c.meter.waitTag = none ∧ t.chip = { c with meter := t.chip.meter } ∧ t.chip.meter.tag = tag ∧
    t.chip.meter.waitTag = none ∧ t.chip.meter.seq = c.meter.seq + 1)

/-! ### Signed commands -/

/-- The sub-port of the route to node `d` takes `size` bytes of a channel at once. -/
def roomTo (s : State) (d vc size : Nat) : Prop :=
  ∀ r, s.node.routeFor d 0 = some r → s.node.portTakes r vc size = true

/-- The 32 bytes of a seal record (13 R417): job identity, step count, skip count, cursor. -/
def sealRecord (r : SealRec) : List Byte := leBytes r.job 8 ++ leBytes r.step 8 ++ leBytes r.skips 8 ++ leBytes r.cursor 8

/-- A frame of a management message on the copper port passes the tests (11 R332, R337, R339, 21 R614): UDP, that port's VLAN, no
link header, the form of its header. -/
def copperFits (s : State) (h : Header) : Prop :=
  h.frame.sumOk = true ∧ h.frame.plain = true ∧ h.frame.udpPort = fld s.node.tshCfg 16 16 ∧
  h.frame.vlan = s.node.cfg.elim 0 (fun c => c.copper.2.2) ∧ h.frame.link = none ∧ headForm h 0 false

/-- The frame of a management message passes the tests of its path. -/
def mgmtFits (s : State) (p : MPath) (h : Header) : Prop :=
  match p with
  | .i3c => True
  | .copper => copperFits s h
  | .weavo => portOpen s h.frame.port h.frame.sub ∧ frameFits s h.frame ∧ linkFits s h.frame ∧ headForm h 0 false

/-- A management message reaches Luna, with nothing asked of the always-on domain: its path is served, its sender is listened
to, its frame passes, and its way takes `size` bytes of answers at once (R557, R558). -/
def comes (s : State) (p : MPath) (h : Header) (size : Nat) : Prop :=
  s.node.quiet = true ∧ s.served p = true ∧ s.knows p h.frame.src = true ∧ mgmtFits s p h ∧ (p = .weavo → wayTakes s h size)

/-- It is of version 1 of Weavo too, where Weavo carries it (11 R351). -/
def heard (s : State) (p : MPath) (h : Header) (size : Nat) : Prop := comes s p h size ∧ (p ≠ .i3c → h.ver = 1)

/-- From `s` to `t` nothing has changed but what the module sent and, where the message came by Weavo, the link state of its
sub-port. -/
def onlySent (s t : State) (p : MPath) (h : Header) : Prop :=
  t = { s with node := { s.node with out := t.node.out, subs := t.node.subs } } ∧
  (p ≠ .weavo → t.node.subs = s.node.subs) ∧
  ∀ k, k ≠ 4 * h.frame.port + h.frame.sub → Map.look t.node.subs k = Map.look s.node.subs k

/-- `t` is `s` after one message `o` to the sender of a management message, in a frame with base header `w`. -/
def told (s t : State) (p : MPath) (h : Header) (w : WireHdr) (o : Option Packet → Out) : Prop :=
  onlySent s t p h ∧ ∃ f, framed p h w f ∧ t.node.out = s.node.out ++ [o f]

/-- What becomes of a management message that does not reach Luna, and of one of another version of Weavo (R557, R558, 11 R332,
R337, R339, R351): on a path that is not served it gets no answer; a frame that fails a test, and one of a sender that is not
known, is discarded and counted; another version is refused with NAK VERSION. -/
def unheard (i : Instr) (s : State) (p : MPath) (h : Header) : Prop :=
  (p ≠ .weavo → s.served p = false → exec i s = .next s) ∧
  (p = .copper → s.served p = true → (¬copperFits s h ∨ s.knows p h.frame.src = false) →
    exec i s = .next { s with node := { s.node with bycode := s.node.bycode + 1 } }) ∧
  (p = .weavo → ¬portOpen s h.frame.port h.frame.sub → exec i s = .next s) ∧
  (p = .weavo → portOpen s h.frame.port h.frame.sub →
    (¬frameFits s h.frame ∨ h.frame.link.isSome ≠ s.node.isDirect h.frame.port h.frame.sub ∨
      (h.frame.link = none ∧ (¬headForm h 0 false ∨ (s.knows p h.frame.src = false ∧ ¬fromListed s h)))) →
    exec i s = .next (dropped s h.frame.port h.frame.sub)) ∧
  (p = .weavo → mgmtFits s p h → s.knows p h.frame.src = true ∨ fromListed s h →
    (s.served p = false → ∃ t, exec i s = .next t ∧ onlySent s t p h ∧ t.node.out = s.node.out) ∧
    (s.served p = true → s.knows p h.frame.src = false → ∃ t, exec i s = .next t ∧
      onlySent { s with node := { s.node with bycode := s.node.bycode + 1 } } t p h ∧ t.node.out = s.node.out)) ∧
  (comes s p h 40 → p ≠ .i3c → h.ver ≠ 1 → ∃ t, exec i s = .next t ∧
    told s t p h (s.node.hostHeader 10 h.ctx 0 (nakSpec 0 0 1 0)) (.hostNak h.frame.src h.ctx 1))

/-- `t` is `s` after an answer with `status`, with the OPCODE that the command carries; its detail is a free value (log entry
82). -/
def answered (s t : State) (e : Envelope) (op status : Nat) : Prop :=
  ∃ detail, told s t e.path e.h (s.node.hostHeader 8 e.ctx 16 (mgmtSpec 2))
    (.response e.path e.host e.ctx 1 (e.odd.getD op) status e.seq detail)

/-- `u` is `s` after a command has been accepted, before its effect: LAST_SEQ is its SEQ and STATUS 0 has gone out (R563,
R564). -/
def accepted (s u : State) (e : Envelope) (op : Nat) : Prop :=
  let c := s.chip
  answered { s with chip := { c with sec := { c.sec with lastSeq := BitVec.ofNat 64 e.seq } } } u e op 0

/-- The signed commands with their opcodes and argument bytes (R565). -/
def signed : Instr → Option (Envelope × Nat × List Byte)
  | .hold e => some (e, 0x01, [])
  | .release e => some (e, 0x02, [])
  | .endJob e => some (e, 0x03, [])
  | .setCap e w => some (e, 0x04, leBytes w 2)
  | .reset e src => some (e, 0x05, leBytes src 1)
  | .tileReset e lt => some (e, 0x06, leBytes lt 2)
  | .power e t => some (e, 0x07, leBytes t 1)
  | .coldBoot e => some (e, 0x08, [])
  | .rollback e => some (e, 0x09, [])
  | .push e k => some (e, 0x0A, leBytes k 1)
  | .writeReg e a v m => some (e, 0x0B, leBytes a 8 ++ leBytes v.toNat 8 ++ leBytes m.toNat 8)
  | .activate e k => some (e, 0x0C, leBytes k 1)
  | .selectMode e m => some (e, 0x0D, leBytes m 1)
  | .enrol e d => some (e, 0x0E, leBytes d 48)
  | .revoke e k => some (e, 0x0F, leBytes k 1)
  | .start e => some (e, 0x10, [])
  | _ => none

/-- The opcodes that name a job, and those accepted before ready (R565). -/
def namesJob (op : Nat) : Prop := op ∈ [0x01, 0x02, 0x03, 0x09, 0x0A, 0x10]

/-- Opcodes accepted before ready (R565). -/
def early (op : Nat) : Prop := op ∈ [0x05, 0x08, 0x0C, 0x0D, 0x0E, 0x0F]

/-- The key that KEYIDX names, where the signature verifies under it over bytes 0 to 47 and the arguments, and whether its role
covers opcode `op`; only another owner key may revoke one (R561, R562, R565). -/
def signerMay (s : State) (e : Envelope) (op : Nat) (args : List Byte) : Option Prop :=
  match e.signer, s.keyOf e.keyidx with
  | some k, some r =>
    if k = r.num ∧ e.digest = sha384 (signedBytes e op args) then some (match r with
      | .list _ cmd => cmd = true ∧ op ≠ 0x0E ∧ op ≠ 0x0F
      | .owner _ revoked => revoked = false ∧
          (op = 0x0E ∨ (op = 0x0F ∧ args ≠ leBytes (e.keyidx - 0x10) 1) ∨ (op ≠ 0x0E ∧ op ≠ 0x0F ∧ s.node.cfg = none))
      | .prov _ => op = 0x0E ∧ ∀ o ∈ s.chip.fuses.owners, o.1 = none)
    else none
  | _, _ => none

/-- `status` is the first of the checks of R563 that `e` fails; a reserved OPCODE has status 9 (R565). The statuses that R563
does not order are those of log entry 45. -/
def fails (s : State) (e : Envelope) (op : Nat) (args : List Byte) (status : Nat) : Prop :=
  let known := e.version = 1 ∧ e.odd = none
  let form := known ∧ e.resv = 0 ∧ e.arglen = args.length ∧ (e.job = 0 ∨ namesJob op)
  let may := ∃ p, signerMay s e op args = some p ∧ p
  let here := e.serial = s.chip.fuses.serial.toNat ∧ e.session = s.chip.chr.bkpSession.toNat
  let newer := s.chip.sec.lastSeq.toNat < e.seq
  let job := namesJob op → s.node.job.loaded = true ∧ s.node.job.id = e.job
  let up := s.chip.boot.ready = true ∨ early op
  (e.version ≠ 1 ∧ status = 1) ∨ (e.version = 1 ∧ e.odd ≠ none ∧ status = 9) ∨ (known ∧ ¬form ∧ status = 1) ∨
  (form ∧ signerMay s e op args = none ∧ status = 2) ∨
  (form ∧ (∃ p, signerMay s e op args = some p ∧ ¬p) ∧ status = 3) ∨
  (form ∧ may ∧ ¬here ∧ status = 4) ∨
  (form ∧ may ∧ here ∧ ¬newer ∧ status = 5) ∨
  (form ∧ may ∧ here ∧ newer ∧ ¬job ∧ status = 6) ∨
  (form ∧ may ∧ here ∧ newer ∧ job ∧ ¬up ∧ status = 7)

/-- A command that is heard and passes every check up to its own acceptance condition. -/
def passes (s : State) (e : Envelope) (op : Nat) (args : List Byte) : Prop :=
  heard s e.path e.h 56 ∧ ∀ k, ¬fails s e op args k

/-- What a command's own condition and arguments make of it (R565): a status. -/
def ownStatus (s : State) : Instr → Nat
  | .release _ => if s.node.job.holdNext = true ∧ s.node.job.held = false then 0 else 7
  | .setCap _ w => if 800 ≤ w ∧ w ≤ 1600 then 0 else 8
  | .reset _ src => if src = 5 ∨ src = 6 then 0 else 8
  | .tileReset _ lt => if lt ≤ 2303 then 0 else 8
  | .power e t => if 3 < t then 8 else if s.mayPower t (e.path != .weavo) then 0 else 7
  | .rollback _ => if s.node.job.held = true ∧ s.node.commit.pwritten = false then 0 else 7
  | .push _ slot => if 1 < slot then 8 else if bit s.node.gng.cfg 0 then 0 else 7
  | .writeReg _ a v m => s.writeRegStatus a v m
  | .activate _ k => if 11 < k then 8 else if (s.chip.sec.slot k).next then 7 else if s.slotVerifies k then 0 else 8
  | .selectMode _ m => if m ≤ 3 then 0 else 8
  | .enrol _ _ => if ∃ i, i < 4 ∧ ∃ o, s.chip.fuses.owners[i]? = some o ∧ o.1 = none then 0 else 7
  | .revoke _ k => if 3 < k then 8 else 0
  | .start _ => if s.node.job.node = 0 ∧ s.node.job.loaded = true ∧ (s.node.job.started = false ∨ s.node.job.held = true)
      then 0 else 7
  | _ => 0

/-! ### Resets -/

/-- The level that the shipped CHR_SRC_MAP gives a source of Warm or deeper (R502, R503): 0 Full, 1 Cold, 2 Warm. -/
def shippedLevel (src : Nat) : Nat :=
  if src = 0 ∨ src = 11 then 0 else if src = 4 ∨ src = 6 ∨ src = 9 then 2 else 1

/-- The pins and events that assert a source of Warm or deeper on any state (R502, R511, R580). -/
def asserting : Instr → Option Nat
  | .powerOn ⟨false, _⟩ => some 0
  | .resetN ns => if 1000 ≤ ns then some 1 else none
  | .pwrOk false => some 2
  | .managementWatchdog => some 4
  | .regulatorFault d => if d ≤ 69 then some 10 else none
  | .supplyGlitch => some 11
  | _ => none

/-- No reset is held and no sequence runs, the always-on clock runs, the module is not in Dormant, and the fuse map is the
shipped one. -/
def noReset (s : State) : Prop :=
  s.node.quiet = true ∧ s.chip.chr.held = none ∧ s.chip.chr.asserted = [] ∧ s.chip.chr.seqOn = false ∧
  s.chip.chr.stopped = false ∧ s.chip.pins.pstate ≠ 3 ∧ s.chip.fuses.srcMap = Fuses.shipped.srcMap

/-- Source `src` at level `lvl` holds the module in a sequence that it began (R504-R507, R516, R519, R521): the job has ended
without an outcome, the node is off, CHR_LAST names source and level and counts the sequence, and what survives the level
is as it was. -/
def heldBy (s t : State) (src lvl : Nat) : Prop :=
  t.chip.chr.held = some lvl ∧ t.chip.chr.asserted = [(src, lvl)] ∧ src ∈ t.chip.chr.minHeld ∧
  t.chip.chr.seqOn = true ∧ fld t.chip.chr.last 32 16 = 2 ^ src ∧ fld t.chip.chr.last 29 3 = lvl ∧
  fld t.chip.chr.last 48 16 = (if lvl = 0 then 1 else (fld s.chip.chr.last 48 16 + 1) % 65536) ∧
  t.node.on = false ∧ t.node.job = .none ∧ t.node.commit.running = false ∧ t.node.tiles = [] ∧
  (∀ g, (t.node.tg g).powered = false) ∧
  t.chip.boot.ready = false ∧ t.chip.boot.locked = false ∧ t.chip.pins.alertN = false ∧
  t.chip.fuses.owners = s.chip.fuses.owners ∧ t.chip.sec.slots = s.chip.sec.slots ∧
  (lvl ≠ 0 → t.node.commit.cur = s.node.commit.cur ∧ t.node.commit.prev = s.node.commit.prev ∧
    t.chip.chr.bkpSession = s.chip.chr.bkpSession ∧ t.chip.hwk.cap = s.chip.hwk.cap ∧ t.node.mems.ue = s.node.mems.ue) ∧
  (lvl = 0 → t.chip.chr.bkpSession = 0 ∧ t.chip.hwk.cap = 1600 ∧ t.node.mems.ue = 0) ∧
  (lvl = 2 → t.node.mems.data = s.node.mems.data ∧ t.node.mems.bad = s.node.mems.bad) ∧
  (lvl ≠ 2 → t.node.mems.data = [] ∧ t.node.tps.cfg = 0)

/-- The module is ready, held by nothing, and Tile and Link sources act as targets (R503, R508, R509). -/
def mayTarget (s : State) : Prop :=
  s.node.quiet = true ∧ s.chip.boot.ready = true ∧ s.chip.chr.stopped = false ∧ s.chip.pins.pstate ≠ 3 ∧
  s.chip.fuses.srcMap = Fuses.shipped.srcMap

/-- CHR_LAST_TL counts a Tile or Link reset and names its source and target, whose hold runs (R522). -/
def targeted (s t : State) (src tgt : Nat) : Prop :=
  t.chip.chr.targets = s.chip.chr.targets ++ [(src, tgt)] ∧
  fld t.chip.chr.lastTl 48 16 = (fld s.chip.chr.lastTl 48 16 + 1) % 65536 ∧ fld t.chip.chr.lastTl 28 4 = src ∧
  fld t.chip.chr.lastTl 0 12 = tgt % 4096 ∧ t.chip.chr.held = s.chip.chr.held

/-- A CXL link is down: its requests stall while it retrains, and RETRY counts (10 R317). -/
def linkLost (s t : State) (l : Nat) : Prop :=
  l ∉ t.node.mems.linkUp ∧ l ∈ t.node.mems.stalled ∧ bit t.node.mems.cxmCfg (2 + l) = false ∧
  fld t.node.mems.cLink 32 16 = Min.min 65535 (fld s.node.mems.cLink 32 16 + 1) ∧ t.node.mems.data = s.node.mems.data ∧
  t.node.tiles = s.node.tiles

/-- No thread of any tile waits on a register, an array or a bound, so that looking again changes nothing. -/
def noneLooks (s : State) : Prop :=
  ∀ kv ∈ s.node.tiles, ∀ q ∈ kv.2.thr, q.2.wait ≠ .reg ∧ q.2.wait ≠ .bound ∧ ∀ w, q.2.wait ≠ .felt w

/-- No arrival waits for a tile: none is held, and no Voile write. -/
def noneHeld (s : State) : Prop := s.node.held = [] ∧ ∀ lt, ∀ kv ∈ (s.node.tile lt).voile, kv.2.arrived = false

/-- What a tile group becomes when it is set as its admitted requests call for: gated without one, else ungated at the lowest
setting that they hold (15 R473, R474). -/
def regated (s : State) (g : Nat) (x : Tg) : Tg :=
  match ((s.node.gov.reqs.filter fun r => r.admitted && r.g == g).map (·.v)).min? with
  | none => { x with gated := true }
  | some v => { x with gated := false, target := v }

/-- The events that end the condition of a level source (R502): the source. -/
def relieving (s : State) : Instr → Option Nat
  | .resetNReturnsHigh => some 1
  | .pwrOk true => some 2
  | .regulatorReportsGood => some 10
  | .refclkRunsAgain => if s.chip.chr.stopped = false ∧ s.chip.pins.aux = true then some 15 else none
  | _ => none

/-- The sources still asserted once `src` has released. -/
def without (l : List (Nat × Nat)) (src : Nat) : List (Nat × Nat) := l.filter fun a => a.1 != src

/-- The level held by a list of asserted sources: the deepest; `old` while none is left (R504). -/
def levelHeld (l : List (Nat × Nat)) (old : Option Nat) : Option Nat :=
  if l = [] then old else (l.map (·.2)).min?

/-- Whether the condition of a level source still stands (R502). -/
def standing (s : State) : Nat → Prop
  | 0 => s.chip.pins.aux = false
  | 1 => s.chip.pins.resetN = false
  | 2 => s.chip.pins.pwrOk = false
  | 3 => s.chip.pins.thermN = false
  | 10 => s.chip.pins.regBad ≠ []
  | 15 => s.chip.chr.refOk = false
  | _ => False

/-- What becomes of source `src` whose condition has ended: it stays asserted until its minimum hold has run; else it releases,
and the deepest of the others holds the module. -/
def letGo (s t : State) (src : Nat) : Prop :=
  (src ∈ s.chip.chr.minHeld → t.chip.chr.asserted = s.chip.chr.asserted ∧ t.chip.chr.held = s.chip.chr.held) ∧
  (src ∉ s.chip.chr.minHeld → t.chip.chr.asserted = without s.chip.chr.asserted src ∧
    t.chip.chr.held = levelHeld (without s.chip.chr.asserted src) s.chip.chr.held)

/-- The `k` lanes from lane `i` on have trained. -/
def trainedFrom (mask i k : Nat) : Prop := ∀ j, i ≤ j → j < i + k → mask.testBit j = true

/-- The lanes on which a sub-port of `width` lanes runs when those of `mask` have trained (11 R330): all; else 4 or 2 of an
aligned group; else none. -/
def lanesRun (mask width lanes : Nat) : Prop :=
  (trainedFrom mask 0 width → lanes = width) ∧
  (¬trainedFrom mask 0 width →
    ((∃ g, 4 * g + 4 ≤ width ∧ trainedFrom mask (4 * g) 4) → lanes = 4) ∧
    ((¬∃ g, 4 * g + 4 ≤ width ∧ trainedFrom mask (4 * g) 4) →
      ((∃ g, 2 * g + 2 ≤ width ∧ trainedFrom mask (2 * g) 2) → lanes = 2) ∧
      ((¬∃ g, 2 * g + 2 ≤ width ∧ trainedFrom mask (2 * g) 2) → lanes = 0)))

/-! ### Bring-up and the upkeep of memory -/

/-- Bring-up runs phase `k`: it has not stopped, no reset holds the module, and the always-on clock runs. -/
def phaseRuns (s : State) (k : Nat) : Prop :=
  s.node.quiet = true ∧ s.chip.boot.running = true ∧ s.chip.boot.err = 0 ∧ s.chip.boot.phase = k ∧ s.chip.chr.held = none ∧
  s.chip.chr.stopped = false

/-- The commands of phases 0 to 2, 5, 6 and 8, which only bring-up takes (18). -/
def inBringUp : Instr → Bool
  | .suppliesAndClock | .optionLoading _ | .managementBoot | .linkTraining _ | .topologyDiscovery | .ready => true
  | _ => false

/-- `s` with CHR_BOOT's fields changed. -/
def withBoot (s : State) (b : Boot) : State := { s with chip := { s.chip with boot := b } }

/-- Whether the boot is a recovery boot (18 R523): the sequence is not Full, and a valid copy of the retained map is this
module's. -/
def recovers (s : State) : Prop :=
  (s.chip.chr.seqOn = true → 1 ≤ s.chip.chr.seqLevel) ∧
  ∃ r, s.chip.chr.copyInForce = some r ∧ r.serial = s.chip.fuses.serial.toNat

/-- The copy of the retained map in force holds the maps and tile states of `t` (18 R540, R541). -/
def mapRetained (t : State) : Prop :=
  ∃ r, t.chip.chr.copyInForce = some r ∧ r.serial = t.chip.fuses.serial.toNat ∧ r.lmap = t.node.guard.lmap ∧
    r.phys = t.node.guard.phys ∧ r.backed0 = t.node.guard.backed0 ∧ r.backed1 = t.node.guard.backed1

/-- The tiers can be kept up: the module is ready, held by no reset, and in Active or Idle (10 R311, R318, R319). -/
def tiersRun (s : State) : Prop :=
  s.node.quiet = true ∧ s.chip.boot.ready = true ∧ s.chip.chr.held = none ∧ s.chip.pins.pstate ≤ 1

/-- Memory as a cold boot leaves it: nothing written, no word in error (18 R532-R534). -/
def wiped (m : Mems) : Prop := m.data = [] ∧ m.bad = [] ∧ m.soft = [] ∧ m.rx = []

/-- The words of the line at `a`. -/
def lineOf (a : Nat) : List Nat := (List.range 8).map (a / 8 + ·)

/-- Every word of the line at `a` is stored as the decoder passes it. -/
def lineSound (s : State) (a : Nat) : Prop := ∀ w ∈ lineOf a, s.node.storedEcc noView w = .clean

/-- Word `w` is the one of the line at `a` that the decoder does not pass, and `e` is what it reports. -/
def lineFlawed (s : State) (a w : Nat) (e : Ecc) : Prop :=
  w ∈ lineOf a ∧ s.node.storedEcc noView w = e ∧ ∀ x ∈ lineOf a, x ≠ w → s.node.storedEcc noView x = .clean

/-- Lines of the GDDR7 tier. -/
def gddrLines : Nat := 0x002580000000 / 64

/-- The GDDR7 scrubber after line `p`: at the end of the tier it begins again and counts a pass (10 R319, R322). -/
def scrubbed (s : State) (p : Nat) : Mems :=
  if p + 1 < gddrLines then { s.node.mems with gPos := p + 1 }
  else { s.node.mems with gPos := 0, gScrub := setFld s.node.mems.gScrub 16 16 (fld s.node.mems.gScrub 16 16 + 1) }

/-! ### The governor and the meter -/

/-- The governor runs: no reset holds the module and X-core is on. -/
def governs (s : State) : Prop := s.node.quiet = true ∧ s.chip.chr.held = none ∧ 64 ∈ s.chip.pins.domains

/-- No request waits for admission. -/
def noneAsks (s : State) : Prop := ∀ r ∈ s.node.gov.reqs, r.admitted = true

/-- Between `s` and `t` the governor has admitted at most: the same requests are there, and one that was admitted is. Memory
and the tiles' SRAM are as they were (15 R471). -/
def admits (s t : State) : Prop :=
  t.node.gov.reqs.map (fun r => (r.g, r.phase)) = s.node.gov.reqs.map (fun r => (r.g, r.phase)) ∧
  (∀ (k : Nat) (r : Req), s.node.gov.reqs[k]? = some r → r.admitted = true → ∃ q : Req, t.node.gov.reqs[k]? = some q ∧ q.admitted = true) ∧
  keepsMemory s t

/-- `s` with tile group `g` changed. -/
def withTg (s : State) (g : Nat) (x : Tg) : State :=
  { s with node := { s.node with gov := { s.node.gov with tgs := Map.put s.node.gov.tgs g x } } }

/-- The sum of the measured powers of the tile groups, in units of 0.1 W. -/
def tilesWatts (s : State) : Nat := (s.node.gov.tgs.map fun kv => kv.2.power).sum

/-- One sample of what U averages, in W: the tap's input power less what domains 0-63 measure (15 R471). -/
def sampleOf (s : State) (mainMw auxCw : Nat) : Rat := ((mainMw : Rat) + 10 * auxCw - 100 * tilesWatts s) / 1000

/-- U over samples, of which the newest ten make 1 ms (log entry 57), with nothing else of the governor changed. -/
def averaged (g g' : Gov) (l : List Rat) : Prop :=
  g' = { g with samples := l.take 10, u := (l.take 10).sum / (l.take 10).length }

/-- The estimate of a group's admitted requests with α = 1 (15 R469, R477). -/
def plainWatts (s : State) (g : Nat) : Rat :=
  ((s.node.gov.reqs.filter fun r => r.admitted && r.g == g).map fun r => kFactor r.v * s.node.declaredSum g r.phase).foldl (· + ·) 0

/-- α after a reading (15 R477): an eighth of the way to measured over estimated, held between 1/2 and 2. -/
def alphaNext (a m e : Rat) : Rat := Min.min 2 (Max.max (1 / 2) (a + (m / e - a) / 8))

/-- A limit of the overlay as it acts, held between 70 and 105 °C (15 R482). -/
def limitAt (h : Hwk) (lo : Nat) : Nat := Min.min 105 (Max.max 70 (fld h.limits lo 8))

/-- No tile group is throttled. -/
def noneThrottled (s : State) : Prop := ∀ kv ∈ s.node.gov.tgs, kv.2.throttle = false

/-- `len` bytes of a reading from `off`, as a number. -/
def field (b : List Byte) (off len : Nat) : Nat := leNat ((b.drop off).take len)

/-- Between meters `x` and `y` one interval was closed that `m` measured (16 R490-R493, R496): the totals have grown, SEQ
counts, and the mirror ring holds the signed reading with tag `tag`, at HEAD. The meter's checks passed. -/
def closed (serial : Nat) (x y : Meter) (m : MeterMeas) (tag seals : Nat) : Prop :=
  y.seq = x.seq + 1 ∧ y.head = x.seq % 64 ∧ y.any = true ∧ y.tms = x.tms + m.durMs ∧ y.eMain = x.eMain + m.mainMj ∧
  y.eAux = x.eAux + m.auxMj ∧ y.sealCnt = (if seals = 0 then x.sealCnt else Min.min 65535 (x.sealCnt + seals)) ∧ y.running = x.running ∧ y.fault = x.fault ∧
  ∃ b, Map.look y.ring (x.seq % 64) = some b ∧ b.length = 224 ∧ field b 0 2 = 1 ∧
    field b 2 1 = b2n x.test + 2 * b2n x.fault + 4 * b2n (x.waitTag.isSome && decide (10 ≤ m.durMs)) + 8 * b2n (seals != 0)
      + 16 * b2n m.range + 32 * b2n (y.sealCnt == 65535) ∧ field b 4 4 = y.sealCnt % 2 ^ 32 ∧
    field b 8 8 = x.seq % 2 ^ 64 ∧ field b 16 8 = y.tms % 2 ^ 64 ∧ field b 24 4 = m.durMs % 2 ^ 32 ∧ field b 32 8 = tag % 2 ^ 64 ∧
    field b 40 8 = y.eMain % 2 ^ 64 ∧ field b 48 8 = y.eAux % 2 ^ 64 ∧ field b 56 4 = m.mainMj * 1000 / m.durMs % 2 ^ 32 ∧
    field b 60 4 = m.auxMj * 1000 / m.durMs % 2 ^ 32 ∧ field b 64 8 = serial % 2 ^ 64 ∧ field b 80 48 = 0

/-- An interval of an allowed length whose checks passed (16 R488, R490). -/
def measured (m : MeterMeas) : Prop := 1 ≤ m.durMs ∧ m.durMs ≤ 1000 ∧ m.checkOk = true

/-- `s` with the meter changed. -/
def withMeter (s : State) (x : Meter) : State := { s with chip := { s.chip with meter := x } }

/-- Every domain that the test mode needs off is off (16 R499). -/
def allDark (s : State) : Prop := s.chip.pins.domains = [] ∧ ∀ kv ∈ s.node.gov.tgs, kv.2.powered = false

/-! ### Registers -/

/-- The register region is reached and the register at `a` is held by a domain that is on (20 R585, R586). -/
def reached (s : State) (a : Nat) : Prop := s.node.quiet = true ∧ s.reachable = true ∧ s.regOn (regAt a) = true

/-- An address of the SPX block (16 R497). -/
def inSpx (a : Nat) : Prop := 0x030003000000 ≤ a ∧ a < 0x030004000000

/-- An aligned address of the register region at which a register can lie: no hole of the region and not in the SPX block. -/
def regPlace (a : Nat) : Prop :=
  0x030000000000 ≤ a ∧ a < 0x030100000000 ∧ a % 8 = 0 ∧ regAt a ≠ .hole ∧ ¬inSpx a

/-- What a write of `v` leaves of `old` in the fields that a write can change (01 R9): RW, and RWL while the lock is open,
take the written bit; a 1 written to a W1C bit clears it. -/
def writtenBits (x : Access) (locked : Bool) (old v : Word) : Word :=
  let st := x.rw ||| (if locked then 0 else x.rwl)
  ((old &&& ~~~st) ||| (v &&& st)) &&& ~~~(x.w1c &&& v)

/-- The bits of the register at `a` that WRITE_REG may not name (19 R565): its read-only fields, among them the reserved ones, and
those of RWL access, which the module writes itself. -/
def fixedBits (a : Nat) : Word :=
  let x := (regAt a).access
  let all := x.ro ||| x.rwl ||| x.rw ||| x.w1c ||| x.rc
  if all = 0 then 0 else x.ro ||| x.rwl ||| ~~~all

/-- The argument bytes of WRITE_REG (19 R565). -/
def writeArgs (a : Nat) (v m : Word) : List Byte := leBytes a 8 ++ leBytes v.toNat 8 ++ leBytes m.toNat 8

/-- The access log takes an access, when it is empty (20 R592). -/
def logs (s t : State) (kind a : Nat) : Prop :=
  t.chip = s.chip ∧ t.node.tiles = s.node.tiles ∧ t.node.mems = s.node.mems ∧ t.node.job = s.node.job ∧
  (s.xOn = true → s.node.ermLog = 0 →
    bit t.node.ermLog 63 = true ∧ fld t.node.ermLog 58 4 = kind ∧ fld t.node.ermLog 0 48 = a % 2 ^ 48)

/-- The rows that read one register with fields that clear (01 R9): its address and what it leaves. -/
def readClears (s : State) : Instr → Option (Nat × Node × Chip)
  | .gdrLinkRead => some (0x030006000008, { s.node with mems := { s.node.mems with
      gLink := s.node.mems.gLink &&& ~~~(0x0000FFFFFFFFFFFF : Word) } }, s.chip)
  | .cxmLinkerrRead => some (0x030007000008, { s.node with mems := { s.node.mems with
      cLink := s.node.mems.cLink &&& ~~~(0x0000FFFFFFFFFFFF : Word) } }, s.chip)
  | .cxmLinkRead l => if l < 4 then some (0x030007000020 + 8 * l, { s.node with mems := { s.node.mems with
      link := Map.put s.node.mems.link l (Map.getD s.node.mems.link l 0 &&& ~~~(0x00000000FFFF0000 : Word)) } }, s.chip) else none
  | .tshPortRead p => if p < 8 then some (0x030004000100 + 8 * p, { s.node with ports := Map.put s.node.ports p 0 }, s.chip)
      else none
  | .ermChkCfgRead => some (0x030008000000, { s.node with guard := { s.node.guard with
      chkCfg := s.node.guard.chkCfg &&& ~~~(0x000000FFFFFFFF00 : Word) } }, s.chip)
  | .chrLastTlRead => some (0x030001000018, s.node, { s.chip with chr := { s.chip.chr with
      lastTl := s.chip.chr.lastTl &&& ~~~(0x0000FFFF00000000 : Word) } })
  | _ => none

/-- The TLC registers of a tile can be written: X-core and its tile group are on, and it is backed. -/
def tlcReached (s : State) (lt : Nat) : Prop :=
  s.node.quiet = true ∧ s.reachable = true ∧ 64 ∈ s.chip.pins.domains ∧ lt < 2304 ∧ s.node.backed lt = true ∧
  (s.node.tg (groupOf (s.node.physOf lt))).powered = true

/-- `s` with tile `lt` changed. -/
def withTile (s : State) (lt : Nat) (x : Tile) : State := { s with node := s.node.setTile lt x }

/-- The selection of the debug window: the tile, the array, the cell, the chunk, whether it writes (07 R242). -/
def picked (s : State) : Nat × Nat × Nat × Nat × Bool :=
  let w := s.node.fdbgCtl
  (fld w 28 12, fld w 27 1, 32 * fld w 22 5 + fld w 17 5, fld w 13 4, bit w 12)

/-- Whether the selection is one of R242: a tile that the plan uses and a chunk that can be read, or written. -/
def pickedWell (s : State) : Prop :=
  (s.node.tile (picked s).1).used = true ∧ (picked s).2.2.2.1 < 14 ∧ ((picked s).2.2.2.2 = true → (picked s).2.2.2.1 < 11)

/-! ### Images, attestation, the sideband and the test access port -/

/-- `s` after the module has sent `o`. -/
def said (s : State) (o : Out) : State := { s with node := { s.node with out := s.node.out ++ [o] } }

/-- `t` is `s` after an unsigned question has been refused with NAK code VERSION (19 R558, 11 R352). -/
def refusedVersion (s t : State) (a : Asker) : Prop :=
  told s t a.path a.h (s.node.hostHeader 10 a.ctx 0 (nakSpec 0 0 1 0)) (.hostNak a.host a.ctx 1)

/-- `t` is `s` after an SPDM message to the asker (19 R558 kind 6). -/
def spoke (s t : State) (a : Asker) (code : Nat) (content : List (BitVec 384)) (signed : Bool) : Prop :=
  told s t a.path a.h (s.node.hostHeader 8 a.ctx (Config.spdmBytes code) (mgmtSpec 6)) (.spdm a code content signed)

/-- The questions that the unsigned management messages put: who asks. -/
def question : Instr → Option Asker
  | .read a _ _ | .image a _ _ _ _ _ | .getVersion a | .getCapabilities a | .negotiateAlgorithms a _ _ | .getDigests a
  | .getCertificate a _ | .challenge a _ _ | .getMeasurements a _ _ _ => some a
  | _ => none

/-- The other slot of a pair of the configuration store. -/
def partner (k : Nat) : Nat := if k % 2 = 0 then k + 1 else k - 1

/-- An SPDM question (19 R571-R574): who asks, the negotiation that it needs, and, where it is answered, the code and
content of the answer, whether it is signed, and the negotiation state after it. -/
def attests (s : State) : Instr → Option (Asker × Nat × Option (Nat × List (BitVec 384) × Bool × Nat))
  | .getVersion a => some (a, 0, some (0x04, [0x13], false, 1))
  | .getCapabilities a => some (a, 1, some (0x61, [], false, Max.max 2 s.chip.sec.spdm))
  | .negotiateAlgorithms a e h => some (a, 2, if e = true ∧ h = true then some (0x63, [], false, 3) else none)
  | .getDigests a => some (a, 3, some (0x01, [s.chainDigest], false, s.chip.sec.spdm))
  | .getCertificate a slot => some (a, 3, if slot = 0 then
      some (0x02, pieces48 (certChain s.chip.fuses s.chip.sec.meas), false, s.chip.sec.spdm) else none)
  | .challenge a slot nonce => some (a, 3, if slot = 0 then
      some (0x03, [s.chainDigest, BitVec.ofNat 384 nonce], true, s.chip.sec.spdm) else none)
  | .getMeasurements a index signed nonce => some (a, 3,
      let tail : List (BitVec 384) := if signed then [BitVec.ofNat 384 nonce] else []
      if index = 0 then some (0x60, 6 :: tail, signed, s.chip.sec.spdm)
      else if index = 255 then some (0x60, [1, 2, 3, 4, 5, 6].map s.block ++ tail, signed, s.chip.sec.spdm)
      else if index ≤ 6 then some (0x60, s.block index :: tail, signed, s.chip.sec.spdm) else none)
  | _ => none

/-- An MCTP control or PLDM request whose answer the state gives (19 R560): its kind and content. -/
def sidebandAnswer (s : State) : Instr → Option (Nat × List Nat)
  | .getEndpointId => some (0x02, [s.chip.sec.eid])
  | .getMessageTypeSupport => some (0x05, [0, 1, 5, 0x7F])
  | .getPldmTypes => some (0x10004, [0, 2, 4])
  | .getPldmCommands t => some (0x10005, if t = 0 then [0x02, 0x03, 0x04, 0x05] else if t = 2 then [0x0B, 0x11, 0x21, 0x51]
      else if t = 4 then [0x01, 0x02] else [])
  | .getPdr h => some (0x10251, if h < 67 then [h, 0] else if h < 69 then [h, 1] else [])
  | .getSensorReading i => some (0x10211, if i < 64 then [(s.node.tg i).temp] else if i = 64 then [s.node.xtemp]
      else if i = 65 then [s.chip.meter.pMain] else if i = 66 then [s.chip.meter.pAux] else [])
  | .getStateSensorReadings i => some (0x10221, if i = 67 then [s.chip.pins.pstate] else if i = 68 then [s.chip.boot.phase]
      else [])
  | .getFruRecordTable => some (0x10402, [79, 67, 78, 45, 81, 74, 49, 45, 51, 50] ++ [s.chip.fuses.serial.toNat,
      (Map.getD s.chip.fuses.dieId 0 0).toNat, (Map.getD s.chip.fuses.dieId 1 0).toNat, (Map.getD s.chip.fuses.dieId 2 0).toNat])
  | _ => none

/-- An MCTP control or PLDM request whose answer holds a value that the spec does not state: its kind. -/
def sidebandOpen : Instr → Option Nat
  | .getMctpVersionSupport => some 0x04
  | .getTid => some 0x10002
  | .getPldmVersion => some 0x10003
  | .pollForPlatformEventMessage => some 0x1020B
  | .getFruRecordTableMetadata => some 0x10401
  | _ => none

/-- The sideband is served, with nothing asked of the always-on domain. -/
def onSideband (s : State) : Prop := s.node.quiet = true ∧ s.served .i3c = true

/-- Measurement block `i` (19 R572): 1 to 5 as phase 2 took them, 6 the plan hash of the loaded job. -/
def blockIs (s : State) (i : Nat) : BitVec 384 :=
  if i = 6 then (if s.node.job.loaded then s.node.job.planHash else 0) else (s.chip.sec.meas[i - 1]?).getD 0

/-! ### The whole machine -/

/-- The command at the front of the queue. -/
def withFirst (s : State) (c : Instr) : State := { s with pending := c :: s.pending }

/-- Nothing is left asked of the always-on domain. -/
def settledAll (s : State) : Prop :=
  s.node.assert = [] ∧ s.node.jobTag = none ∧ s.node.govEvt = [] ∧ s.node.therm = false ∧ s.node.retain = false ∧
  s.node.retUps = []

/-- Memory has its one form (addresses strictly rising, nothing listed that reads so unlisted). -/
def canonical (s : State) : Prop := s.node.memWf = true

/-! ### The sequencer, and what the root decides -/

/-- Whether thread `k` of tile `t` can issue (03 R81, R83). -/
def mayIssue (s : State) (t : Nat) (k : Fin 8) : Prop := s.node.threadReady t k = true

/-- The word at a thread's pc; the all-ones filler where the slice loaded none (03 R66). -/
def wordAt (s : State) (t : Nat) (k : Fin 8) : Word :=
  (Map.look (s.node.tile t).imem (s.node.thread t k).pc).getD (BitVec.allOnes 64)

/-- No tile or child asks for Abort or re-execution (13 R405, R407). -/
def untainted (s : State) : Prop :=
  s.node.commit.tainted = false ∧ s.node.commit.abort = false ∧ ∀ k ∈ s.node.commit.kids, k.2.1 = 0

/-- A tile or a child carries the non-finite mark (13 R405, R407). -/
def markedNf (s : State) : Prop :=
  (∃ lt ∈ s.node.usedTiles, (s.node.tile lt).nf = true) ∨ ∃ k ∈ s.node.commit.kids, k.2.2 = true

end Sys2Proof.Slice0

open Sys2Proof Sys2Proof.Machine Sys2Proof.Slice0

/-- A step runs the command at the front of the queue on the state with the queue's rest; with none waiting it runs the
next instruction of a ready thread, and idles where no thread is ready (log entry 2). -/
def Obligations.StepRunsFront : Prop :=
  (∀ (s : State) (c : Instr), step (withFirst s c) = exec c s) ∧
  (∀ s : State, s.pending = [] → s.node.sequence = none → step s = .next s) ∧
  (∀ (s : State) (i : Instr) (n : Node), s.pending = [] → s.node.sequence = some (i, n) →
    step s = exec i { s with node := n })

/-- The machine right after reset: source 0 holds it at Full in the sequence that power-on began, with CHR_LAST naming it,
every scrubber at 24 h, the cap at 1,600 W, the interleave set unpopulated, shadowing at every step, ALERT_N low, no
job, no memory listed, and nothing waiting. -/
def Obligations.ResetState : Prop :=
  let s := State.reset
  s.pending = [] ∧ s.chip.chr.held = some 0 ∧ s.chip.chr.asserted = [(0, 0)] ∧ s.chip.chr.seqOn = true ∧
  fld s.chip.chr.last 32 16 = 1 ∧ fld s.chip.chr.last 29 3 = 0 ∧ fld s.chip.chr.last 48 16 = 1 ∧
  s.chip.chr.bkpSession = 0 ∧ s.chip.chr.stopped = true ∧ s.chip.pins.aux = false ∧ s.chip.chr.bkpBoots = 0 ∧ s.chip.hwk.cap = 1600 ∧ s.chip.hwk.evt = 0 ∧
  fld s.node.mems.gScrub 0 10 = 24 ∧ fld s.node.mems.cScrub 0 10 = 24 ∧ s.node.cxlLimit = 0x100000000000 ∧
  fld s.node.guard.chkCfg 0 7 = 1 ∧ s.node.on = false ∧ s.node.job.loaded = false ∧ s.chip.boot.ready = false ∧
  s.chip.boot.locked = false ∧ s.chip.pins.alertN = false ∧ s.node.tiles = [] ∧ s.node.mems.data = [] ∧
  canonical s ∧ settledAll s

/-- Every command is answered with a next state, in every state. -/
def Obligations.EveryCommandAnswers : Prop :=
  ∀ (i : Instr) (s : State), ∃ t, exec i s = .next t

/-- With no command waiting the sequencers run (log entry 2): nothing issues where no thread is ready; else one tile that
has a ready thread issues the word at the pc of the first one from the place where its search begins, eight threads
round; and every issue moves that place to the thread after the one that issued. -/
def Obligations.RoundRobin : Prop :=
  (∀ s : State, s.pending = [] → (∀ kv ∈ s.node.tiles, ∀ k, ¬mayIssue s kv.1 k) → step s = .next s) ∧
  (∀ s : State, s.pending = [] → (∃ kv ∈ s.node.tiles, ∃ k, mayIssue s kv.1 k) →
    ∃ (t m : Nat), (∃ kv ∈ s.node.tiles, kv.1 = t) ∧ m < 8 ∧
      let k := Fin.ofNat 8 ((s.node.tile t).rr + m)
      mayIssue s t k ∧ (∀ j, j < m → ¬mayIssue s t (Fin.ofNat 8 ((s.node.tile t).rr + j))) ∧
      step s = exec (decodeTile t k (wordAt s t k)) { s with node := { s.node with shift := t + 1 } }) ∧
  (∀ (s : State) (x : Site) (cost : Nat) (th : Thread),
    ((after s x cost th).node.tile x.tile).rr = (x.thr.val + 1) % 8 ∧
    (∀ u, u ≠ x.tile → (after s x cost th).node.tile u = s.node.tile u))

/-- A thread that is not fetched for at this opportunity (halted, exited, waiting, held, or its tile group not running)
lets no tile instruction take effect: the command leaves the machine as it is (03 R81, R83, R108; that such a command
is no error and waits for nothing is the model's choice, log entry 1). An instruction is selected exactly if p[PS] XOR
PN is 1: with PS 0 always, and never with PN beside it. A tile instruction whose predicate does not select it takes
one slot and moves the pc on, whatever else it asks. An instruction word that the instruction store cannot give issues
nothing: it is an uncorrectable event of tile SRAM, and reset source 9 asserts. -/
def Obligations.ThreadsThatDoNotRun : Prop :=
  (∀ (i : Instr) (s : State) (x : Site), siteOf i = some x → s.node.quiet = true → s.node.canFetch x = false →
      exec i s = .next s) ∧
  ((∀ (th : Thread) (x : Site), th.selects x = (th.getP x.ps != x.pn)) ∧
    (∀ (th : Thread) (x : Site), x.ps = 0 → th.selects x = !x.pn) ∧
    (∀ (i : Instr) (s : State) (x : Site), siteOf i = some x → s.node.quiet = true → s.node.canIssue x = true →
      x.res = 0 → reserved i = false → (thr s x).getP x.ps = x.pn → exec i s = .next (after s x 1 (thr s x).step))) ∧
  (∀ (i : Instr) (s : State) (x : Site), siteOf i = some x → s.node.quiet = true → s.node.canFetch x = true →
      s.node.canIssue x = false → s.chip.chr.stopped = false → s.chip.pins.pstate ≠ 3 →
      ∃ t, exec i s = .next t ∧ (t.chip.chr.asserted.any fun a => a.1 == 9) = true)

/-- A tile instruction with a non-zero reserved field or a reserved operand value is an illegal instruction, whatever its
predicate: its thread halts with its registers and its pc as they were, the fault is recorded with bits [63:32] of the
word, the step is tainted, and no other thread, no memory and nothing outside the node changes. For the first such
fault of the step at this pc; a logical tile, no shadow. -/
def Obligations.ReservedFieldFaults : Prop :=
  ∀ (i : Instr) (s : State) (x : Site), siteOf i = some x → s.node.quiet = true → s.node.canIssue x = true →
    (x.res ≠ 0 ∨ reserved i = true) → x.tile < 4096 → calm s x.tile →
    ∃ t, exec i s = .next t ∧
      t.node.thread x.tile x.thr = { thr s x with wait := .halted } ∧
      (∀ j, j ≠ x.thr.val → t.node.thread x.tile j = s.node.thread x.tile j) ∧
      (t.node.tile x.tile).fault = illegalRecord (s.node.tile x.tile).fault x.thr (thr s x).pc x.hi ∧
      (t.node.tile x.tile).tainted = true ∧ (t.node.tile x.tile).verdict = some 1 ∧ t.node.commit.tainted = true ∧
      (∀ u, u ≠ x.tile → t.node.tile u = s.node.tile u) ∧
      (t.node.tile x.tile).sram = (s.node.tile x.tile).sram ∧ t.node.mems = s.node.mems ∧ t.chip = s.chip

/-- ADD, SUB, AND, OR, XOR, SHL, SHR, SRA, MUL, MULHU, MIN, MAX, MINU, MAXU, CLZ and POPC write rd with the value the
table gives and move the pc on; a write to s0 is discarded, and nothing else of the machine changes but the tile's
issue counters. The immediate forms, LIL and LIH, for every immediate that is not a reserved operand value. -/
def Obligations.ScalarAlu : Prop :=
  (∀ (i : Instr) (s : State) (x : Site) (cost : Nat) (rd : Fin 32) (f : Thread → Word),
      aluReg i = some (x, cost, rd, f) → Runs s x →
        exec i s = .next (after s x cost ((thr s x).setS rd (f (thr s x))).step)) ∧
  (∀ (i : Instr) (s : State) (x : Site) (cost : Nat) (rd : Fin 32) (f : Thread → Word),
      aluImm i = some (x, cost, rd, f, false) → Runs s x →
        exec i s = .next (after s x cost ((thr s x).setS rd (f (thr s x))).step))

/-- NOP moves the pc on, and GETC reads a job coordinate. The sixteen comparisons and the three forms of PLOG write their
predicate; p0 discards the write. BR, CALL, BRR, CALLR and BDEC. -/
def Obligations.ScalarControl : Prop :=
  ((∀ (s : State) (x : Site), Runs s x → exec (.nop x false) s = .next (after s x 1 (thr s x).step)) ∧
    (∀ (s : State) (x : Site) (rd : Fin 32) (sel : BitVec 6), Runs s x → sel.toNat < 10 →
      exec (.getc x rd sel) s = .next (after s x 1 ((thr s x).setS rd (coordinate s x sel.toNat)).step))) ∧
  (∀ (i : Instr) (s : State) (x : Site) (pd : Fin 8) (f : Thread → Bool),
      (compares i = some (x, pd, f) ∨ plogs i = some (x, pd, f)) → Runs s x →
        exec i s = .next (after s x 1 ((thr s x).setP pd (f (thr s x))).step)) ∧
  (∀ (i : Instr) (s : State) (x : Site) (f : Thread → Thread),
      branches i = some (x, f) → Runs s x → exec i s = .next (after s x 1 (f (thr s x))))

/-- A scalar load issues: its thread moves on and is not ready until the value is in rd. The address lies in memory or,
for the whole access, in the tile's own TLC window, and no bound on reads holds it back. Nothing else changes. The
value returns: rd takes the bytes read, zero- or sign-extended, the thread is ready, and no other register of the
thread, no memory and nothing outside the node changes. The words read are sound, or silicon left them correctable.
That the access reads them whole is the model's choice (log entry 94). -/
def Obligations.ScalarLoads : Prop :=
  (∀ (i : Instr) (s : State) (x : Site) (rd ra : Fin 32) (off : BitVec 32) (size : Nat) (signed : Bool),
      loads i = some (x, rd, ra, off, size, signed) → Runs s x →
      (inMemory s (effective (thr s x) ra off) size ∨
        (effective (thr s x) ra off < 2 ^ 48 ∧ ownWindow x.tile (effective (thr s x) ra off) size = true)) →
      (ownSram x.tile (effective (thr s x) ra off) size = true ∨ s.node.readsOf x.tile < 64) →
      exec i s = .next (after s x 1 { (thr s x).step with
        wait := .load, load := some { rd := rd, addr := effective (thr s x) ra off, size := size, signed := signed } })) ∧
  (∀ (s₀ : State) (tile : Nat) (i : Fin 8) (l : Load) (up : List Upset),
      let s := struck s₀ up
      s.node.quiet = true → (s.node.thread tile i).load = some l → (s.node.thread tile i).wait = .load →
      s.node.stalledAt l.addr = false → ownWindow tile l.addr l.size = false →
      readable s tile (wordsOf l.addr l.size) →
      ∃ t, exec (.loadComplete tile i up) s₀ = .next t ∧
        (let v := numberAt s s.node.free tile l.addr l.size
         t.node.thread tile i = { (s.node.thread tile i).setS l.rd
            (if l.signed then BitVec.ofInt 64 (sgn v (8 * l.size)) else BitVec.ofNat 64 v) with wait := .ready, load := none }) ∧
        keepsMemory s t ∧ t.chip = s.chip)

/-- A scalar store lands: its bytes are in memory, little-endian, every other byte reads as before, the store is
outstanding, its thread stays ready, and no other thread changes. The address lies in memory outside the local regions
of the reduction table, neither a bound on writes nor a Tile reset of the tile that it names holds it back, the words
there can be written, and it is no output of a shadow that the shadow's own tile alone may write. That it lands whole
and at its issue is the model's choice (log entry 94). The oldest store of a thread completes, unless it waits for a
CXL link that is down: a thread that MFENCE made wait becomes ready once none is left and none of its readouts is in
the matrix queue. MFENCE waits exactly then. -/
def Obligations.ScalarStores : Prop :=
  (∀ (i : Instr) (s : State) (x : Site) (rs ra : Fin 32) (off : BitVec 32) (size : Nat),
      stores i = some (x, rs, ra, off, size) → Runs s x → x.wf = true →
      inMemory s (effective (thr s x) ra off) size → s.node.localHit (effective (thr s x) ra off) size = none →
      (ownSram x.tile (effective (thr s x) ra off) size = true ∨
        (s.node.writesOf x.tile < 32 ∧ s.node.tileHolds (effective (thr s x) ra off) = false)) →
      writable s (effective (thr s x) ra off) size →
      regionsReady s (effective (thr s x) ra off) size → s.node.lands x.tile (effective (thr s x) ra off) = true →
      ∃ t, exec i s = .next t ∧
        t.node.thread x.tile x.thr =
          { (thr s x).step with stores := (thr s x).stores ++ [effective (thr s x) ra off] } ∧
        (∀ f, numberAt t f x.tile (effective (thr s x) ra off) size = ((thr s x).getS rs).toNat % 2 ^ (8 * size)) ∧
        keepsOthers s t (effective (thr s x) ra off) size ∧ keepsThreads s t x ∧ t.chip = s.chip) ∧
  ((∀ (s : State) (tile : Nat) (i : Fin 8), s.node.quiet = true → (s.node.thread tile i).wait = .stores →
      (∀ a, (s.node.thread tile i).stores.head? = some a → s.node.stalledAt a = false) →
      ∃ t, exec (.storeComplete tile i) s = .next t ∧
        t.node.thread tile i = { s.node.thread tile i with
          stores := (s.node.thread tile i).stores.tail
          wait := if (s.node.thread tile i).stores.tail = [] ∧ (s.node.tile tile).readoutOf i = false then .ready else .stores } ∧
        keepsMemory s t ∧ t.chip = s.chip) ∧
    (∀ (s : State) (x : Site), Runs s x →
      exec (.mfence x) s = .next (after s x 1 { (thr s x).step with
        wait := if (thr s x).stores = [] ∧ (s.node.tile x.tile).readoutOf x.thr = false then .ready else .stores })))

/-- A load or a store whose effective address has a bit above bit 47, or that reaches a hole, the register region (but for
a load in the tile's own TLC window) or memory that is not there, is an address-out-of-range fault: the thread halts
as it was, TLC_FAULT_ADDR takes the lowest byte that is outside memory or the address's low 48 bits, and no memory
changes. For the first such fault of the step at this pc and a fault record that is clear. -/
def Obligations.AccessOutOfRange : Prop :=
  ∀ (i : Instr) (s : State) (x : Site) (ra : Fin 32) (off : BitVec 32) (size bad : Nat),
    ((∃ rd sg, loads i = some (x, rd, ra, off, size, sg) ∧ ownWindow x.tile (effective (thr s x) ra off) size = false) ∨
      (∃ rs, stores i = some (x, rs, ra, off, size))) →
    Runs s x → x.tile < 4096 → (s.node.tile x.tile).recur = [] → (s.node.tile x.tile).fault = .clear →
    ((2 ^ 48 ≤ effective (thr s x) ra off ∧ bad = effective (thr s x) ra off % 2 ^ 48) ∨
      (effective (thr s x) ra off < 2 ^ 48 ∧ s.node.badAddr (effective (thr s x) ra off) size = some bad ∧ bad < 2 ^ 48)) →
    ∃ t, exec i s = .next t ∧
      t.node.thread x.tile x.thr = { thr s x with wait := .halted } ∧
      (t.node.tile x.tile).fault = { valid := true, more := false, cls := 2, thr := x.thr, pc := (thr s x).pc, detail := 0,
                                     addr := bad } ∧
      (t.node.tile x.tile).tainted = true ∧ t.node.commit.tainted = true ∧ keepsMemory s t ∧ keepsThreads s t x

/-- TWAIT takes its count when the counter holds it, and else waits for it; TREAD reads a counter. BAR: a participant set
that is not that of a thread already waiting is an illegal instruction; the last participant completes the barrier and
makes every thread at it ready; another waits. -/
def Obligations.CountersAndBarriers : Prop :=
  ((∀ (s : State) (x : Site) (ctr : Fin 8) (r : Bool) (ra : Fin 32) (count : BitVec 16), Runs s x →
      reserved (.twait x ctr r ra count) = false →
      let c := waited (thr s x) r ra count
      let k := (thr s x).getK ctr
      (c ≤ k → exec (.twait x ctr r ra count) s = .next (after s x 1 ((thr s x).setK ctr (k - c)).step)) ∧
      (k < c → exec (.twait x ctr r ra count) s =
        .next { s with node := s.node.setThread x.tile x.thr { thr s x with wait := .tokens ctr c } })) ∧
    (∀ (s : State) (x : Site) (ctr : Fin 8) (rd : Fin 32), Runs s x →
      exec (.tread x ctr rd) s =
        .next (after s x 1 ((thr s x).setS rd (BitVec.ofNat 64 ((thr s x).getK ctr))).step))) ∧
  (∀ (s : State) (x : Site) (mask : BitVec 8) (id : Fin 4), Runs s x →
      let set := mask.toNat ||| 2 ^ x.thr.val
      let old := Map.look (s.node.tile x.tile).bars id
      (∀ b, old = some b → b.mask ≠ set → x.tile < 4096 → calm s x.tile →
        ∃ t, exec (.bar x mask id) s = .next t ∧ faulted s t x) ∧
      ((∀ b, old = some b → b.mask = set) →
        ∃ t, exec (.bar x mask id) s = .next t ∧ keepsMemory s t ∧ t.chip = s.chip ∧
          (∀ u j, u ≠ x.tile → t.node.thread u j = s.node.thread u j) ∧
          (allThere s x.tile set (arrivals old x) →
            t.node.thread x.tile x.thr = { (thr s x).step with wait := .ready } ∧
            Map.look (t.node.tile x.tile).bars id = none ∧
            ∀ j, j ≠ x.thr.val → t.node.thread x.tile j =
              if (s.node.thread x.tile j).wait = .barrier id then { s.node.thread x.tile j with wait := .ready }
              else s.node.thread x.tile j) ∧
          (¬allThere s x.tile set (arrivals old x) →
            t.node.thread x.tile x.thr = { (thr s x).step with wait := .barrier id } ∧
            Map.look (t.node.tile x.tile).bars id = some { mask := set, arrived := arrivals old x } ∧
            ∀ j, j ≠ x.thr.val → t.node.thread x.tile j = s.node.thread x.tile j)))

/-- TSEND and TSENDR: the token is on its way to a used logical tile of the node; to another node it goes out as a TOKEN
message at once when nothing of its sender is outstanding and its channel and its route take it; a logical tile above
2303, a node outside the job and a logical tile that the plan does not use are a misaddressed-token event (its LT
0xFFFF is the model's choice, log entry 70); a count of zero, and a shadow's token, go nowhere. No token for another
node waits before. A token within the node reaches its logical tile and, where that is shadowed, the shadow: its count
is added and a TWAIT that it meets ends; a sum above 65,535 leaves 65,535 and is a fault of class 4 (for a tile
without a shadow, and the first such fault of the step); a token of the next epoch, or one that meets a tile in reset,
is held; any other is discarded and sets STALE. -/
def Obligations.Tokens : Prop :=
  (∀ (i : Instr) (s : State) (x : Site) (d : Dest), sends s i = some (x, d) → Runs s x → reserved i = false →
      (∀ f ∈ s.node.flight, f.node = none) →
      ∃ t, exec i s = .next t ∧ onlyThread s t x (thr s x).step ∧
        (d.count = 0 ∨ 4096 ≤ x.tile → t.node.flight = s.node.flight ∧ t.node.out = s.node.out ∧ t.node.evSeq = s.node.evSeq) ∧
        (d.count ≠ 0 → x.tile < 4096 → d.here s → d.lt ≤ 2303 → (s.node.tile d.lt).used = true →
          t.node.out = s.node.out ∧ ∃ f, t.node.flight = s.node.flight ++ [f] ∧ f.node = none ∧ f.lt = d.lt ∧ f.thr = d.thr ∧
            f.ctr = d.ctr ∧ f.count = d.count ∧ f.epoch = (s.node.tile x.tile).epoch) ∧
        (d.count ≠ 0 → x.tile < 4096 →
          (2303 < d.lt ∨ (¬d.here s ∧ s.node.job.nnodes ≤ d.node) ∨ (d.here s ∧ (s.node.tile d.lt).used = false)) →
          t.node.flight = s.node.flight ∧ sentEvent s t 2 0xFFFF
            (BitVec.ofNat 64 (d.lt + (if d.loc then s.node.self % 4096 else d.node) * 4096))) ∧
        (d.count ≠ 0 → x.tile < 4096 → ¬d.here s → d.node < s.node.job.nnodes → d.lt ≤ 2303 →
          (s.node.tile x.tile).queue = [] → (s.node.tile x.tile).voile = [] → s.node.ctxs = [] →
          let msg : Msg := .token d.lt (Fin.ofNat 8 d.thr) (Fin.ofNat 8 d.ctr) d.count (s.node.tile x.tile).epoch
          s.node.clear (OutMsg.make d.node 1 0 false none msg) = true →
          t.node.flight = s.node.flight ∧ ∃ m f, t.node.out = s.node.out ++ [.msg m false f] ∧ m.dst = d.node ∧ m.vc = 1 ∧
            m.seq = Map.getD (s.node.peer d.node).sendSeq 1 0 ∧ m.msg = msg)) ∧
  (∀ (s : State) (i : Nat) (f : Flight), s.node.quiet = true → s.node.flight[i]? = some f → f.node = none →
      s.node.tokenFree f = true → f.lt < 2304 → (s.node.tile f.lt).used = true →
      ∃ t, exec (.tokenArrival i) s = .next t ∧ t.node.flight = dropAt s.node.flight i ∧
        ((s.node.tile f.lt).recur = [] → keepsMemory s t ∧ t.chip = s.chip) ∧
        (f.epoch = (s.node.tile f.lt).epoch → (s.node.tile f.lt).inRst = false →
          (∀ key, (key = f.lt ∨ (key = 4096 + f.lt ∧ s.node.shadowed f.lt = true)) →
            (∀ key', (key' = f.lt ∨ (key' = 4096 + f.lt ∧ s.node.shadowed f.lt = true)) →
              (s.node.thread key' f.thr).getK f.ctr + f.count ≤ 65535) →
            t.node.thread key f.thr =
              let th := s.node.thread key f.thr
              { th.setK f.ctr (th.getK f.ctr + f.count) with wait := match th.wait with
                  | .tokens c m => if f.ctr = c ∧ m ≤ th.getK f.ctr + f.count then .ready else th.wait
                  | w => w }) ∧
          (s.node.shadowed f.lt = false → (s.node.tile f.lt).recur = [] →
            65535 < (s.node.thread f.lt f.thr).getK f.ctr + f.count →
            t.node.thread f.lt f.thr =
              { (s.node.thread f.lt f.thr).setK f.ctr 65535 with wait := .halted } ∧
            ((s.node.tile f.lt).fault.valid = false → (t.node.tile f.lt).fault.cls = 4 ∧
              (t.node.tile f.lt).fault.thr = f.thr) ∧
            (t.node.tile f.lt).tainted = true ∧ t.node.commit.tainted = true)) ∧
        (((f.epoch ≠ (s.node.tile f.lt).epoch ∧ f.epoch = ((s.node.tile f.lt).epoch + 1) % 256) ∨
            (f.epoch = (s.node.tile f.lt).epoch ∧ (s.node.tile f.lt).inRst = true)) →
          t.node.tiles = s.node.tiles ∧ ∃ h, t.node.held = s.node.held ++
            [(h, .token f.lt (Fin.ofNat 8 f.thr) (Fin.ofNat 8 f.ctr) f.count f.epoch)]) ∧
        (f.epoch ≠ (s.node.tile f.lt).epoch → f.epoch ≠ ((s.node.tile f.lt).epoch + 1) % 256 →
          t.node.tiles = s.node.tiles ∧ t.node.held = s.node.held ∧ t.node.strStat = s.node.strStat ||| 2))

/-- STEND and EXIT end the thread's work for the step: with V, STEND votes non-finite where its predicate says so; EXIT
votes nothing and counts towards the end of the job. What ends may release a phase of the governor and so admit
others. PMARK: a phase that the tile's phase table lacks, or that is not above the thread's last mark, is an illegal
instruction; else the mark is set and the thread goes on once its group's request is admitted. RETRACT: the thread
goes on, the tile's verdict is tainted at once and the module's with it, and a tile event carries REASON and the pc.
For the first retraction of the step at this pc. DBGBRK: a plain step while debug mode is off; with it on, the tile
holds and an event carries CODE. -/
def Obligations.StepEndsAndPhases : Prop :=
  ((∀ (s : State) (x : Site) (v : Bool) (pv : Fin 8) (vn : Bool), Runs s x → reserved (.stend x v pv vn) = false →
      let vote := v && ((thr s x).getP pv != vn)
      ∃ t, exec (.stend x v pv vn) s = .next t ∧
        t.node.thread x.tile x.thr = { (thr s x).step with vote := vote, wait := .outcome } ∧
        (t.node.tile x.tile).nf = ((s.node.tile x.tile).nf || vote) ∧ onlyAdmits s t x ∧ keepsMemory s t ∧ t.chip = s.chip) ∧
    (∀ (s : State) (x : Site), Runs s x →
      ∃ t, exec (.exit x) s = .next t ∧
        t.node.thread x.tile x.thr = { (thr s x).step with exited := true, wait := .exited } ∧
        (t.node.tile x.tile).nf = (s.node.tile x.tile).nf ∧ onlyAdmits s t x ∧ keepsMemory s t ∧ t.chip = s.chip)) ∧
  (∀ (s : State) (x : Site) (phase : BitVec 8), Runs s x →
      let p := phase.toNat
      let listed := ∃ e ∈ (s.node.tile x.tile).phases, e.phase = p
      let above := ∀ q, (thr s x).mark = some q → q < p
      (listed → above → ∃ t w, exec (.pmark x phase) s = .next t ∧
        t.node.thread x.tile x.thr = { (thr s x).step with mark := some p, wait := w } ∧
        (w = .ready ∨ w = .admission p) ∧
        ((∃ r ∈ s.node.gov.reqs, r.g = groupOf (s.node.physOfKey x.tile) ∧ r.phase = some p ∧ r.admitted = true) →
          (∀ r ∈ s.node.gov.reqs, r.g = groupOf (s.node.physOfKey x.tile) → r.phase = some p → r.admitted = true) →
          w = .ready) ∧
        onlyAdmits s t x ∧ keepsMemory s t ∧ t.chip = s.chip) ∧
      (¬(listed ∧ above) → x.tile < 4096 → calm s x.tile →
        ∃ t, exec (.pmark x phase) s = .next t ∧ faulted s t x)) ∧
  (∀ (s : State) (x : Site) (reason : BitVec 8), Runs s x → x.tile < 4096 → (s.node.tile x.tile).recur = [] →
      ∃ t, exec (.retract x reason) s = .next t ∧ onlyThread s t x (thr s x).step ∧
        (t.node.tile x.tile).tainted = true ∧ (t.node.tile x.tile).verdict = some 1 ∧ t.node.commit.tainted = true ∧
        sentEvent s t 3 x.tile (BitVec.ofNat 64 (reason.toNat + (thr s x).pc * 256))) ∧
  (∀ (s : State) (x : Site) (code : BitVec 16), Runs s x →
      ((s.node.tile x.tile).dbgEn = false → exec (.dbgbrk x code) s = .next (after s x 1 (thr s x).step)) ∧
      ((s.node.tile x.tile).dbgEn = true → ∃ t, exec (.dbgbrk x code) s = .next t ∧ onlyThread s t x (thr s x).step ∧
        (t.node.tile x.tile).hold = true ∧ (x.tile < 4096 → sentEvent s t 4 x.tile (code.setWidth 64))))

/-- FALLOC: an array that is free becomes allocated with 1,024 zero cells and no flags; an array that is allocated, or
whose release has yet to take effect, makes the thread wait. FFREE: with nothing in the queue the array is released
and another FALLOC may take it; behind earlier instructions that name it, it is no longer allocated for later ones and
its contents stay for the earlier. An array that is not allocated is an illegal instruction. FSTAT and FINV read the
status of an array that no instruction in the queue names: a special value in any cell, the invalid-operation record,
saturation. They wait for those that do, and fault where the array is not allocated. -/
def Obligations.FeltArrays : Prop :=
  (∀ (s : State) (x : Site) (f : Fin 2) (strict : Bool), Runs s x →
      ((arr s x f).alloc = false → (arr s x f).held = false →
        ∃ t, exec (.falloc x f strict) s = .next t ∧ onlyThread s t x (thr s x).step ∧
          (arr t x f).alloc = true ∧ (arr t x f).strict = strict ∧ (arr t x f).inv = none ∧ (arr t x f).sat = false ∧
          (∀ k, (arr t x f).cell k = .zero ∧ (arr t x f).strictCell k = 0) ∧
          ∀ g, g ≠ f.val → arr t x g = arr s x g) ∧
      (((arr s x f).alloc = true ∨ (arr s x f).held = true) → exec (.falloc x f strict) s = .next (waits s x (.felt f)))) ∧
  (∀ (s : State) (x : Site) (f : Fin 2), Runs s x →
      ((arr s x f).alloc = true → (s.node.tile x.tile).queue = [] →
        ∃ t, exec (.ffree x f) s = .next t ∧ t.node.thread x.tile x.thr = { (thr s x).step with wait := .ready } ∧
          arr t x f = .released ∧ (t.node.tile x.tile).queue = [] ∧ onlyWakes s t x.tile x.thr ∧ keepsMemory s t ∧
          t.chip = s.chip) ∧
      ((arr s x f).alloc = true → places s x.tile x.thr < 4 → (∃ e ∈ (s.node.tile x.tile).queue, e.f = f.val) →
        (∀ e ∈ (s.node.tile x.tile).queue, e.atOnce = false ∧ e.id < (s.node.tile x.tile).opSeq) →
        ∃ t e, exec (.ffree x f) s = .next t ∧ t.node.thread x.tile x.thr = { (thr s x).step with wait := .ready } ∧
          arr t x f = { arr s x f with alloc := false } ∧
          (t.node.tile x.tile).queue = (s.node.tile x.tile).queue ++ [e] ∧ e.op = .ffree ∧ e.f = f.val ∧
          onlyWakes s t x.tile x.thr ∧ keepsMemory s t ∧ t.chip = s.chip) ∧
      ((arr s x f).alloc = false → x.tile < 4096 → calm s x.tile →
        ∃ t, exec (.ffree x f) s = .next t ∧ faulted s t x)) ∧
  ((∀ (s : State) (x : Site) (f : Fin 2) (pd : Fin 8) (sel : BitVec 4), Runs s x → sel.toNat < 3 →
      (arr s x f).alloc = true → (∀ e ∈ (s.node.tile x.tile).queue, e.f ≠ f.val) →
      exec (.fstat x f pd sel) s = .next (after s x 1 ((thr s x).setP pd (match sel.toNat with
        | 0 => (arr s x f).anySpecial
        | 1 => !(arr s x f).strict && (arr s x f).inv.isSome
        | _ => !(arr s x f).strict && (arr s x f).sat)).step)) ∧
    (∀ (s : State) (x : Site) (f : Fin 2) (rd : Fin 32) (sel : BitVec 4), Runs s x → sel.toNat < 4 →
      (arr s x f).alloc = true → (∀ e ∈ (s.node.tile x.tile).queue, e.f ≠ f.val) →
      exec (.finv x f rd sel) s = .next (after s x 1 ((thr s x).setS rd (BitVec.ofNat 64
        (match (arr s x f).inv with
          | none => 0
          | some r => if (arr s x f).strict then 0 else match sel.toNat with
            | 0 => 1
            | 1 => r.k
            | 2 => r.i
            | _ => r.j))).step)) ∧
    (∀ (i : Instr) (s : State) (x : Site) (f : Fin 2), Runs s x → reserved i = false →
      ((∃ pd sel, i = .fstat x f pd sel) ∨ (∃ rd sel, i = .finv x f rd sel)) →
      ((arr s x f).alloc = true → (∃ e ∈ (s.node.tile x.tile).queue, e.f = f.val) → exec i s = .next (waits s x .reg)) ∧
      ((arr s x f).alloc = false → x.tile < 4096 → calm s x.tile →
        ∃ t, exec i s = .next t ∧ faulted s t x)))

/-- FSUMR, MMA, MMAN, FSSQ, FLDX, FRDX and FRD issue: the instruction joins the matrix queue with the handles and register
values of this moment, and its thread goes on, or waits for the check of a held readout. No cell changes yet. An M
instruction whose array is not allocated, or is strict where it must not be, is an illegal instruction; one whose
thread holds four places of the queue waits. -/
def Obligations.MatrixQueue : Prop :=
  (∀ (i : Instr) (s : State) (x : Site) (f : Fin 2) (noStrict rd : Bool) (op : MOp),
      queues s i = some (x, f, noStrict, op, rd) → Runs s x → reserved i = false → refusedAtIssue s x op = false →
      (arr s x f).alloc = true → (noStrict = true → (arr s x f).strict = false) → places s x.tile x.thr < 4 →
      (∀ e ∈ (s.node.tile x.tile).queue, e.atOnce = false) →
      ∃ t, exec i s = .next t ∧
        t.node.thread x.tile x.thr = { (thr s x).step with
          wait := if rd = true ∧ (x.thr.val, (thr s x).pc) ∈ (s.node.tile x.tile).heldReads then .check else .ready } ∧
        (t.node.tile x.tile).queue = (s.node.tile x.tile).queue ++
          [{ op := op, f := f, thr := x.thr, pc := (thr s x).pc, id := (s.node.tile x.tile).opSeq }] ∧
        (∀ g, arr t x g = arr s x g) ∧ onlyWakes s t x.tile x.thr ∧ keepsMemory s t ∧ t.chip = s.chip) ∧
  (∀ (i : Instr) (s : State) (x : Site) (f : Fin 2) (noStrict rd : Bool) (op : MOp),
      queues s i = some (x, f, noStrict, op, rd) → Runs s x → reserved i = false →
      (((arr s x f).alloc = false ∨ (noStrict = true ∧ (arr s x f).strict = true)) → x.tile < 4096 →
        calm s x.tile → ∃ t, exec i s = .next t ∧ faulted s t x) ∧
      ((arr s x f).alloc = true → (noStrict = true → (arr s x f).strict = false) → 4 ≤ places s x.tile x.thr →
        exec i s = .next (waits s x .reg)))

/-- DBGRD and DBGWR with debug mode on and nothing in the queue: the chunk of the cell is in rd, or takes rs; chunks 0 to
9 of a cell that is not strict read back as written and leave the other chunks of the image. With debug mode off they
are a fault of class 5. -/
def Obligations.DebugAccess : Prop :=
  (∀ (s : State) (x : Site) (rd : Fin 32) (f : Fin 2) (i j : Fin 32) (chunk : BitVec 4), Runs s x → chunk.toNat < 11 →
    (arr s x f).alloc = true → (s.node.tile x.tile).dbgEn = true → (s.node.tile x.tile).queue = [] →
    ∃ t, exec (.dbgrd x rd f i j chunk) s = .next t ∧
      t.node.thread x.tile x.thr =
        { ((thr s x).setS rd ((arr s x f).chunk (32 * i.val + j.val) chunk.toNat)).step with wait := .ready } ∧
      (∀ g, arr t x g = arr s x g) ∧ (t.node.tile x.tile).queue = [] ∧ onlyWakes s t x.tile x.thr ∧ keepsMemory s t ∧
      t.chip = s.chip) ∧
  (∀ (s : State) (x : Site) (rs : Fin 32) (f : Fin 2) (i j : Fin 32) (chunk : BitVec 4), Runs s x → chunk.toNat < 11 →
    (arr s x f).alloc = true → (s.node.tile x.tile).dbgEn = true → (s.node.tile x.tile).queue = [] →
    ∃ t, exec (.dbgwr x rs f i j chunk) s = .next t ∧
      t.node.thread x.tile x.thr = { (thr s x).step with wait := .ready } ∧ (arr t x f).tampered = true ∧
      (∀ g, g ≠ f.val → arr t x g = arr s x g) ∧
      (∀ k, k ≠ 32 * i.val + j.val → (arr t x f).cell k = (arr s x f).cell k ∧
        (arr t x f).strictCell k = (arr s x f).strictCell k) ∧
      ((arr s x f).strict = false → chunk.toNat < 10 →
        (arr t x f).chunk (32 * i.val + j.val) chunk.toNat = (thr s x).getS rs ∧
        ∀ c, c < 10 → c ≠ chunk.toNat →
          (arr t x f).chunk (32 * i.val + j.val) c = (arr s x f).chunk (32 * i.val + j.val) c) ∧
      ((arr s x f).strict = true → chunk.toNat = 0 →
        (arr t x f).strictCell (32 * i.val + j.val) = ((thr s x).getS rs).setWidth 32) ∧
      onlyWakes s t x.tile x.thr ∧ keepsMemory s t ∧ t.chip = s.chip) ∧
  (∀ (i : Instr) (s : State) (x : Site) (f : Fin 2) (ci cj : Fin 32) (chunk : BitVec 4), Runs s x → chunk.toNat < 11 →
    ((∃ rd, i = .dbgrd x rd f ci cj chunk) ∨ (∃ rs, i = .dbgwr x rs f ci cj chunk)) →
    (arr s x f).alloc = true → (s.node.tile x.tile).dbgEn = false → x.tile < 4096 → (s.node.tile x.tile).recur = [] →
    (s.node.tile x.tile).fault = .clear →
    ∃ t, exec i s = .next t ∧ t.node.thread x.tile x.thr = { thr s x with wait := .halted } ∧
      (t.node.tile x.tile).fault = { valid := true, more := false, cls := 5, thr := x.thr, pc := (thr s x).pc, detail := 0,
                                     addr := 0 } ∧
      t.node.commit.tainted = true ∧ keepsThreads s t x ∧ keepsMemory s t)

/-- The oldest engine instruction runs when no earlier entry names its array and none that it conflicts with is before it:
its array takes the result, its flags are set, the entry leaves the queue, and no other array and no memory changes.
The group of its tile runs, its operands and its descriptors are sound and nothing in the queue takes effect by
itself. -/
def Obligations.EngineRetires : Prop :=
  ∀ (s : State) (tile : Nat) (e : MEntry) (r : Felt × Marks), s.node.quiet = true →
    (s.node.tile tile).queue.find? (·.engine) = some e → (s.node.tile tile).behind e = false →
    (s.node.tile tile).conflicts (ltOf tile) e = false → engineResult s tile e = some r →
    (∀ q ∈ (s.node.tile tile).queue, q.atOnce = false) → s.node.running tile = true →
    (s.node.tile tile).opHurt e.op = false → Sound s →
    ∃ t, exec (.matrixRetire tile) s = .next t ∧ (t.node.tile tile).arr e.f = r.1 ∧
      (∀ g, g ≠ e.f → (t.node.tile tile).arr g = (s.node.tile tile).arr g) ∧
      (t.node.tile tile).queue = (s.node.tile tile).queue.filter (fun q => q.id != e.id) ∧
      (t.node.tile tile).flags = (s.node.tile tile).flags ||| BitVec.ofNat 6
        ((if r.2.sat then 1 else 0) + (if r.2.inv then 2 else 0) + (if r.2.spill then 4 else 0)) ∧
      (∀ u j, u ≠ tile → t.node.thread u j = s.node.thread u j) ∧ keepsMemory s t ∧ t.chip = s.chip

/-- MMA and MMAN are exact: on an array that is not strict, with finite operands, each cell gains exactly the sum of its
products (loses it, for MMAN), for every number of rows and every grouping, as long as the magnitudes stay within the
cell. -/
def Obligations.MmaExact : Prop :=
  ∀ (a : Felt) (neg : Bool) (g : Nat) (ra rb : Rows) (recs : Nat → Nat → List InvRec), 0 < g → ra.length = rb.length →
    (∀ i j, (recs i j).length = ra.length) →
    (∀ row ∈ ra, ∀ v ∈ row, finiteElem v = true) → (∀ row ∈ rb, ∀ v ∈ row, finiteElem v = true) →
    ∀ i j, i < 32 → j < 32 →
      |((a.cell (32 * i + j)).val : Rat)| + loadOf ra rb i j * 2 ^ 298 ≤ 2 ^ 639 - 1 →
      (((a.mma neg g ra rb recs).1.cell (32 * i + j)).val : Rat) =
        (a.cell (32 * i + j)).val + (if neg then -1 else 1) * dotOf ra rb i j * 2 ^ 298 ∧
      ((a.mma neg g ra rb recs).1.cell (32 * i + j)).side = (a.cell (32 * i + j)).side

/-- Ermine's column residues follow MMA and MMAN: where every column's residue agrees with its cells before, and the
operands are finite and no cell saturates, every column's agrees after, so that no check of a readout fails. -/
def Obligations.ResiduesFollow : Prop :=
  ∀ (a : Felt) (neg : Bool) (g : Nat) (ra rb : Rows) (recs : Nat → Nat → List InvRec), 0 < g → ra.length = rb.length →
    (∀ i j, (recs i j).length = ra.length) → (∀ row ∈ ra, row.length = 32) →
    (∀ row ∈ ra, ∀ v ∈ row, finiteElem v = true) → (∀ row ∈ rb, ∀ v ∈ row, finiteElem v = true) →
    (a.mma neg g ra rb recs).2.sat = false → a.badColumn = none → (a.mma neg g ra rb recs).1.badColumn = none

/-- FRD runs when its turn comes: every element of its region takes the rounded result of its cell, no other byte changes,
ROVF and VINV are set where a result says so, CLR clears the array, and the readout goes to Ermine or is counted as
unchecked. The tile's group runs, the descriptor is sound and fit and the elements share no bit. The oldest readout
runs when its turn comes. FRDX writes the 98,336 bytes of the array's exact records; with CLR the array is cleared;
the readout is handed to Ermine unless the array is strict, saturated or tampered with, and then it is counted as
unchecked. The region lies in the tile's own SRAM and is sound, and the tile's group runs. Where no readout is queued,
or it must wait for another instruction or for its group, nothing changes. -/
def Obligations.Readouts : Prop :=
  (∀ (s : State) (tile : Nat) (e : MEntry) (h : Option Nat) (rm : Nat) (ov sr clr : Bool) (rij : Word) (d : Desc) (el : Elem)
      (up : Option (Fin 32 × Fin 32 × Nat)),
      s.node.quiet = true → tile < 2304 → s.node.backed tile = true →
      (s.node.tile tile).queue.find? (·.readout) = some e → e.op = .frd h rm ov sr clr rij →
      (s.node.tile tile).behind e = false → (s.node.tile tile).conflicts tile e = false →
      (∀ q ∈ (s.node.tile tile).queue, q.atOnce = false) → s.node.running tile = true →
      (s.node.tile tile).opHurt e.op = false → (s.node.tile tile).fit .readout tile h = some d → elemOf d.side0.fmt = some el →
      (isBlock d.side0.fmt = true → rij.toNat / 2 ^ 32 % blockElems d.side0.bsz = 0) →
      let a := flipped ((s.node.tile tile).arr e.f) up
      let r := s.node.readoutOf d el a rm ov sr (rij.toNat % 2 ^ 32) (rij.toNat / 2 ^ 32)
      apart r.es → landable s r.es →
      ∃ t, exec (.readoutRetire tile up) s = .next t ∧ landed s t tile r.es ∧
        (t.node.tile tile).arr e.f = (if clr then a.cleared else a) ∧
        (t.node.tile tile).queue = (s.node.tile tile).queue.filter (fun q => q.id != e.id) ∧
        (t.node.tile tile).flags = (s.node.tile tile).flags ||| BitVec.ofNat 6
          ((if r.ovf then 32 else 0) + (if r.inv then 16 else 0)) ∧
        ((a.strict || a.sat || a.tampered) = false → (t.node.tile tile).checks = (s.node.tile tile).checks ++
          [{ f := e.f, thr := e.thr, pc := e.pc, bad := a.badColumn, turned := a.turned }]) ∧
        countedIf s t (a.strict || a.sat || a.tampered) ∧ t.chip = s.chip) ∧
  ((∀ (s : State) (tile : Nat) (up : Option (Fin 32 × Fin 32 × Nat)), s.node.quiet = true →
      ((s.node.tile tile).queue.find? (·.readout) = none ∨ ∃ e, (s.node.tile tile).queue.find? (·.readout) = some e ∧
        (s.node.running tile = false ∨ (s.node.tile tile).behind e = true ∨ (s.node.tile tile).conflicts (ltOf tile) e = true)) →
      exec (.readoutRetire tile up) s = .next s) ∧
    ∀ (s : State) (tile : Nat) (e : MEntry) (o : Nat) (clr : Bool) (up : Option (Fin 32 × Fin 32 × Nat)), s.node.quiet = true → tile < 2304 →
      s.node.backed tile = true → (s.node.tile tile).queue.find? (·.readout) = some e → e.op = .frdx o clr →
      (s.node.tile tile).behind e = false → (s.node.tile tile).conflicts tile e = false → o + 98336 ≤ 2 ^ 19 →
      (∀ q ∈ (s.node.tile tile).queue, q.atOnce = false) → s.node.running tile = true → Sound s →
      let a := flipped ((s.node.tile tile).arr e.f) up
      ∃ t, exec (.readoutRetire tile up) s = .next t ∧
        (∀ f, numberAt t f tile (sramAddr tile o) 98336 = leNat a.records) ∧
        keepsOthers s t (sramAddr tile o) 98336 ∧
        (t.node.tile tile).arr e.f = (if clr then a.cleared else a) ∧
        (t.node.tile tile).queue = (s.node.tile tile).queue.filter (fun q => q.id != e.id) ∧
        (a.strict || a.sat || a.tampered = true → (t.node.tile tile).checks = (s.node.tile tile).checks) ∧
        ((a.strict || a.sat || a.tampered) = false → (t.node.tile tile).checks = (s.node.tile tile).checks ++
          [{ f := e.f, thr := e.thr, pc := e.pc, bad := a.badColumn, turned := a.turned }]) ∧
        countedIf s t (a.strict || a.sat || a.tampered) ∧ (∀ u j, u ≠ tile → t.node.thread u j = s.node.thread u j) ∧ t.chip = s.chip)

/-- Ermine's oldest check completes while the tile's group runs: one that found every column right frees the thread that
waits for it, behind its readout, and changes nothing else; the first failure of a healthy physical tile taints the
step, is recorded in ERM_CHK_EVT with its column and is counted against that tile. -/
def Obligations.ErmineChecks : Prop :=
  ∀ (s : State) (tile : Nat) (c : Check) (rest : List Check), s.node.quiet = true → (s.node.tile tile).checks = c :: rest →
    s.node.running tile = true →
    (c.bad = none → ∃ t, exec (.ermineCheck tile) s = .next t ∧ (t.node.tile tile).checks = rest ∧
      t.node.thread tile c.thr = { s.node.thread tile c.thr with
        wait := if (s.node.thread tile c.thr).wait = .check ∧ (s.node.thread tile c.thr).pc = (c.pc + 1) % 4096 then .ready
          else (s.node.thread tile c.thr).wait } ∧
      (∀ u j, ¬(u = tile ∧ j = c.thr) → t.node.thread u j = s.node.thread u j) ∧
      (∀ g, (t.node.tile tile).arr g = (s.node.tile tile).arr g) ∧ keepsMemory s t ∧ t.node.commit = s.node.commit ∧
      t.chip = s.chip) ∧
    (∀ col, c.bad = some col → tile < 4096 → s.node.on = true → (s.node.physTile (s.node.physOf tile)).chk = 0 →
      s.node.guard.chkEvt = 0 →
      ∃ t, exec (.ermineCheck tile) s = .next t ∧ (t.node.tile tile).checks = rest ∧
        (t.node.tile tile).tainted = true ∧ (t.node.tile tile).verdict = some 1 ∧ t.node.commit.tainted = true ∧
        bit t.node.guard.chkEvt 63 = true ∧ fld t.node.guard.chkEvt 58 4 = 1 ∧ fld t.node.guard.chkEvt 46 12 = tile ∧
        fld t.node.guard.chkEvt 40 5 = col % 32 ∧
        (t.node.physTile (s.node.physOf tile)).chk = 1 ∧ t.node.physOf tile = s.node.physOf tile ∧
        keepsMemory s t ∧ t.chip = s.chip)

/-- The twelve lane instructions write every lane of vd with its exact result, rounded, wrapped or saturated once; VOVF
and VINV are set where a lane says so, and only one thread and those two flags change. A vector instruction that names
a register which a TOPK has yet to write waits for it. -/
def Obligations.VectorLanes : Prop :=
  (∀ (i : Instr) (s : State) (x : Site) (cost : Nat) (vd va vb : Fin 32) (w : Nat) (f : Nat → Nat → Nat → Nat × Bool × Bool),
      lanes i = some (x, cost, vd, va, vb, w, f) → Runs s x → reserved i = false → settled s x [vd, va, vb] →
      let r (k : Nat) := f (laneOf ((thr s x).getV va) w k) (laneOf ((thr s x).getV vb) w k) (laneOf ((thr s x).getV vd) w k)
      ∃ v ovf inv, exec i s = .next (afterV s x cost ((thr s x).setV vd v).step ovf inv) ∧
        (∀ k, k < 1024 / w → laneOf v w k = (r k).1 % 2 ^ w) ∧
        (ovf = true ↔ ∃ k, k < 1024 / w ∧ (r k).2.1 = true) ∧ (inv = true ↔ ∃ k, k < 1024 / w ∧ (r k).2.2 = true)) ∧
  (∀ (i : Instr) (s : State) (x : Site) (rs : List (Fin 32)), vregs i = some (x, rs) → Runs s x → reserved i = false →
      ¬settled s x rs → exec i s = .next (waits s x .reg))

/-- VCVT converts element by element from the group of vs that PART names to the group of vd that it names; the rest of vd
stays. VANYNF, VMOVS, VBCAST and VINS. -/
def Obligations.VectorConvertAndMove : Prop :=
  (∀ (s : State) (x : Site) (st dt : BitVec 4) (vd vs : Fin 32) (part : BitVec 2) (rm : BitVec 3) (ov : Bool)
      (ra rb rc : Fin 32) (a b : Elem), Runs s x → reserved (.vcvt x st dt vd vs part rm ov ra rb rc) = false →
      cvtType st.toNat = some a → cvtType dt.toNat = some b → settled s x [vd, vs] →
      let n := elemsOf a.width b.width
      let src := groupIn a.width b.width part.toNat * n * a.width
      let dst := groupIn b.width a.width part.toNat * n * b.width
      let r (e : Nat) := b.encode rm.toNat ov (uniformOf s x rm ra rb rc e)
        (a.decode (regBits ((thr s x).getV vs) (src + a.width * e) a.width))
      ∃ v ovf inv, exec (.vcvt x st dt vd vs part rm ov ra rb rc) s = .next
          (afterV s x (if a.width = 32 ∨ b.width = 32 then 2 else 1) ((thr s x).setV vd v).step ovf inv) ∧
        (∀ e, e < n → regBits v (dst + b.width * e) b.width = (r e).bits % 2 ^ b.width) ∧
        (∀ k, k < 1024 → (k < dst ∨ dst + n * b.width ≤ k) → regBits v k 1 = regBits ((thr s x).getV vd) k 1) ∧
        (ovf = true ↔ ∃ e, e < n ∧ (r e).ovf = true) ∧ (inv = true ↔ ∃ e, e < n ∧ (r e).inv = true)) ∧
  ((∀ (s : State) (x : Site) (pd : Fin 8) (vs : Fin 32) (t : BitVec 3) (f : FloatFmt), Runs s x → settled s x [vs] →
      ((t = 0 ∧ f = bf16) ∨ (t = 1 ∧ f = fp16) ∨ (t = 2 ∧ f = fp32)) →
      ∃ b, exec (.vanynf x pd vs t) s = .next (after s x 1 ((thr s x).setP pd b).step) ∧
        (b = true ↔ ∃ k, k < 1024 / widthOf t.toNat ∧
          (f.decode (laneOf ((thr s x).getV vs) (widthOf t.toNat) k)).special = true)) ∧
    (∀ (s : State) (x : Site) (rd vs : Fin 32) (l : BitVec 4), Runs s x → settled s x [vs] →
      exec (.vmovs x rd vs l) s = .next (after s x 1 ((thr s x).setS rd
        (BitVec.ofNat 64 (regBits ((thr s x).getV vs) (64 * l.toNat) 64))).step)) ∧
    (∀ (s : State) (x : Site) (vd rs : Fin 32) (t : BitVec 3), Runs s x → settled s x [vd] → t.toNat < 5 →
      ∃ v, exec (.vbcast x vd rs t) s = .next (after s x 1 ((thr s x).setV vd v).step) ∧
        ∀ k, k < 1024 / widthOf t.toNat → laneOf v (widthOf t.toNat) k = ((thr s x).getS rs).toNat % 2 ^ widthOf t.toNat) ∧
    (∀ (s : State) (x : Site) (vd rs : Fin 32) (l : BitVec 4), Runs s x → settled s x [vd] →
      ∃ v, exec (.vins x vd rs l) s = .next (after s x 1 ((thr s x).setV vd v).step) ∧
        ∀ k, k < 16 → regBits v (64 * k) 64 =
          if k = l.toNat then ((thr s x).getS rs).toNat else regBits ((thr s x).getV vd) (64 * k) 64))

/-- VLD reads 128 bytes of the tile's SRAM, VST writes them; above 0x7FF80 they are out of range. The words read, and
those written in part, are sound. -/
def Obligations.VectorMemory : Prop :=
  (∀ (s : State) (x : Site) (vd ra : Fin 32) (off : BitVec 32), Runs s x → settled s x [vd] →
    vectorAt s x ra off ≤ 0x7FF80 → readable s x.tile (wordsOf (sramAddr (ltOf x.tile) (vectorAt s x ra off)) 128) →
    ∃ t v, exec (.vld x vd ra off) s = .next t ∧ onlyThread s t x ((thr s x).setV vd v).step ∧
      ∀ k, k < 128 → regBits v (8 * k) 8 =
        (byteAt s s.node.free x.tile (sramAddr (ltOf x.tile) (vectorAt s x ra off) + k)).toNat) ∧
  (∀ (s : State) (x : Site) (vs ra : Fin 32) (off : BitVec 32), Runs s x → x.wf = true → settled s x [vs] →
    vectorAt s x ra off ≤ 0x7FF80 → s.node.backed (ltOf x.tile) = true →
    writable s (sramAddr (ltOf x.tile) (vectorAt s x ra off)) 128 →
    ∃ t, exec (.vst x vs ra off) s = .next t ∧ t.node.thread x.tile x.thr = (thr s x).step ∧
      (∀ f k, k < 128 → (byteAt t f x.tile (sramAddr (ltOf x.tile) (vectorAt s x ra off) + k)).toNat =
        regBits ((thr s x).getV vs) (8 * k) 8) ∧
      keepsOthers s t (sramAddr (ltOf x.tile) (vectorAt s x ra off)) 128 ∧ keepsThreads s t x ∧ t.chip = s.chip) ∧
  (∀ (i : Instr) (s : State) (x : Site) (r ra : Fin 32) (off : BitVec 32), Runs s x → settled s x [r] →
    (i = .vld x r ra off ∨ i = .vst x r ra off) → 0x7FF80 < vectorAt s x ra off → x.tile < 2304 →
    (s.node.tile x.tile).recur = [] → (s.node.tile x.tile).fault = .clear →
    ∃ t, exec i s = .next t ∧ t.node.thread x.tile x.thr = { thr s x with wait := .halted } ∧
      (t.node.tile x.tile).fault.cls = 2 ∧ (t.node.tile x.tile).fault.pc = (thr s x).pc ∧
      t.node.commit.tainted = true ∧ keepsThreads s t x ∧ keepsMemory s t)

/-- TOPK issues: its register is busy until it retires. TOPKM merges two states: the result lists valid entries of its
operands alone, no two at one position, best first, at most K + 1, and no entry left out is better than the last of a
full list. TOPK_RETIRE: the oldest TOPK of the tile, whose group runs and whose descriptor is fit, merges the elements
of its region into its register and the register is no longer busy. The region is sound, and no later TOPK of the
thread writes that register. -/
def Obligations.TopKStates : Prop :=
  ((∀ (s : State) (x : Site) (vd : Fin 32) (ax : Fin 8) (k : BitVec 3) (dir : Bool), Runs s x → settled s x [vd] →
      ∃ t, exec (.topk x vd ax k dir) s = .next t ∧
        onlyThread s t x { (thr s x).step with vbusy := (thr s x).vbusy ++ [vd.val] } ∧
        (t.node.tile x.tile).topk = (s.node.tile x.tile).topk ++
          [{ thr := x.thr, pc := (thr s x).pc, vd := vd, desc := s.node.handle x ax, k := k.toNat + 1, dir := dir }]) ∧
    (∀ (s : State) (x : Site) (vd va vb : Fin 32) (k : BitVec 3) (dir : Bool), Runs s x → settled s x [vd, va, vb] →
      ∃ v, exec (.topkm x vd va vb k dir) s = .next (after s x 2 ((thr s x).setV vd v).step) ∧
        let es := entriesIn ((thr s x).getV va) ++ entriesIn ((thr s x).getV vb)
        (∀ e ∈ entriesIn v, e ∈ es) ∧ (entriesIn v).length ≤ k.toNat + 1 ∧
        (entriesIn v).Pairwise (fun a b => better dir a b ∧ a.2 ≠ b.2) ∧
        ∀ e ∈ es, (∃ q ∈ entriesIn v, q.2 = e.2 ∧ ¬better dir e q) ∨
          ((entriesIn v).length = k.toNat + 1 ∧ ∀ q ∈ entriesIn v, ¬better dir e q))) ∧
  (∀ (s : State) (tile : Nat) (op : TopkOp) (rest : List TopkOp) (d : Desc), s.node.quiet = true →
      (s.node.tile tile).topk = op :: rest → (s.node.tile tile).fit .topk (ltOf tile) op.desc = some d →
      s.node.running tile = true → (∀ k, op.desc = some k → (s.node.tile tile).descHurt k = false) → Sound s →
      (∀ q ∈ rest, ¬(q.thr = op.thr ∧ q.vd = op.vd)) →
      ∃ t v, exec (.topkRetire tile) s = .next t ∧ (t.node.tile tile).topk = rest ∧
        (t.node.thread tile op.thr).getV op.vd = v ∧ op.vd ∉ (t.node.thread tile op.thr).vbusy ∧
        (∀ r, r ≠ op.vd → (t.node.thread tile op.thr).getV r = (s.node.thread tile op.thr).getV r) ∧
        (t.node.thread tile op.thr).s = (s.node.thread tile op.thr).s ∧
        (t.node.thread tile op.thr).p = (s.node.thread tile op.thr).p ∧
        v = topkState (topkMerge op.dir op.k
          (topkEntries ((s.node.thread tile op.thr).getV op.vd) ++ s.node.regionEntries tile d)) ∧
        onlyWakes s t tile op.thr ∧ keepsMemory s t ∧ t.chip = s.chip)

/-- SBIND and SBINDR bind a handle to a descriptor that the slice loaded; another index is a descriptor-invalid fault.
SSTAT reads the context word of the handle's live context, zero for an unbound handle. SARM: a descriptor with an
error, an unbound handle and an entry that is not loaded are descriptor-invalid faults; a live context takes the
arming into its shadow and marks a shadow that it replaces as overrun; else the lowest free context of the tile's
engine is QUEUED with the next generation, or the thread waits for one. The descriptor's words are sound. -/
def Obligations.StreamArming : Prop :=
  ((∀ (i : Instr) (s : State) (x : Site) (an : Fin 8) (k : Nat), Runs s x →
      ((∃ idx : BitVec 8, i = .sbind x an idx ∧ k = idx.toNat) ∨
        (∃ ra, i = .sbindr x an ra ∧ k = ((thr s x).getS ra).toNat % 256)) →
      (((s.node.tile x.tile).desc k).isSome = true →
        exec i s = .next (after s x 1 { (thr s x).step with a := Map.put (thr s x).a an k })) ∧
      (((s.node.tile x.tile).desc k).isSome = false → x.tile < 4096 → (s.node.tile x.tile).recur = [] →
        (s.node.tile x.tile).fault = .clear → ∃ t, exec i s = .next t ∧ descFault s t x (· = k))) ∧
    (∀ (s : State) (x : Site) (rd : Fin 32) (an : Fin 8), Runs s x → ∃ w : Word,
      exec (.sstat x rd an) s = .next (after s x 1 ((thr s x).setS rd w).step) ∧
      (s.node.handle x an = none → w = 0) ∧
      (∀ i, s.node.handle x an = some i → x.tile < 2304 →
        fld w 52 12 = x.tile ∧ fld w 44 8 = i % 256 ∧
        (s.node.ctxOf x.tile i = none → fld w 28 16 = genOf s x.tile i ∧ fld w 0 12 = 0) ∧
        ∀ c k, s.node.ctxOf x.tile i = some (c, k) → s.node.ctx c = some k → k.lt = x.tile → k.idx = i →
          fld w 28 16 = k.gen % 65536 ∧ fld w 0 4 = k.state % 16 ∧ bit w 6 = k.shadow.isSome ∧ bit w 7 = s.node.overruns.contains c))) ∧
  (∀ (s : State) (x : Site) (an : Fin 8) (ra : Fin 32), Runs s x →
      (armed s x an ra = none → x.tile < 4096 → (s.node.tile x.tile).recur = [] → (s.node.tile x.tile).fault = .clear →
        ∃ t, exec (.sarm x an ra) s = .next t ∧
          descFault s t x (fun k => ∀ i, s.node.handle x an = some i → k = i % 2 ^ 32)) ∧
      ∀ i d, armed s x an ra = some (i, d) → (s.node.tile x.tile).descHurt i = false →
        (s.node.armBad d s.node.parity = true → x.tile < 4096 → (s.node.tile x.tile).recur = [] →
          (s.node.tile x.tile).fault = .clear →
          ∃ t, exec (.sarm x an ra) s = .next t ∧ descFault s t x (· = i % 2 ^ 32)) ∧
        (s.node.armBad d s.node.parity = false → ∀ c k, s.node.ctxOf x.tile i = some (c, k) →
          ∃ t a, exec (.sarm x an ra) s = .next t ∧ onlyThread s t x (thr s x).step ∧
            t.node.ctx c = some { k with shadow := some a } ∧
            a.epoch = (s.node.tile x.tile).epoch ∧ a.thr = x.thr.val ∧ a.off = d.shift ∧
            (∀ b, b ≠ c → t.node.ctx b = s.node.ctx b) ∧
            (k.shadow.isSome = true → t.node.strStat = s.node.strStat ||| 1 ∧
              t.node.overruns = insertNew c s.node.overruns) ∧
            (k.shadow = none → t.node.strStat = s.node.strStat ∧ t.node.overruns = s.node.overruns)) ∧
        (s.node.armBad d s.node.parity = false → s.node.ctxOf x.tile i = none →
          (if d.ownSide (ltOf x.tile) s.node.parity then s.node.writesOf x.tile < 32 else s.node.readsOf x.tile < 64) →
          (∀ c, s.node.freeCtx (s.node.engineOf x.tile) = some c →
            ∃ t k, exec (.sarm x an ra) s = .next t ∧ onlyThread s t x (thr s x).step ∧ t.node.ctx c = some k ∧
              k.lt = x.tile ∧ k.idx = i ∧ k.state = 1 ∧ k.gen = (genOf s x.tile i + 1) % 65536 ∧ k.shadow = none ∧
              k.arm.off = d.shift ∧ k.arm.par = s.node.commit.now.step.toNat % 2 ∧ k.arm.thr = x.thr.val ∧
              k.arm.epoch = (s.node.tile x.tile).epoch ∧
              (∀ b, b ≠ c → t.node.ctx b = s.node.ctx b) ∧
              (2 < (((s.node.tile x.tile).desc i).getD []).length →
                genOf t x.tile i = (genOf s x.tile i + 1) % 65536)) ∧
          (s.node.freeCtx (s.node.engineOf x.tile) = none → exec (.sarm x an ra) s = .next (waits s x .bound))))

/-- STREAM_GRANT: a queued arming that must still wait is left, and its register shows why in WAIT; a fill is granted, and
a plain copy within the node whose source is sound: with every read issued it is DRAINING, with one element write for
each element of its region: the fill's value, or the bits that stand at its place on side 0. Nothing has landed yet.
Formats without block scales; no recorder and no replay, and no tile in a reset. STREAM_COMPLETE: an arming within the
node whose epoch is its destination's, in no reset and behind no link that is down, lands its element writes; without
a shadow its context is free, and unless NOTOK its token is on its way. A logical tile's arming, outside a replay and
with no local region in the job. -/
def Obligations.StreamTransfers : Prop :=
  (∀ (s₀ : State) (c : Nat) (x : Ctx) (d : Desc) (up sent : List Upset),
      let s := struck s₀ (up ++ sent)
      s.node.quiet = true → s.node.ctx c = some x → descOf s x = some d → x.state = 1 → s.node.on = true → s.node.mems.stalled = [] →
      (s.node.queuedWait c x d ≠ 0 → exec (.streamGrant c up sent) s₀ = .next s ∧
        fld (s.node.ctxWord c) 8 3 = s.node.queuedWait c x d) ∧
      (s.node.queuedWait c x d = 0 → d.dloc = true → d.accw = false → isBlock d.side0.fmt = false →
        isBlock d.side1.fmt = false → s.node.job.replay = false → s.node.job.recorder = [] →
        (d.kind = 2 ∨ (d.kind = 1 ∧ Sound s ∧ s.node.fcAlt = [])) → (∀ lt, (s.node.tile lt).inRst = false) →
        ∃ t y, exec (.streamGrant c up sent) s₀ = .next t ∧ t.node.ctx c = some y ∧ y.state = 3 ∧
          y.here = true ∧ y.todo = [] ∧ y.arm = x.arm ∧ y.shadow = x.shadow ∧
          y.writes = d.inOrder.map (fun q =>
            { bit := ((d.write1 x.arm.par).bitOf ((d.write1 x.arm.par).line q)).toNat
              w := (d.write1 x.arm.par).width
              v := if d.kind = 2 then d.fill % 2 ^ (d.write1 x.arm.par).width
                   else s.node.rdBits x.lt ((d.read0 x.arm.par).bitOf ((d.read0 x.arm.par).line q)) (d.read0 x.arm.par).width
              poison := false }) ∧
          (∀ b, b ≠ c → t.node.ctx b = s.node.ctx b) ∧ keepsMemory s t ∧ t.chip = s.chip)) ∧
  (∀ (s : State) (c : Nat) (x : Ctx) (d : Desc), s.node.quiet = true → s.node.ctx c = some x → descOf s x = some d →
      x.state = 3 → x.dead = false → x.todo = [] → x.here = true → x.cells = [] → x.shadow = none →
      x.lt < 2304 → s.node.on = true → d.dloc = true → d.accw = false → s.node.job.replay = false → s.node.job.red = [] →
      s.node.testAt (d.side1At x.arm.par) x.arm.epoch = .now → (∀ f ∈ s.node.flight, f.node = none) →
      s.node.stalledSide (d.extents (d.write1 x.arm.par)) = false → apart x.writes → landable s x.writes →
      ∃ t, exec (.streamComplete c) s = .next t ∧ landed s t noView x.writes ∧ t.node.ctx c = none ∧
        (∀ b, b ≠ c → t.node.ctx b = s.node.ctx b) ∧
        (d.notok = true → t.node.flight = s.node.flight) ∧
        (d.notok = false → ∃ f, t.node.flight = s.node.flight ++ [f] ∧ f.node = none ∧ f.thr = d.cthr ∧ f.ctr = d.cctr ∧
          f.count = 1 ∧ f.epoch = x.arm.epoch) ∧ t.chip = s.chip)

/-- VPUT and VGET take the lowest free slot of the tile: a put reads its bytes now. Towards another node the request goes
out at once where its channel and its route take it. A bad range or node is an address-out-of-range fault; without a
free slot the thread waits. A Voile operation within the node completes: where its epoch is the destination's, its
slot is free, a put's bytes are at the address, a get's at the local offset, no other byte changes, and its token is
on its way; where the destination is one epoch behind, or is its own tile in a reset, it waits in its slot; else its
slot is free, nothing is written and STALE is set. Where its address lies behind a link that is down, or in a tile in
a reset, nothing changes. A logical tile's operation on sound memory. -/
def Obligations.VoileOperations : Prop :=
  (∀ (i : Instr) (s : State) (x : Site) (put : Bool) (size : Nat) (dthr ctr : Fin 8) (loc : Bool) (rn ra rb : Fin 32),
      voiles i = some (x, put, size, dthr, ctr, loc, rn, ra, rb) → Runs s x → reserved i = false →
      let here := loc || voileNode s x rn == s.node.self
      let off := ((thr s x).getS rb).toNat % 2 ^ 19
      let a := (thr s x).getS ra
      let bad := s.node.voileBad x put size here (voileNode s x rn) a off
      ((s.node.tile x.tile).voileSlot = none → exec i s = .next (waits s x .bound)) ∧
      (∀ b, (s.node.tile x.tile).voileSlot ≠ none → bad = some b → x.tile < 4096 → (s.node.tile x.tile).recur = [] →
        (s.node.tile x.tile).fault = .clear →
        ∃ t, exec i s = .next t ∧ t.node.thread x.tile x.thr = { thr s x with wait := .halted } ∧
          (t.node.tile x.tile).fault = { valid := true, more := false, cls := 2, thr := x.thr, pc := (thr s x).pc, detail := 0,
                                         addr := b % 2 ^ 48 } ∧
          t.node.commit.tainted = true ∧ keepsThreads s t x ∧ keepsMemory s t) ∧
      (∀ slot, (s.node.tile x.tile).voileSlot = some slot → bad = none →
        (put = true → readable s x.tile (wordsOf (sramAddr (ltOf x.tile) off) size)) →
        let data := if put then bytesAt s s.node.free x.tile (sramAddr (ltOf x.tile) off) size else []
        let h : VoileHdr := { len := size, srcLt := ltOf x.tile, thr := dthr, ctr := ctr, epoch := (s.node.tile x.tile).epoch,
                              tag := slot, addr := a.toNat }
        let msg : Msg := if put then .put h data else .get h
        ∃ t, exec i s = .next t ∧ onlyThread s t x (thr s x).step ∧
          Map.look (t.node.tile x.tile).voile slot = some
            { put := put, local_ := off, len := size, addr := a.toNat
              node := if here then none else some (voileNode s x rn), thr := dthr, ctr := ctr
              epoch := (s.node.tile x.tile).epoch, by_ := x.thr, pc := (thr s x).pc, id := (s.node.tile x.tile).opSeq
              data := data, poison := false, arrived := false } ∧
          (∀ k, k ≠ slot → Map.look (t.node.tile x.tile).voile k = Map.look (s.node.tile x.tile).voile k) ∧
          (here = true ∨ 4096 ≤ x.tile → t.node.out = s.node.out) ∧
          (here = false → x.tile < 4096 → s.node.clear (OutMsg.make (voileNode s x rn) 7 0 false none msg) = true →
            ∃ m f, t.node.out = s.node.out ++ [.msg m false f] ∧ m.dst = voileNode s x rn ∧ m.vc = 7 ∧ m.msg = msg))) ∧
  (∀ (s : State) (tile slot : Nat) (o : VoileOp), s.node.quiet = true → tile < 2304 → s.node.backed tile = true →
      Map.look (s.node.tile tile).voile slot = some o → o.node = none → s.node.on = true → Sound s → o.poison = false →
      (∀ f ∈ s.node.flight, f.node = none) → o.data.length = (if o.put then o.len else 0) →
      o.local_ + o.len ≤ 2 ^ 19 → 0 < o.len → s.node.badAddr o.addr o.len = none → regionsReady s o.addr o.len →
      let dest := if o.put then o.addr else sramAddr tile o.local_
      let bytes := if o.put then o.data else bytesAt s s.node.free tile o.addr o.len
      (s.node.stalledRange o.addr o.len = true → exec (.voileLocalComplete tile slot) s = .next s) ∧
      (s.node.stalledRange o.addr o.len = false →
      ∃ t, exec (.voileLocalComplete tile slot) s = .next t ∧ t.chip = s.chip ∧
        (s.node.testAt dest o.epoch = .now → Map.look (t.node.tile tile).voile slot = none ∧
          bytesAt t 0 noView dest o.len = bytes ∧ keepsOthers s t dest o.len ∧
          ∃ f, t.node.flight = s.node.flight ++ [f] ∧ f.node = none ∧ f.thr = o.thr ∧ f.ctr = o.ctr ∧ f.count = 1 ∧
            f.epoch = o.epoch) ∧
        (s.node.testAt dest o.epoch = .next → Map.look (t.node.tile tile).voile slot = some { o with arrived := true } ∧
          keepsMemory s t ∧ t.node.flight = s.node.flight) ∧
        (s.node.testAt dest o.epoch = .stale → Map.look (t.node.tile tile).voile slot = none ∧
          keepsMemory s t ∧ t.node.strStat = s.node.strStat ||| 2 ∧ t.node.flight = s.node.flight)))

/-- TILE_VERDICT: a used logical tile that has done its part of the running attempt untainted reports clean; for any other
nothing changes. SHADOW_COMPARE: once a tile and its shadow have both finished, equal digests are a match; different
ones taint the step, are recorded with the tile's number, and count against both physical tiles. For the first
mismatch of each. -/
def Obligations.TileVerdicts : Prop :=
  (∀ (s : State) (t : Nat), s.node.quiet = true →
      let ready := s.node.commit.running = true ∧ (s.node.tile t).used = true ∧ t < 4096 ∧ (s.node.tile t).tainted = false ∧
        (s.node.tile t).verdict = none ∧ tileDone s t
      (ready → exec (.tileVerdict t) s =
        .next { s with node := s.node.setTile t { s.node.tile t with verdict := some 0 } }) ∧
      (¬ready → exec (.tileVerdict t) s = .next s)) ∧
  (∀ (s : State) (lt q : Nat), s.node.quiet = true → s.node.on = true → s.node.guard.shadows.find? (·.1 == lt) = some (lt, q) →
      lt < 2304 → s.node.commit.running = true → lt ∉ s.node.guard.matched → (s.node.tile lt).tainted = false → tileDone s lt →
      (tileDone s (4096 + lt) ∨ ∃ kv ∈ (s.node.tile (4096 + lt)).thr, kv.2.wait = .halted) →
      ((s.node.tile lt).digest = (s.node.tile (4096 + lt)).digest → exec (.shadowCompare lt) s = .next { s with
        node := { s.node with guard := { s.node.guard with matched := s.node.guard.matched ++ [lt] } } }) ∧
      ((s.node.tile lt).digest ≠ (s.node.tile (4096 + lt)).digest → q ≠ s.node.physOf lt → s.node.guard.chkEvt = 0 →
        (s.node.physTile q).mism = 0 → (s.node.physTile (s.node.physOf lt)).mism = 0 →
        ∃ t, exec (.shadowCompare lt) s = .next t ∧ (t.node.physTile q).mism = 1 ∧
          (t.node.physTile (s.node.physOf lt)).mism = 1 ∧ (t.node.tile lt).tainted = true ∧
          (t.node.tile lt).verdict = some 1 ∧ t.node.commit.tainted = true ∧
          bit t.node.guard.chkEvt 63 = true ∧ fld t.node.guard.chkEvt 58 4 = 2 ∧ fld t.node.guard.chkEvt 46 12 = lt ∧
          t.node.guard.matched = s.node.guard.matched ∧ keepsMemory s t ∧ t.chip = s.chip))

/-- MODULE_VERDICT at the root of a job of one node: the verdict decides the outcome. Commit and Skip move the counts on
and make the records; Re-execute leaves the counts and the records; each begins the next attempt with the next epoch,
unless a HOLD waits; the previous record is that of the Commit before (log entry 72); Abort, and the step after which
every thread has exited, end the job. A job without buckets, mirroring or replay, whose tiles' stores are sound, with
no arrival held. MODULE_VERDICT at a leaf of the tree: the node's verdict goes to its parent at once where the channel
has credit, once for each level that it reaches. Before it can be formed, and while no attempt runs, nothing changes. -/
def Obligations.ModuleVerdicts : Prop :=
  (∀ (s : State) (o : Nat), s.node.quiet = true → s.node.commit.running = true → s.node.job.node = 0 →
      s.node.job.nnodes = 1 → s.node.commit.sent = none → s.node.commit.fwd = none → s.node.commit.kids = [] →
      decides s = some o → s.node.job.red = [] → s.node.gng.cfg = 0 → s.node.job.replay = false → s.node.held = [] →
      tilesSound s → (∀ lt, ∀ kv ∈ (s.node.tile lt).voile, kv.2.arrived = false) →
      ∃ t, exec .moduleVerdict s = .next t ∧
        ((o = 3 ∨ (o ≤ 1 ∧ everyoneExited s = true)) → t.node.job.loaded = false ∧ t.node.commit.running = false) ∧
        (o ≠ 3 → (o ≤ 1 → everyoneExited s = false) →
          t.node.commit.now = countsAfter s.node.commit.now o ∧ t.node.commit.last = o ∧
          t.node.commit.epoch = (s.node.commit.epoch + 1) % 256 ∧
          (o ≤ 1 → t.node.commit.cur = countsAfter s.node.commit.now o ∧ t.node.commit.recJob = s.node.job.id) ∧
          (o = 0 → t.node.commit.prev = s.node.commit.now) ∧ (o ≠ 0 → t.node.commit.prev = s.node.commit.prev) ∧
          (o = 2 → t.node.commit.cur = s.node.commit.cur) ∧
          t.node.commit.running = !s.node.job.holdNext ∧ (s.node.job.holdNext = true → t.node.job.held = true) ∧
          t.node.job.loaded = s.node.job.loaded ∧ t.node.job.id = s.node.job.id)) ∧
  ((∀ (s : State) (o : Nat), s.node.quiet = true → s.node.commit.running = true → s.node.job.node ≠ 0 →
      s.node.job.nnodes ≤ 16 * s.node.job.node + 1 → s.node.commit.sent = none → s.node.commit.fwd = none →
      s.node.commit.kids = [] → decides s = some o →
      let v : Msg := .verdict s.node.commit.epoch (if o = 3 then 2 else if o = 2 then 1 else 0) (decide (o = 1))
      s.node.clear (OutMsg.make ((s.node.job.node - 1) / 16) 1 0 false none v) = true →
      ∃ t m f, exec .moduleVerdict s = .next t ∧ t.node.out = s.node.out ++ [.msg m false f] ∧
        m.dst = (s.node.job.node - 1) / 16 ∧ m.vc = 1 ∧ m.msg = v ∧
        m.seq = Map.getD (s.node.peer ((s.node.job.node - 1) / 16)).sendSeq 1 0 ∧
        t.node.commit.now = s.node.commit.now ∧ t.node.commit.epoch = s.node.commit.epoch ∧
        t.node.tiles = s.node.tiles ∧ t.chip = s.chip) ∧
    (∀ s : State, s.node.quiet = true → (s.node.commit.running = false ∨ decides s = none) →
      exec .moduleVerdict s = .next s))

/-- MODULE_VERDICT at the root: a step with a non-finite mark never commits, a tainted step is never skipped, and taint
decides first, so that a tainted step with the mark is executed again and its count does not move. A first verdict, in
a job without buckets, mirroring or replay. -/
def Obligations.TaintDecidesFirst : Prop :=
  ∀ s t : State, s.node.quiet = true → s.node.commit.running = true → s.node.job.node = 0 → s.node.commit.sent = none →
    s.node.commit.fwd = none → (∀ k ∈ s.node.commit.kids, k.2.1 ≤ 2) → s.node.job.red = [] → s.node.gng.cfg = 0 →
    s.node.job.replay = false → s.node.held = [] → exec .moduleVerdict s = .next t →
    (markedNf s → t.node.commit.now.step = s.node.commit.now.step) ∧
    (¬untainted s → t.node.commit.now = s.node.commit.now) ∧
    (t.node.commit.now.skips ≠ s.node.commit.now.skips → untainted s ∧ markedNf s) ∧
    (s.node.commit.tainted = true → s.node.commit.abort = false → (∀ k ∈ s.node.commit.kids, k.2.1 ≤ 1) →
      t.node.commit.last = 2 ∧ t.node.commit.epoch = (s.node.commit.epoch + 1) % 256 ∧
      (s.node.job.holdNext = false → t.node.commit.running = true))

/-- TAPESTRY_RECORD writes the oldest record that is due at the next slot of the ring, of 1,024 × 2^SLOT_LOG2 bytes,
counts it and moves on, wrapping at SLOTS; without one due, and while the tiers are not up, nothing changes. The slot
lies in memory that is sound. -/
def Obligations.TapestryWrites : Prop :=
  (∀ s : State, s.node.quiet = true → (s.node.tps.due = [] ∨ s.tiersUp = false) → exec .tapestryRecord s = .next s) ∧
  (∀ (s : State) (d : Due) (rest : List Due), s.node.quiet = true → s.node.on = true → s.node.tps.due = d :: rest →
    let log := fld s.node.tps.cfg 4 4
    let slot := 1024 * 2 ^ (if 2 ≤ log ∧ log ≤ 10 then log else 4)
    let k := fld s.node.tps.stat 16 16
    let a := fld s.node.tps.recBase 12 36 * 4096 + k * slot
    let bs := d.bytes slot s.chip.sec.configHash
    s.node.badAddr a bs.length = none → regionsReady s a bs.length → Sound s → s.tiersUp = true →
    ∃ t, exec .tapestryRecord s = .next t ∧ bytesAt t 0 noView a bs.length = bs ∧ keepsOthers s t a bs.length ∧
      t.node.tps.due = rest ∧ fld t.node.tps.stat 32 32 = (fld s.node.tps.stat 32 32 + 1) % 2 ^ 32 ∧
      fld t.node.tps.stat 16 16 = (if k + 1 < fld s.node.tps.cfg 8 16 then k + 1 else 0) ∧ t.chip = s.chip)

/-- What the transport does with a message that is not in its turn: a closed sub-port takes nothing; a malformed frame is
counted and not answered; a message from a node without HELLO is refused with NO_PEER on the way by which it came; a
duplicate is answered with an ACK that repeats the expected sequence; the first one ahead of a gap is held and the gap
is refused with GAP. The answer's sub-port takes it at once. No tile changes. A message in its turn of another version
or of a type that version 1 does not know, of no job here, or with another job tag is accepted and refused: codes 1,
1, 3 and 3. A multicast message is refused with code 9 by a node that no group lists. The answer's sub-port takes it
at once. Every message in its turn that nothing refuses takes effect: STREAM_DATA, ACCW, DONE_REQ, DONE, PRE, GRID,
PART, REPORT, RESULT, TOKEN, VERDICT, OUTCOME, MREADY, MRELEASE, RETRACT, START, MIRROR DATA, SEAL, SEAL_ACK, RDATA,
REND, REND_ACK, PUT, GET, GET_DATA and PUT_DONE, on a switched port or behind any link header of the expected
sequence, with any credit and any mark; the pauses of the sub-ports follow. -/
def Obligations.MessagesNotApplied : Prop :=
  (∀ (i : Instr) (s : State) (h : Header) (m : Msg), messages i = some (h, m) → (∀ v up, i = .get h v up → up = []) →
      s.node.quiet = true →
      (¬portOpen s h.frame.port h.frame.sub → exec i s = .next s) ∧
      (portOpen s h.frame.port h.frame.sub →
        (¬frameFits s h.frame ∨ h.frame.link.isSome ≠ s.node.isDirect h.frame.port h.frame.sub ∨
          (h.frame.link = none ∧ ¬wellMade s h m)) →
        exec i s = .next (dropped s h.frame.port h.frame.sub)) ∧
      (wellMade s h m → ¬knows s h.src → (∀ r, s.node.wayBack h = some r → s.node.portTakes r h.vc 40 = true) →
        ∃ t f, exec i s = .next t ∧ t.node.out = s.node.out ++ [.nak h.src h.vc h.seq 8 0 f] ∧
          t.node.tiles = s.node.tiles ∧ t.chip = s.chip) ∧
      (wellSent s h m → h.grant = none → h.ce = false → (s.node.peer h.src).early = [] → h.seq < 2 ^ 32 →
        answerable s h.src h.vc → (h.seq + 2 ^ 32 - expected s h.src h.vc) % 2 ^ 32 ≠ 0 →
        (2 ^ 31 ≤ (h.seq + 2 ^ 32 - expected s h.src h.vc) % 2 ^ 32 →
          ∃ t g e f, exec i s = .next t ∧ answers s t (.ack h.src h.vc (expected s h.src h.vc) g e f) ∧
            expected t h.src h.vc = expected s h.src h.vc ∧ t.node.tiles = s.node.tiles ∧ t.chip = s.chip) ∧
        ((h.seq + 2 ^ 32 - expected s h.src h.vc) % 2 ^ 32 < 2 ^ 31 →
          ∃ t f, exec i s = .next t ∧ answers s t (.nak h.src h.vc (expected s h.src h.vc) 4 0 f) ∧
            (t.node.peer h.src).early = [(h, if h.odd then .unknown else m)] ∧
            expected t h.src h.vc = expected s h.src h.vc ∧ t.node.tiles = s.node.tiles ∧ t.chip = s.chip))) ∧
  (∀ (i : Instr) (s : State) (h : Header) (m : Msg) (code : Nat), messages i = some (h, m) →
      (∀ v up, i = .get h v up → up = []) → s.node.quiet = true →
      wellSent s h m → h.seq = expected s h.src h.vc → h.grant = none → h.ce = false → (s.node.peer h.src).early = [] →
      answerable s h.src h.vc →
      let ours := s.node.job.loaded = true ∧ h.jobtag = s.node.job.id % 2 ^ 32
      ((h.ver ≠ 1 ∧ code = 1) ∨ (h.ver = 1 ∧ h.odd = true ∧ (ours → h.mc = true → s.node.inSomeGroup = true) ∧ code = 1) ∨
        (h.ver = 1 ∧ h.odd = false ∧ ¬ours ∧ code = 3) ∨
        (h.ver = 1 ∧ ours ∧ h.mc = true ∧ s.node.inSomeGroup = false ∧ code = 9)) →
      ∃ t f, exec i s = .next t ∧ took t h ∧ answers s t (.nak h.src h.vc h.seq code 0 f) ∧
        t.node.tiles = s.node.tiles ∧ keepsMemory s t ∧ t.chip = s.chip) ∧
  (∀ (i : Instr) (s : State) (h : Header) (m : Msg), messages i = some (h, m) → (∀ v up, i = .get h v up → up = []) →
      portOpen s h.frame.port h.frame.sub → frameFits s h.frame → (s.node.linkTake h.frame).1 = true →
      let k := (s.node.linkTake h.frame).2
      let n := taking k h
      (∃ vc, channel m = some vc ∧ headFits s h vc (reduces m)) → knows { s with node := k } h.src →
      h.odd = false → h.ver = 1 → n.job.loaded = true → h.jobtag = n.job.id % 2 ^ 32 →
      (h.mc = true → n.inSomeGroup = true) → (n.peer h.src).early = [] →
      h.seq = expected { s with node := (k.takeGrant h.src h.grant).takeMark h } h.src h.vc →
      (n.msgEffect s.chip.hwk h m).2 = none →
      exec i s = .next (settle { s with
        node := (n.msgEffect s.chip.hwk h m).1.pfcAll }))

/-- STREAM messages of the destination's epoch, for memory behind no link that is down and in no tile in a reset: DATA
writes its bits, ACCW adds each entry into its record, DONE_REQ adds its token and is answered with DONE, DONE settles
what its arming owes the sender. -/
def Obligations.StreamMessages : Prop :=
  (∀ (s : State) (h : Header) (addr epoch fbit lbit : Nat) (data : List Byte),
    inTurn s h (.streamData addr epoch fbit lbit data) → s.node.testAt addr epoch = .now → reachable s addr data.length →
    fbit < 8 → lbit < 8 → fbit < 8 * data.length - (7 - lbit) →
    ∃ t, exec (.streamData h addr epoch fbit lbit data) s = .next t ∧ took t h ∧ t.chip = s.chip ∧
      landed s t noView [{ bit := 8 * addr + fbit, w := 8 * data.length - (7 - lbit) - fbit, v := leNat data / 2 ^ fbit
                           poison := false }]) ∧
  (∀ (s : State) (h : Header) (epoch : Nat) (entries : List AccEntry), inTurn s h (.accw epoch entries) →
    epoch = s.node.commit.epoch → (∀ e ∈ entries, reachable s e.addr 96) →
    entries.Pairwise (fun a b => a.addr + 96 ≤ b.addr ∨ b.addr + 96 ≤ a.addr) →
    ∃ t, exec (.accw h epoch entries) s = .next t ∧ took t h ∧ t.chip = s.chip ∧
      (∀ e ∈ entries, bytesAt t 0 noView e.addr 96 =
        ((cellOf (bytesAt s s.node.free noView e.addr 96)).take (cellEntry (cellOf e.cell))).1.record) ∧
      ∀ f v b, (∀ e ∈ entries, b < e.addr ∨ e.addr + 96 ≤ b) → byteAt t f v b = byteAt s f v b) ∧
  (∀ (s : State) (h : Header) (addr epoch : Nat) (cthr cctr : Fin 8) (token : Bool),
    inTurn s h (.doneReq addr epoch cthr cctr token) → s.node.testAt addr epoch = .now →
    (∀ lt, calm s lt) →
    ∃ t, exec (.doneReq h addr epoch cthr cctr token) s = .next t ∧ took t h ∧ keepsMemory s t ∧
      replied s t h.src 3 h.ctx (.done addr epoch) ∧
      (∀ lt off, s.node.place addr = .sram lt off → token = true → counted s t lt cthr cctr 1)) ∧
  (∀ (s : State) (h : Header) (addr epoch : Nat) (x : Ctx), inTurn s h (.done addr epoch) → s.node.ctx h.ctx = some x →
    (∃ d, s.node.ctxDesc x = some d ∧ addr = ((s.node.armDesc d).write1 x.arm.par).base) → epoch = x.arm.epoch →
    h.src ∈ x.asked →
    ∃ t, exec (.done h addr epoch) s = .next t ∧ took t h ∧ keepsMemory s t ∧ t.chip = s.chip ∧
      t.node.ctx h.ctx = some { x with todo := x.todo.filter (· ≠ h.src) } ∧
      ∀ c, c ≠ h.ctx → t.node.ctx c = s.node.ctx c)

/-- REDUCE messages of the attempt's epoch that their bucket expects, before it has filled: PRE and GRID hold their
entries, PART adds its blocks to the records and counts a contribution to each, REPORT writes the predictions, and
RESULT is written over this member's records and completes the bucket. For a bucket that has started see
`MessagesTakeEffect`. -/
def Obligations.ReduceMessages : Prop :=
  (∀ (s : State) (h : Header) (first epoch : Nat) (es : List (BitVec 16)) (r : RedEnt), inTurn s h (.pre first epoch es) →
    s.node.redEnt h.ctx = some r → epoch = s.node.commit.epoch → s.node.redRefused h.ctx 1 h.src first es.length = false →
    (s.node.redCtx h.ctx).started = false →
    ∃ t, exec (.pre h first epoch es) s = .next t ∧ took t h ∧ keepsMemory s t ∧ t.chip = s.chip ∧
      t.node.redCtx h.ctx = { s.node.redCtx h.ctx with
        preIn := (s.node.redCtx h.ctx).preIn ++ [(r.members.idxOf h.src, first, es)] }) ∧
  (∀ (s : State) (h : Header) (first epoch : Nat) (es : List (BitVec 16)) (r : RedEnt), inTurn s h (.grid first epoch es) →
    s.node.redEnt h.ctx = some r → epoch = s.node.commit.epoch → s.node.redRefused h.ctx 2 h.src first es.length = false →
    (s.node.redCtx h.ctx).started = false →
    ∃ t, exec (.grid h first epoch es) s = .next t ∧ took t h ∧ keepsMemory s t ∧ t.chip = s.chip ∧
      t.node.redCtx h.ctx = { s.node.redCtx h.ctx with gridIn := (s.node.redCtx h.ctx).gridIn ++ [(first, es)] }) ∧
  (∀ (s : State) (h : Header) (first epoch : Nat) (blocks : List TBlock) (r : RedEnt), inTurn s h (.part first epoch blocks) →
    s.node.redEnt h.ctx = some r → epoch = s.node.commit.epoch →
    s.node.redRefused h.ctx 3 h.src first blocks.length = false → (s.node.redCtx h.ctx).started = false →
    s.node.residueMode = true → (∀ b ∈ blocks, b.form = 0 ∨ b.form = 5) →
    ∃ t, exec (.part h first epoch blocks) s = .next t ∧ took t h ∧ keepsMemory s t ∧ t.chip = s.chip ∧
      (∀ k, k < blocks.length → Map.getD (t.node.redCtx h.ctx).got (first + k) 0 =
        Map.getD (s.node.redCtx h.ctx).got (first + k) 0 + 1) ∧
      (∀ k b, blocks[k]? = some b → b.form = 5 → Map.getD (t.node.redCtx h.ctx).inNf (first + k) 0 =
        Map.getD (s.node.redCtx h.ctx).inNf (first + k) 0 ||| b.side) ∧
      (∀ x, h.res = some x → x % (2 ^ 61 - 1) ≠ 0 → (t.node.redCtx h.ctx).resfail = true ∧ t.node.commit.tainted = true)) ∧
  (∀ (s : State) (h : Header) (first epoch : Nat) (b : TBlock) (r : RedEnt), inTurn s h (.part first epoch [b]) →
    s.node.redEnt h.ctx = some r → epoch = s.node.commit.epoch → s.node.redRefused h.ctx 3 h.src first 1 = false →
    (s.node.redCtx h.ctx).started = false → s.node.residueMode = true → 1 ≤ b.form → b.form ≤ 4 →
    s.node.badAddr (r.recAddr first 0) 6144 = none → regionsReady s (r.recAddr first 0) 6144 →
    s.node.badAddr (r.resAddr first) 8 = none → regionsReady s (r.resAddr first) 8 →
    (r.resAddr first + 8 ≤ r.recAddr first 0 ∨ r.recAddr first 0 + 6144 ≤ r.resAddr first) →
    Sound s →
    (∀ e, e < 64 → |(s.node.recAt (r.recAddr first e)).val + b.els.getD e 0 * 2 ^ (8 * b.lsb8)| < 2 ^ 639) →
    ∃ t, exec (.part h first epoch [b]) s = .next t ∧ took t h ∧ t.chip = s.chip ∧
      (∀ e, e < 64 → (t.node.recAt (r.recAddr first e)).val =
        (s.node.recAt (r.recAddr first e)).val + b.els.getD e 0 * 2 ^ (8 * b.lsb8)) ∧
      Map.getD (t.node.redCtx h.ctx).got first 0 = Map.getD (s.node.redCtx h.ctx).got first 0 + 1) ∧
  (∀ (s : State) (h : Header) (first epoch : Nat) (es : List (BitVec 16)) (r : RedEnt), inTurn s h (.report first epoch es) →
    s.node.redEnt h.ctx = some r → epoch = s.node.commit.epoch → s.node.redRefused h.ctx 4 h.src first es.length = false →
    (s.node.redCtx h.ctx).started = false → s.node.badAddr (r.predB + 2 * first) (2 * es.length) = none →
    regionsReady s (r.predB + 2 * first) (2 * es.length) → Sound s →
    ∃ t, exec (.report h first epoch es) s = .next t ∧ took t h ∧ t.chip = s.chip ∧
      (∀ k, k < es.length → numberAt t 0 noView (r.predB + 2 * (first + k)) 2 = (es.getD k 0).toNat) ∧
      keepsOthers s t (r.predB + 2 * first) (2 * es.length) ∧
      (t.node.redCtx h.ctx).repIn = (s.node.redCtx h.ctx).repIn ++ [(first, es.length)]) ∧
  (∀ (s : State) (h : Header) (first epoch : Nat) (r : RedEnt) (b : TBlock), inTurn s h (.result first epoch [b]) →
    s.node.redEnt h.ctx = some r → epoch = s.node.commit.epoch → s.node.redRefused h.ctx 5 h.src first 1 = false →
    s.node.residueMode = true → Sound s →
    ∃ t, exec (.result h first epoch [b]) s = .next t ∧ took t h ∧ t.chip = s.chip ∧
      (t.node.redCtx h.ctx).complete = true ∧
      (s.node.place (r.recAddr first 0) = .gddr → s.node.place (r.recAddr first 0 + 6143) = .gddr →
        (b.form = 0 → ∀ k, k < 6144 → byteAt t 0 noView (r.recAddr first 0 + k) = 0) ∧
        (1 ≤ b.form → b.form ≤ 4 → (∀ e, e < 64 → |b.els.getD e 0 * 2 ^ (8 * b.lsb8)| < 2 ^ 639) →
          (r.resAddr first + 8 ≤ r.recAddr first 0 ∨ r.recAddr first 0 + 6144 ≤ r.resAddr first) →
          ∀ e, e < 64 → (t.node.recAt (r.recAddr first e)).val = b.els.getD e 0 * 2 ^ (8 * b.lsb8))) ∧
      (b.form = 5 → (t.node.redCtx h.ctx).nf = true) ∧
      (r.notok = true → t.node.flight = s.node.flight) ∧
      (r.notok = false → ∃ f, t.node.flight = s.node.flight ++ [f] ∧ f.lt = r.tokLt ∧ f.thr = r.tokThr ∧ f.ctr = r.tokCtr ∧
        f.count = 1 ∧ f.epoch = s.node.commit.epoch))

/-- CTRL messages: a TOKEN of the thread's epoch is counted, a RETRACT token taints its tile, and a child's VERDICT joins
the combination: a clean one waits for the others, a tainted or Abort one goes up at once, or at the root decides Re-
execute or Abort, which goes to the child. The parent's OUTCOME is applied, with the previous record that of the
Commit before (log entry 72). MREADY of the present count is noted; the last one that the node waits for sends its own
up, or at the root MRELEASE down, and a node that holds MRELEASE answers with it (log entry 73). MRELEASE is noted,
and START begins an attempt with its epoch. No LAUNCH and no START waits (quiet; what comes behind one that waits,
waits too: log entry 43). -/
def Obligations.ControlMessages : Prop :=
  (∀ (s : State) (h : Header) (lt : Nat) (thr ctr : Fin 8) (count epoch : Nat), inTurn s h (.token lt thr ctr count epoch) →
    (s.node.tile lt).used = true → (s.node.tile lt).test epoch = .now → calm s lt → lt < 2304 →
    ∃ t, exec (.token h lt thr ctr count epoch) s = .next t ∧ took t h ∧ keepsMemory s t ∧ t.chip = s.chip ∧
      counted s t lt thr ctr count) ∧
  (∀ (s : State) (h : Header) (lt srcLt reason : Nat) (hw : Bool) (epoch : Nat),
    inTurn s h (.retract lt srcLt reason hw epoch) → (s.node.tile lt).test epoch = .now →
    ∃ t, exec (.retractToken h lt srcLt reason hw epoch) s = .next t ∧ took t h ∧ keepsMemory s t ∧ t.chip = s.chip ∧
      (t.node.tile lt).tainted = true ∧ (t.node.tile lt).verdict ≠ none ∧
      t.node.commit.tainted = (s.node.commit.tainted || s.node.commit.running)) ∧
  (∀ (s : State) (h : Header) (epoch v : Nat) (nf : Bool), inTurn s h (.verdict epoch v nf) →
    (s.node.commit.running = true → s.node.commit.tainted = false ∧ s.node.commit.abort = false) →
    s.node.children.contains h.src = true → epoch = s.node.commit.epoch → v = 0 →
    Map.look s.node.commit.kids h.src = none → s.node.commit.sent = none →
    (∀ kv ∈ s.node.commit.kids, kv.2.1 = 0) →
    ∃ t, exec (.verdict h epoch v nf) s = .next t ∧ took t h ∧ keepsMemory s t ∧ t.chip = s.chip ∧
      Map.look t.node.commit.kids h.src = some (0, nf) ∧ t.node.commit.now = s.node.commit.now ∧
      t.node.tiles = s.node.tiles) ∧
  (∀ (s : State) (h : Header) (epoch v : Nat) (nf : Bool), inTurn s h (.verdict epoch v nf) → awaitsKids s →
    s.node.children.contains h.src = true → epoch = s.node.commit.epoch → (v = 1 ∨ v = 2) →
    Map.look s.node.commit.kids h.src = none →
    (s.node.commit.running = false → ∃ t, exec (.verdict h epoch v nf) s = .next t ∧ took t h ∧ keepsMemory s t ∧
      t.chip = s.chip ∧ Map.look t.node.commit.kids h.src = some (v, nf) ∧ t.node.commit.now = s.node.commit.now ∧
      t.node.tiles = s.node.tiles) ∧
    (s.node.commit.running = true → s.node.commit.fwd = none → s.node.job.node ≠ 0 →
      ∃ t, exec (.verdict h epoch v nf) s = .next t ∧ took t h ∧ keepsMemory s t ∧ t.chip = s.chip ∧
        Map.look t.node.commit.kids h.src = some (v, nf) ∧ t.node.commit.fwd = some (v, false) ∧ t.node.tiles = s.node.tiles ∧
        replied s t ((s.node.job.node - 1) / 16) 1 0 (.verdict epoch v false)) ∧
    (s.node.commit.running = true → s.node.commit.fwd = none → s.node.job.node = 0 → bare s →
      ∃ t, exec (.verdict h epoch v nf) s = .next t ∧ took t h ∧
        (v = 2 → t.node.job.loaded = false ∧ t.node.commit.running = false) ∧
        (v = 1 → t.node.commit.now = s.node.commit.now ∧ t.node.commit.cur = s.node.commit.cur ∧
          t.node.commit.prev = s.node.commit.prev ∧ t.node.commit.last = 2 ∧
          t.node.commit.epoch = (s.node.commit.epoch + 1) % 256) ∧
        (s.node.commit.readySent = true → s.node.children = [h.src] →
          s.node.clear (OutMsg.make h.src 1 0 false none (.outcome epoch (v + 1))) = true →
          ∃ m f, .msg m false f ∈ t.node.out ∧ m.dst = h.src ∧ m.vc = 1 ∧ m.msg = .outcome epoch (v + 1)))) ∧
  (∀ (s : State) (h : Header) (epoch o : Nat), inTurn s h (.outcome epoch o) → s.node.job.started = true →
    s.node.job.node ≠ 0 → h.src = (s.node.job.node - 1) / 16 → epoch = s.node.commit.epoch → o ≤ 3 →
    s.node.job.red = [] → s.node.gng.cfg = 0 → s.node.job.replay = false → s.node.held = [] → tilesSound s →
    (∀ lt, ∀ kv ∈ (s.node.tile lt).voile, kv.2.arrived = false) →
    ∃ t, exec (.outcome h epoch o) s = .next t ∧ took t h ∧
      ((o = 3 ∨ (o ≤ 1 ∧ everyoneExited s = true)) → t.node.job.loaded = false ∧ t.node.commit.running = false) ∧
      (o ≠ 3 → (o ≤ 1 → everyoneExited s = false) → t.node.commit.now = countsAfter s.node.commit.now o ∧
        t.node.commit.epoch = (s.node.commit.epoch + 1) % 256 ∧ t.node.commit.last = o ∧
        (o ≤ 1 → t.node.commit.cur = countsAfter s.node.commit.now o) ∧
        (o = 0 → t.node.commit.prev = s.node.commit.now) ∧ (o ≠ 0 → t.node.commit.prev = s.node.commit.prev))) ∧
  (∀ (s : State) (h : Header) (epoch count : Nat), inTurn s h (.mready epoch count) →
    s.node.children.contains h.src = true → count = s.node.commit.now.step.toNat % 2 ^ 32 →
    (s.node.commit.released = true ∨ s.node.job.started = false ∨ s.node.commit.readySent = true) →
    ∃ t, exec (.mready h epoch count) s = .next t ∧ took t h ∧ keepsMemory s t ∧ t.chip = s.chip ∧
      t.node.commit.kidsReady = insertNew h.src s.node.commit.kidsReady ∧
      (s.node.commit.released = true → replied s t h.src 1 0 (.mrelease s.node.commit.epoch count))) ∧
  (∀ (s : State) (h : Header) (epoch count : Nat), inTurn s h (.mready epoch count) →
    s.node.children.contains h.src = true → count = s.node.commit.now.step.toNat % 2 ^ 32 →
    s.node.commit.released = false → s.node.job.started = true → s.node.commit.readySent = false → s.node.selfReady = true →
    (∀ d ∈ s.node.children, d = h.src ∨ d ∈ s.node.commit.kidsReady) →
    (s.node.job.node ≠ 0 → ∃ t, exec (.mready h epoch count) s = .next t ∧ took t h ∧ keepsMemory s t ∧ t.chip = s.chip ∧
      t.node.commit.readySent = true ∧ t.node.commit.released = false ∧
      replied s t ((s.node.job.node - 1) / 16) 1 0 (.mready s.node.commit.epoch count)) ∧
    (s.node.job.node = 0 → s.node.job.red = [] → s.node.job.release = [] →
      ∃ t, exec (.mready h epoch count) s = .next t ∧ took t h ∧ keepsMemory s t ∧ t.chip = s.chip ∧
        t.node.commit.readySent = true ∧ t.node.commit.released = true ∧
        (s.node.children = [h.src] → replied s t h.src 1 0 (.mrelease s.node.commit.epoch count)))) ∧
  (∀ (s : State) (h : Header) (epoch count : Nat), inTurn s h (.mrelease epoch count) → s.node.job.node ≠ 0 →
    h.src = (s.node.job.node - 1) / 16 → count = s.node.commit.now.step.toNat % 2 ^ 32 →
    s.node.commit.released = false → s.node.job.red = [] → s.node.job.release = [] →
    (∀ kv ∈ s.node.tiles, kv.2.sameIv = false) →
    ∃ t, exec (.mrelease h epoch count) s = .next t ∧ took t h ∧ keepsMemory s t ∧ t.chip = s.chip ∧
      t.node.commit.released = true ∧ t.node.tiles = s.node.tiles) ∧
  (∀ (s : State) (h : Header) (count epoch : Nat), inTurn s h (.start count epoch) → s.node.asleep = false →
    (s.node.job.started = false ∨ s.node.job.held = true) → count = s.node.commit.now.step.toNat % 2 ^ 32 →
    s.node.job.node ≠ 0 → s.node.job.red = [] → s.node.job.release = [] → s.node.held = [] → Sound s → tilesSound s →
    (∀ lt, ∀ kv ∈ (s.node.tile lt).voile, kv.2.arrived = false) →
    ∃ t, exec (.ctrlStart h count epoch) s = .next t ∧ took t h ∧ t.node.job.started = true ∧ t.node.job.held = false ∧
      t.node.commit.running = true ∧ t.node.commit.epoch = epoch ∧ t.node.commit.now = s.node.commit.now ∧
      ∀ lt i, lt < 4096 → (s.node.tile lt).used = true → (t.node.thread lt i).hasCode = true →
        (t.node.thread lt i).getS 1 = s.node.commit.now.step)

/-- MIRROR messages: DATA lies in its slot with the slot's seal record cleared by the first; SEAL writes the seal record
and is answered; SEAL_ACK of the slot being mirrored seals it; RDATA begins a restore; REND of the job's count ends it
and is answered; REND_ACK ends a push. -/
def Obligations.MirrorMessages : Prop :=
  (∀ (s : State) (h : Header) (slot offset : Nat) (data : List Byte), inTurn s h (.mirrorData slot offset data) →
    let base := fld s.node.gng.inbase 20 28 * 2 ^ 20 + slot * (fld s.node.gng.cfg 24 20 * 2 ^ 20)
    64 ≤ offset → 0 < data.length → offset + data.length ≤ fld s.node.gng.cfg 24 20 * 2 ^ 20 →
    plain s (base + offset) data.length → plain s base 64 → slot ∉ s.node.gng.fresh →
    ∃ t, exec (.mirrorData h slot offset data) s = .next t ∧ took t h ∧ t.chip = s.chip ∧
      bytesAt t 0 noView (base + offset) data.length = data ∧ (∀ k, k < 64 → byteAt t 0 noView (base + k) = 0) ∧
      t.node.gng.fresh = s.node.gng.fresh ++ [slot] ∧
      ∀ f v b, (b < base ∨ base + 64 ≤ b) → (b < base + offset ∨ base + offset + data.length ≤ b) →
        byteAt t f v b = byteAt s f v b) ∧
  (∀ (s : State) (h : Header) (slot : Nat) (r : SealRec), inTurn s h (.seal slot r) →
    let base := fld s.node.gng.inbase 20 28 * 2 ^ 20 + slot * (fld s.node.gng.cfg 24 20 * 2 ^ 20)
    plain s base 64 →
    ∃ t, exec (.seal h slot r) s = .next t ∧ took t h ∧ t.chip = s.chip ∧
      numberAt t 0 noView base 8 = r.job % 2 ^ 64 ∧ numberAt t 0 noView (base + 8) 8 = r.step % 2 ^ 64 ∧
      numberAt t 0 noView (base + 16) 8 = r.skips % 2 ^ 64 ∧ numberAt t 0 noView (base + 24) 8 = r.cursor % 2 ^ 64 ∧
      numberAt t 0 noView (base + 32) 32 = 0 ∧ keepsOthers s t base 64 ∧ replied s t h.src 3 0 (.sealAck slot)) ∧
  (∀ (s : State) (h : Header) (slot : Nat), inTurn s h (.sealAck slot) → h.src = fld s.node.gng.cfg 12 12 →
    slot = s.node.gng.slot → (s.node.gng.state = 1 ∨ s.node.gng.state = 4) →
    (s.node.job.started = false ∨ s.node.commit.readySent = true) →
    ∃ t, exec (.sealAck h slot) s = .next t ∧ took t h ∧ keepsMemory s t ∧ t.chip = s.chip ∧ t.node.gng.state = 2 ∧
      t.node.commit.sealed = true) ∧
  (∀ (s : State) (h : Header) (slot offset : Nat) (data : List Byte), inTurn s h (.rdata slot offset data) →
    offset + data.length ≤ fld s.node.gng.cfg 24 20 * 2 ^ 20 →
    (s.node.job.mirror = [] → ∃ t, exec (.rdata h slot offset data) s = .next t ∧ took t h ∧ keepsMemory s t ∧
      t.chip = s.chip ∧ t.node.gng.state = 3) ∧
    (∀ b0 b1 len, s.node.job.mirror = [(b0, b1, len, offset)] → len = data.length → 0 < len →
      let dest := if s.node.commit.now.step.toNat % 2 = 0 then b0 else b1
      plain s dest len →
      ∃ t, exec (.rdata h slot offset data) s = .next t ∧ took t h ∧ t.chip = s.chip ∧ t.node.gng.state = 3 ∧
        bytesAt t 0 noView dest len = data ∧ keepsOthers s t dest len)) ∧
  (∀ (s : State) (h : Header) (slot : Nat) (r : SealRec), inTurn s h (.rend slot r) → r.job = s.node.job.id →
    r.step = s.node.commit.now.step.toNat →
    ∃ t, exec (.rend h slot r) s = .next t ∧ took t h ∧ keepsMemory s t ∧ t.chip = s.chip ∧ t.node.gng.state = 0 ∧
      replied s t h.src 3 0 (.rendAck slot)) ∧
  (∀ (s : State) (h : Header) (slot : Nat), inTurn s h (.rendAck slot) → s.node.gng.state = 3 →
    ∃ t, exec (.rendAck h slot) s = .next t ∧ took t h ∧ keepsMemory s t ∧ t.chip = s.chip ∧ t.node.gng.state = 0)

/-- VOILE messages: a PUT of the destination's epoch writes its bytes, adds the token where they lie in tile SRAM and is
answered; a GET is answered with the bytes; GET_DATA lands at the local offset of the operation that asked and
PUT_DONE retires the put, each with its token. What they access lies behind no link that is down and in no tile in a
reset, which holds GET_DATA. GET reads what silicon has changed before it. -/
def Obligations.VoileMessages : Prop :=
  (∀ (s : State) (h : Header) (v : VoileHdr) (data : List Byte), inTurn s h (.put v data) →
    s.node.testAt v.addr v.epoch = .now → reachable s v.addr data.length → 0 < data.length → (∀ lt, calm s lt) →
    ∃ t, exec (.put h v data) s = .next t ∧ took t h ∧ t.chip = s.chip ∧ bytesAt t 0 noView v.addr data.length = data ∧
      keepsOthers s t v.addr data.length ∧ replied s t h.src 3 0 (.putDone v) ∧
      (∀ lt off, s.node.place v.addr = .sram lt off → counted s t lt v.thr v.ctr 1)) ∧
  (∀ (s₀ : State) (h : Header) (v : VoileHdr) (up : List Upset),
    let s := struck s₀ up
    inTurn s h (.get v) → s.node.testAt v.addr v.epoch = .now →
    s.node.badAddr v.addr v.len = none → s.node.stalledRange v.addr v.len = false → readable s noView (wordsOf v.addr v.len) →
    ∃ t, exec (.get h v up) s₀ = .next t ∧ took t h ∧ t.chip = s.chip ∧ keepsMemory s t ∧
      replied s t h.src 3 0 (.getData v (bytesAt s s.node.free noView v.addr v.len))) ∧
  (∀ (s : State) (h : Header) (v : VoileHdr) (data : List Byte) (o : VoileOp), inTurn s h (.getData v data) →
    Map.look (s.node.tile v.srcLt).voile v.tag = some o → o.node = some h.src → v.epoch = (s.node.tile v.srcLt).epoch →
    v.srcLt < 2304 → s.node.backed v.srcLt = true → o.local_ + o.len ≤ 2 ^ 19 → data.length = o.len → 0 < o.len →
    Sound s → (∀ f ∈ s.node.flight, f.node = none) → (s.node.tile v.srcLt).inRst = false →
    ∃ t, exec (.getData h v data) s = .next t ∧ took t h ∧ t.chip = s.chip ∧
      bytesAt t 0 noView (sramAddr v.srcLt o.local_) o.len = data ∧ keepsOthers s t (sramAddr v.srcLt o.local_) o.len ∧
      Map.look (t.node.tile v.srcLt).voile v.tag = none ∧
      ∃ f, t.node.flight = s.node.flight ++ [f] ∧ f.lt = v.srcLt ∧ f.thr = o.thr ∧ f.ctr = o.ctr ∧ f.count = 1) ∧
  (∀ (s : State) (h : Header) (v : VoileHdr) (data : List Byte), inTurn s h (.getData v data) →
    (s.node.tile v.srcLt).inRst = true →
    ∃ t, exec (.getData h v data) s = .next t ∧ took t h ∧ t.chip = s.chip ∧ t.node.tiles = s.node.tiles ∧
      t.node.held = s.node.held ++ [(h, .getData v data)]) ∧
  (∀ (s : State) (h : Header) (v : VoileHdr) (o : VoileOp), inTurn s h (.putDone v) →
    Map.look (s.node.tile v.srcLt).voile v.tag = some o → o.node = some h.src → v.srcLt < 2304 →
    (∀ f ∈ s.node.flight, f.node = none) →
    ∃ t, exec (.putDone h v) s = .next t ∧ took t h ∧ t.chip = s.chip ∧ keepsMemory s t ∧
      Map.look (t.node.tile v.srcLt).voile v.tag = none ∧
      ((Config.sramBase ≤ o.addr ∧ o.addr < Config.regBase) → t.node.flight = s.node.flight) ∧
      (¬(Config.sramBase ≤ o.addr ∧ o.addr < Config.regBase) →
        ∃ f, t.node.flight = s.node.flight ++ [f] ∧ f.lt = v.srcLt ∧ f.thr = o.thr ∧ f.ctr = o.ctr ∧ f.count = 1))

/-- HELLO: a request under the same session is noted on every route by which it came (a shared address counts for each:
the model's reading, log entry 74) and answered there, where the ports take the answer at once; a reply is noted. A
route that has carried both in both directions becomes usable, and the first to do so starts the sequences at zero and
takes the credits offered. Another session resets the peer: what was unacknowledged goes and the step is tainted.
Another version is refused; a malformed frame, and one that does not name its sender, is counted: R353 says that NODE
equals SRC, and that a HELLO with another NODE is discarded and counted is the model's inference (log entry 74). ACK
frees the messages that it covers and, with ECE while ECN is 1, cuts the sender's rate to 7/8, once in 50 µs and not
below 1/64; ECN_RATE_RAISE lifts it by 1/64 of the port rate, up to the port rate. An ACK or NAK of another version is
refused with NAK VERSION, which names channel and sequence 0 (the model's choice, log entry 101). ACK_DUE sends the
ACK of a channel that has accepted messages where its route takes it at once; without a usable route it stays due. No
stream or bucket of the node waits for the ACK. -/
def Obligations.SessionsAndAcks : Prop :=
  ((∀ (s : State) (h : Header) (b : HelloBody) (rm : HelloRoom), helloFits s h b → noneWaits s →
      (b.reply = false → hailable s h.src) → ((s.node.peer h.src).session = none ∨ (s.node.peer h.src).session = some b.session) →
      (nothingWaits s ∨ ∀ i ∈ cameBy s h,
        i ∉ (if b.reply then (s.node.peer h.src).reqSeen else (s.node.peer h.src).repSeen)) →
      ∃ t, exec (.hello h b rm) s = .next t ∧ t.chip = s.chip ∧ t.node.tiles = s.node.tiles ∧
        (t.node.peer h.src).session = some b.session ∧
        ∀ i ∈ cameBy s h,
          (b.reply = false → i ∈ (t.node.peer h.src).reqSeen ∧ greeted s t h.src i true) ∧
          (b.reply = true → i ∈ (t.node.peer h.src).repSeen ∧ t.node.out = s.node.out) ∧
          (i ∈ (t.node.peer h.src).reqSeen → i ∈ (t.node.peer h.src).repSeen → i ∉ (s.node.peer h.src).usable →
            i ∈ (t.node.peer h.src).usable ∧ ((s.node.peer h.src).limit = [] →
              (t.node.peer h.src).sendSeq = [] ∧ (t.node.peer h.src).nextAcc = [] ∧
              ∀ v, v < 8 → Map.getD (t.node.peer h.src).limit v 0 = rm.credits.getD v 0))) ∧
    (∀ (s : State) (h : Header) (b : HelloBody) (rm : HelloRoom) (k : Nat), helloFits s h b → noneWaits s →
      (s.node.peer h.src).session = some k → k ≠ b.session → s.node.peerEvt = 0 →
      ∃ t, exec (.hello h b rm) s = .next t ∧ t.chip = s.chip ∧ (t.node.peer h.src).session = some b.session ∧
        (t.node.peer h.src).unacked = [] ∧ (t.node.peer h.src).usable = [] ∧ t.node.commit.tainted = true ∧
        bit t.node.peerEvt 63 = true ∧ fld t.node.peerEvt 52 4 = 3 ∧ fld t.node.peerEvt 28 12 = h.src % 4096 ∧
        keepsMemory s t) ∧
    (∀ (s : State) (h : Header) (b : HelloBody) (rm : HelloRoom), s.node.quiet = true → wellFramed s h 0 false → b.node = h.src →
      (b.vermask.testBit 1 = false ∨ h.ver ≠ 1) → refusable s h 0 →
      ∃ t f, exec (.hello h b rm) s = .next t ∧ t.node.out = s.node.out ++ [.nak h.src 0 0 1 0 f] ∧
        t.node.tiles = s.node.tiles ∧ (t.node.peer h.src).session = (s.node.peer h.src).session ∧ t.chip = s.chip) ∧
    (∀ (s : State) (h : Header) (b : HelloBody) (rm : HelloRoom), s.node.quiet = true →
      (¬portOpen s h.frame.port h.frame.sub → exec (.hello h b rm) s = .next s) ∧
      (portOpen s h.frame.port h.frame.sub →
        (¬frameFits s h.frame ∨ h.frame.link.isSome ≠ s.node.isDirect h.frame.port h.frame.sub ∨
          (h.frame.link = none ∧ (¬headFits s h 0 false ∨ b.node ≠ h.src))) →
        exec (.hello h b rm) s = .next (dropped s h.frame.port h.frame.sub))) ∧
    (∀ (s : State) (d i : Nat) (r : Route), s.node.quiet = true → i ∉ (s.node.peer d).repSeen →
      (s.node.routes d)[i]? = some r → portOpen s r.port r.sub → s.node.portTakes r 0 104 = true →
      ∃ t, exec (.helloRepeat d i) s = .next t ∧ greeted s t d i false ∧ t.node.tiles = s.node.tiles ∧
        t.node.peers = s.node.peers ∧ t.chip = s.chip)) ∧
  ((∀ (s : State) (h : Header) (seq vc : Nat) (ece : Bool), s.node.quiet = true → wellFramed s h vc false →
      h.ver = 1 → knows s h.src → h.grant = none → h.ce = false → s.node.ctxs = [] → s.node.job.red = [] →
      ∃ t, exec (.ack h seq vc ece) s = .next t ∧
        (t.node.peer h.src).unacked = (s.node.peer h.src).unacked.filter (fun m => !covered vc seq m) ∧
        (ece = true → bit s.node.tshCfg 2 = true → (s.node.peer h.src).cut = false → (t.node.peer h.src).cut = true ∧
          (t.node.peer h.src).rate = Max.max ((s.node.peer h.src).rate * (7 / 8)) (1 / 64)) ∧
        ((ece = false ∨ bit s.node.tshCfg 2 = false ∨ (s.node.peer h.src).cut = true) →
          (t.node.peer h.src).rate = (s.node.peer h.src).rate) ∧
        t.node.out = s.node.out ∧ t.node.tiles = s.node.tiles ∧ t.chip = s.chip) ∧
    (∀ (i : Instr) (s : State) (h : Header) (vc : Nat),
      ((∃ seq ece, i = .ack h seq vc ece) ∨ (∃ seq code detail, i = .nak h seq vc code detail)) → s.node.quiet = true →
      wellFramed s h vc false → h.ver ≠ 1 → refusable s h 0 →
      ∃ t f, exec i s = .next t ∧ t.node.out = s.node.out ++ [.nak h.src 0 0 1 0 f] ∧ t.node.peers = s.node.peers ∧
        t.node.tiles = s.node.tiles ∧ t.chip = s.chip) ∧
    (∀ (s : State) (d : Nat), s.node.quiet = true →
      exec (.ecnRateRaise d) s = .next { s with node := s.node.setPeer d { s.node.peer d with
        cut := false, rate := Min.min 1 ((s.node.peer d).rate + 1 / 64) } }) ∧
    (∀ (s : State) (d vc : Nat), s.node.quiet = true → s.node.on = true → vc ∈ (s.node.peer d).ackDue →
      (answerable s d vc → ∃ t g f, exec (.ackDue d vc) s = .next t ∧
        t.node.out = s.node.out ++ [.ack d vc (expected s d vc) g ((s.node.peer d).eceDue.contains vc) f] ∧
        vc ∉ (t.node.peer d).ackDue ∧ Map.getD (t.node.peer d).granted vc 0 = g ∧ t.node.tiles = s.node.tiles ∧
        t.chip = s.chip) ∧
      ((s.node.routeFor d 0).isSome = false → ∃ t, exec (.ackDue d vc) s = .next t ∧ t.node.out = s.node.out ∧
        vc ∈ (t.node.peer d).ackDue ∧ t.node.tiles = s.node.tiles ∧ t.chip = s.chip)))

/-- A kept message whose NAK reports a gap, or that goes without an ACK for its timeout, is sent again with RETX and the
same sequence where its route takes it; its sixteenth transmission without an ACK reports the peer once. NAK with
NO_PEER sends HELLO on every route, where the ports take them at once; NOT_MEMBER is reported with the group, and the
arming stalls: the message is kept no more and its context stays as it is (log entry 49); any other code ends the
message, and a stream transfer with it: its context enters ERROR and its thread faults. STRAGGLER_TIMEOUT: a multicast
arming with bytes still to send and a full window (nothing of what is left may go: the model's reading, log entry 50),
whose least acknowledgement stands, reports the first member that holds it back, once. -/
def Obligations.RefusalsAndRetransmission : Prop :=
  ((∀ (i : Instr) (s : State) (d vc seq : Nat) (m : OutMsg), s.node.quiet = true → s.node.on = true →
      ((∃ h detail, i = .nak h seq vc 4 detail ∧ h.src = d ∧ wellFramed s h vc false ∧ h.ver = 1 ∧ h.grant = none ∧ h.ce = false) ∨
        (i = .retransmissionTimeout d vc seq ∧ m.tries < 16)) →
      (s.node.peer d).unacked.find? (fun q => q.vc == vc && q.seq == seq) = some m → s.node.routeTakes m = true →
      ∃ t f, exec i s = .next t ∧ t.node.out = s.node.out ++ [.msg { m with tries := m.tries + 1 } true f] ∧
        t.node.tiles = s.node.tiles ∧ t.chip = s.chip) ∧
    (∀ (s : State) (d vc seq : Nat) (m : OutMsg), s.node.quiet = true → s.node.on = true →
      (s.node.peer d).unacked.find? (fun q => q.vc == vc && q.seq == seq) = some m → 16 ≤ m.tries →
      (s.node.peer d).unreach = false → s.node.peerEvt = 0 →
      ∃ t, exec (.retransmissionTimeout d vc seq) s = .next t ∧ (t.node.peer d).unreach = true ∧
        bit t.node.peerEvt 63 = true ∧ fld t.node.peerEvt 52 4 = 2 ∧ fld t.node.peerEvt 28 12 = d % 4096 ∧
        t.node.tiles = s.node.tiles ∧ t.chip = s.chip) ∧
    (∀ (s : State) (h : Header) (vc seq detail : Nat) (m : OutMsg), s.node.quiet = true → wellFramed s h vc false →
      h.ver = 1 → h.grant = none → h.ce = false →
      (s.node.peer h.src).unacked.find? (fun q => q.vc == vc && q.seq == seq) = some m → hailable s h.src →
      ∃ t, exec (.nak h seq vc 8 detail) s = .next t ∧
        (∀ i r, (s.node.routes h.src)[i]? = some r → portOpen s r.port r.sub → greeted s t h.src i false) ∧
        t.node.tiles = s.node.tiles ∧ t.chip = s.chip) ∧
    (∀ (s : State) (h : Header) (vc seq detail : Nat) (m : OutMsg) (x : Ctx) (d : Desc), s.node.quiet = true →
      wellFramed s h vc false → h.ver = 1 → h.grant = none → h.ce = false →
      (s.node.peer h.src).unacked.find? (fun q => q.vc == vc && q.seq == seq) = some m → s.node.ctx m.ctx = some x →
      s.node.ctxDesc x = some d → s.node.peerEvt = 0 →
      ∃ t, exec (.nak h seq vc 9 detail) s = .next t ∧ bit t.node.peerEvt 63 = true ∧ fld t.node.peerEvt 52 4 = 5 ∧
        fld t.node.peerEvt 40 12 = d.dnode % 4096 ∧ fld t.node.peerEvt 28 12 = h.src % 4096 ∧ t.node.ctxs = s.node.ctxs ∧
        (t.node.peer h.src).unacked = (s.node.peer h.src).unacked.erase m ∧
        t.node.tiles = s.node.tiles ∧ t.chip = s.chip) ∧
    (∀ (s : State) (h : Header) (vc seq code detail : Nat) (m : OutMsg) (x : Ctx), s.node.quiet = true →
      wellFramed s h vc false → h.ver = 1 → h.grant = none → h.ce = false →
      (s.node.peer h.src).unacked.find? (fun q => q.vc == vc && q.seq == seq) = some m →
      code ≠ 4 → code ≠ 8 → code ≠ 9 → m.ofCtx m.ctx = true → s.node.ctx m.ctx = some x → x.dead = false →
      x.state ≠ 4 → x.lt < 2304 → calm s x.lt → (s.node.tile x.lt).fault = .clear → x.arm.thr < 8 →
      ∃ t y, exec (.nak h seq vc code detail) s = .next t ∧
        t.node.ctx m.ctx = some y ∧ y.state = 4 ∧ y.shadow = none ∧ y.pieces = [] ∧ y.writes = [] ∧
        (t.node.thread x.lt x.arm.thr).wait = .halted ∧ (t.node.tile x.lt).fault.cls = (if code = 2 then 2 else 3) ∧
        (t.node.tile x.lt).fault.pc = x.arm.pc ∧ t.node.commit.tainted = true ∧ keepsMemory s t ∧ t.chip = s.chip)) ∧
  (∀ (s : State) (c q : Nat) (x : Ctx) (d : Desc), s.node.quiet = true → s.node.ctx c = some x →
      s.node.ctxDesc x = some d → d.mcast = true → fld s.node.timers 32 20 ≠ 0 → x.strag = false → x.dead = false →
      x.state = 2 → x.sent ≠ x.total → x.sendable true (s.node.sideNodes (s.node.armDesc d)) = [] →
      (s.node.sideNodes (s.node.armDesc d)).find? (fun k => Map.getD x.acked k 0 ==
        x.lag (s.node.sideNodes (s.node.armDesc d))) = some q → s.node.peerEvt = 0 →
      ∃ t, exec (.stragglerTimeout c) s = .next t ∧ t.node.ctx c = some { x with strag := true } ∧
        bit t.node.peerEvt 63 = true ∧ fld t.node.peerEvt 52 4 = 1 ∧ fld t.node.peerEvt 40 12 = d.dnode % 4096 ∧
        fld t.node.peerEvt 28 12 = q % 4096 ∧ fld t.node.peerEvt 0 12 = c % 4096 ∧ t.node.tiles = s.node.tiles ∧
        t.chip = s.chip)

/-- Direct links: a link-control frame frees the replay buffer below its LACK; RREQ, and a replay timeout, resend and
count in REPLAYS, and the eighth resend without progress asserts the Link reset of the sub-port, which takes the link
down. A sequence other than the expected one is answered with RREQ, once until the next LACK_REFRESH (log entry 74),
and a message behind it is not taken. LACK_REFRESH sends this side's LACK. What a LACK frees lets frames, messages and
streams go that waited. A sub-port that is fenced or down sends neither. Frames without a message: an address request
for the sub-port's own address is answered with its MAC, ARP over IPv4 and neighbour discovery over IPv6, and any
other is not; priority flow control pauses a priority of a tagged sub-port while PFC is 1, and what it releases lets
frames and messages go that waited; a frame that is discarded is counted. -/
def Obligations.LinksAndFrames : Prop :=
  ((∀ (s : State) (p k lseq lack : Nat) (lackv rreq : Bool), directUp s p k →
      let x := s.node.sub p k
      let tries := if frees x lackv lack then 0 else x.resends
      (nothingWaits s ∨ frees x lackv lack = false) → (rreq = true → tries < 7) →
      ∃ t, exec (.linkControl p k lseq lack lackv rreq) s = .next t ∧ (t.node.sub p k).replay = kept x lackv lack ∧
        (t.node.sub p k).resends = (if rreq then tries + 1 else tries) ∧
        (t.node.sub p k).lackOut = (if lackv then lack else x.lackOut) ∧ (t.node.sub p k).expect = x.expect ∧
        t.node.out = s.node.out ++ (if rreq then [.resend p k lack] else []) ++
          (if lseq % 2 ^ 24 = x.expect then [] else asks x p k) ∧
        (rreq = true → countedReplay s t p) ∧ (rreq = false → t.node.ports = s.node.ports) ∧
        t.node.tiles = s.node.tiles ∧ t.node.peers = s.node.peers ∧ t.chip = s.chip) ∧
    (∀ (s : State) (p k lseq lack : Nat), directUp s p k →
      let x := s.node.sub p k
      frees x true lack = true → lseq % 2 ^ 24 = x.expect →
      exec (.linkControl p k lseq lack true false) s = .next (settle { s with node :=
        (s.node.setSub p k { x with replay := kept x true lack, resends := 0, lackOut := lack }).goOn })) ∧
    (∀ (i : Instr) (s : State) (h : Header) (m : Msg) (l : LinkHdr), messages i = some (h, m) →
      (∀ v up, i = .get h v up → up = []) → s.node.quiet = true → portOpen s h.frame.port h.frame.sub →
      frameFits s h.frame → s.node.isDirect h.frame.port h.frame.sub = true → h.frame.link = some l → l.rreq = false →
      let x := s.node.sub h.frame.port h.frame.sub
      frees x l.lackv l.lack = false → l.lseq % 2 ^ 24 ≠ x.expect →
      ∃ t, exec i s = .next t ∧ t.node.out = s.node.out ++ asks x h.frame.port h.frame.sub ∧
        (t.node.sub h.frame.port h.frame.sub).discards = x.discards + 1 ∧
        (t.node.sub h.frame.port h.frame.sub).expect = x.expect ∧ t.node.bycode = s.node.bycode + 1 ∧
        t.node.peers = s.node.peers ∧ t.node.tiles = s.node.tiles ∧ t.chip = s.chip) ∧
    (∀ (s : State) (p k : Nat) (e : Nat × Out), directUp s p k → (s.node.sub p k).replay.head? = some e →
      (s.node.sub p k).resends < 7 →
      ∃ t, exec (.linkReplayTimeout p k) s = .next t ∧ t.node.out = s.node.out ++ [.resend p k e.1] ∧
        (t.node.sub p k).resends = (s.node.sub p k).resends + 1 ∧ (t.node.sub p k).up = true ∧ countedReplay s t p ∧
        t.node.tiles = s.node.tiles ∧ t.chip = s.chip) ∧
    (∀ (i : Instr) (s : State) (p k : Nat), directUp s p k →
      ((i = .linkReplayTimeout p k ∧ (s.node.sub p k).replay ≠ []) ∨
        (∃ lseq lack lackv, i = .linkControl p k lseq lack lackv true ∧ frees (s.node.sub p k) lackv lack = false)) → k < 4 →
      7 ≤ (s.node.sub p k).resends → s.chip.fuses.srcMap = Fuses.shipped.srcMap → s.chip.boot.ready = true →
      s.chip.chr.stopped = false → s.chip.pins.pstate ≠ 3 →
      ∃ t, exec i s = .next t ∧ (t.node.sub p k).up = false ∧ (t.node.sub p k).replay = [] ∧
        (13, 4 * p + k) ∈ t.chip.chr.targets) ∧
    (∀ (s : State) (p k : Nat), directUp s p k →
      let x := s.node.sub p k
      exec (.lackRefresh p k) s = .next { s with node := { s.node.setSub p k { x with rreqDue := false } with
        out := s.node.out ++ [.link p k { lseq := x.lseq, lackv := true, rreq := false, lack := x.expect }] } }) ∧
    (∀ (i : Instr) (s : State) (p k : Nat),
      (i = .linkReplayTimeout p k ∨ i = .lackRefresh p k ∨ ∃ lseq lack lackv rreq, i = .linkControl p k lseq lack lackv rreq) →
      s.node.quiet = true → ¬(portOpen s p k ∧ s.node.isDirect p k = true) → exec i s = .next s)) ∧
  ((∀ (s : State) (p k ip : Nat), s.node.quiet = true →
      (∀ c, s.node.subCfg p k = some c → c.ip = ip → portOpen s p k → bit s.node.tshCfg 3 = false →
        exec (.arp p k ip) s = .next { s with node := { s.node with out := s.node.out ++ [.arp p k ip c.mac] } }) ∧
      ((s.node.subCfg p k = none ∨ (∃ c, s.node.subCfg p k = some c ∧ c.ip ≠ ip) ∨ ¬portOpen s p k ∨
          bit s.node.tshCfg 3 = true) → exec (.arp p k ip) s = .next s)) ∧
    (∀ (s : State) (p k ip : Nat), s.node.quiet = true →
      (∀ c, s.node.subCfg p k = some c → c.ip = ip → portOpen s p k → bit s.node.tshCfg 3 = true →
        exec (.neighbourDiscovery p k ip) s =
          .next { s with node := { s.node with out := s.node.out ++ [.neighbour p k ip c.mac] } }) ∧
      ((s.node.subCfg p k = none ∨ (∃ c, s.node.subCfg p k = some c ∧ c.ip ≠ ip) ∨ ¬portOpen s p k ∨
          bit s.node.tshCfg 3 = false) → exec (.neighbourDiscovery p k ip) s = .next s)) ∧
    (∀ (s : State) (p k prio : Nat) (pause : Bool) (c : SubPortCfg), s.node.quiet = true → s.node.on = true →
      s.node.subCfg p k = some c → bit s.node.tshCfg 1 = true → c.vlan ≠ 0 → (s.node.sub p k).up = true → prio < 8 →
      (pause = true ∨ nothingWaits s) →
      ∃ t, exec (.priorityFlowControl p k prio pause) s = .next t ∧
        (∀ q, q ∈ (t.node.sub p k).paused ↔ (if q = prio then pause = true else q ∈ (s.node.sub p k).paused)) ∧
        t.node.tiles = s.node.tiles ∧ t.node.peers = s.node.peers ∧ t.node.out = s.node.out ∧ t.chip = s.chip) ∧
    (∀ (s : State) (p k prio : Nat) (c : SubPortCfg), s.node.quiet = true → s.node.on = true →
      s.node.subCfg p k = some c → bit s.node.tshCfg 1 = true → c.vlan ≠ 0 → (s.node.sub p k).up = true → prio < 8 →
      let x := s.node.sub p k
      exec (.priorityFlowControl p k prio false) s = .next (settle { s with node :=
        (s.node.setSub p k { x with paused := x.paused.filter (· ≠ prio) }).goOn })) ∧
    (∀ (s : State) (p k prio : Nat) (pause : Bool), s.node.quiet = true →
      (s.node.on = false ∨ bit s.node.tshCfg 1 = false ∨ (∀ c, s.node.subCfg p k = some c → c.vlan = 0) ∨
        (s.node.sub p k).up = false ∨ 8 ≤ prio) → exec (.priorityFlowControl p k prio pause) s = .next s) ∧
    (∀ (s : State) (p k reason : Nat), s.node.quiet = true → s.node.on = true → (s.node.sub p k).up = true → reason < 8 →
      exec (.frameDiscarded p k reason) s = .next (dropped s p k)))

/-- LAUNCH: a fragment is discarded from an address that HOSTS does not list, and refused in another version and from a
host without the LAUNCH bit; its bytes join the host's assembly; a slice held whole is acknowledged and refused with
the first code that applies, its ECDSA signature computed, with nothing loaded; else it is loaded: the job, its
counts, which both commit records take (DEDUCED, log entry 29), and each tile's code, the host gets a RESPONSE with
OPCODE 0x00 and the job identity as SEQ, and the meter is passed the job's tag (what is free of it: log entry 16).
Where the sub-port takes the answers at once. For a slice in one fragment and, where it loads, a node without a job
and a slice without buckets. -/
def Obligations.LaunchLoads : Prop :=
  (∀ (s : State) (f : Fragment), s.node.quiet = true → portOpen s f.h.frame.port f.h.frame.sub →
    (¬frameFits s f.h.frame ∨ f.h.frame.link.isSome ≠ s.node.isDirect f.h.frame.port f.h.frame.sub ∨
      (f.h.frame.link = none ∧ (¬headForm f.h 0 false ∨ (hostOf s f.host = none ∧ ¬fromListed s f.h)))) →
    exec (.launch f) s = .next (dropped s f.h.frame.port f.h.frame.sub)) ∧
  (∀ (s : State) (f : Fragment), fragmentFits s f →
    (hostOf s f.host = none → fromListed s f.h → ∃ t, exec (.launch f) s = .next t ∧ t.node.bycode = s.node.bycode + 1 ∧
      t.node.out = s.node.out ∧ t.node.asm = s.node.asm ∧ t.node.tiles = s.node.tiles ∧ t.chip = s.chip) ∧
    (∀ hc, hostOf s f.host = some hc → (f.h.ver ≠ 1 ∨ hc.launch = false) → wayTakes s f.h 40 →
      ∃ t, exec (.launch f) s = .next t ∧ (let code := if f.h.ver ≠ 1 then 1 else 6
        told s t .weavo f.h (s.node.hostHeader 10 f.h.ctx 0 (nakSpec 0 0 code 0)) (.hostNak f.host f.h.ctx code)))) ∧
  (∀ (s : State) (f : Fragment), firstFragment s f → f.last = false →
    ∃ t a, exec (.launch f) s = .next t ∧ Map.look t.node.asm f.host = some a ∧ a.tag = f.h.jobtag ∧ a.stop = none ∧
      (∀ k b, f.data[k]? = some b → Map.look a.bytes (f.offset + k) = some b) ∧ t.node.out = s.node.out ∧
      t.node.job = s.node.job ∧ t.node.tiles = s.node.tiles ∧ t.chip = s.chip) ∧
  (∀ (s : State) (f : Fragment) (code : Nat), firstFragment s f → f.last = true → f.offset = 0 →
    launchCode s f.data = some code →
    ∃ t a b, exec (.launch f) s = .next t ∧
      t.node.out = s.node.out ++ [.launchAck f.host f.h.ctx f.data.length a, .hostNak f.host f.h.ctx code b] ∧
      Map.look t.node.asm f.host = none ∧ t.node.job = s.node.job ∧ t.node.commit = s.node.commit ∧
      t.node.tiles = s.node.tiles ∧ keepsMemory s t ∧ t.chip = s.chip) ∧
  (∀ (s : State) (f : Fragment), firstFragment s f → f.last = true → f.offset = 0 → launchCode s f.data = none →
    s.node.job.loaded = false →
    let b := f.data.take (imageNum f.data 24 8)
    let ss := sectionsOf b
    (sectOf ss 17 0xFFFF).count = 0 →
    ∃ t a detail r, exec (.launch f) s = .next t ∧
      t.node.out = s.node.out ++ [.launchAck f.host f.h.ctx f.data.length a,
        .response .weavo f.host f.h.ctx 1 0 0 (imageNum b 8 8) detail r] ∧
      t.node.job.loaded = true ∧ t.node.job.id = imageNum b 8 8 ∧ t.node.job.node = imageNum b 16 2 ∧
      t.node.job.nnodes = imageNum b 18 2 ∧ t.node.job.highLt = imageNum b 20 2 ∧
      t.node.job.seed.toNat = imageNum f.data b.length 8 ∧
      t.node.commit.now.step.toNat = imageNum f.data (b.length + 8) 8 ∧
      t.node.commit.now.skips.toNat = imageNum f.data (b.length + 16) 8 ∧
      t.node.commit.now.cursor.toNat = imageNum f.data (b.length + 24) 8 ∧
      t.node.commit.cur = t.node.commit.now ∧ t.node.commit.prev = t.node.commit.now ∧
      t.node.commit.running = false ∧
      (∀ lt, (t.node.tile lt).used = true ↔ lt ∈ tilesIn ss) ∧
      (∀ lt ∈ tilesIn ss, ∀ k, k < (sectOf ss 1 lt).count →
        Map.look (t.node.tile lt).imem k = some (BitVec.ofNat 64 (imageNum (sectOf ss 1 lt).body (8 * k) 8))) ∧
      (∀ a g, byteAt t g noView a = byteAt s g noView a) ∧
      tagPassed s.chip t (imageNum b 8 8))

/-- Every signed command: on a path that is not served it gets no answer, from a sender that is not known and in a frame
that fails a test it is counted and discarded, in another version of Weavo it is refused; one that fails a check is
answered with the status of the first that it fails (which status where R563 does not say: log entry 45) and has no
other effect, nor does it move LAST_SEQ. A REVOKE that names its signer's own slot fails the check of the key's
authority, status 3. -/
def Obligations.CommandsRefused : Prop :=
  ∀ (i : Instr) (s : State) (e : Envelope) (op : Nat) (args : List Byte), signed i = some (e, op, args) →
    s.node.quiet = true →
    unheard i s e.path e.h ∧
    (heard s e.path e.h 56 → ∀ k, fails s e op args k → ∃ t, exec i s = .next t ∧ answered s t e op k) ∧
    (passes s e op args → ownStatus s i ≠ 0 → ∃ t, exec i s = .next t ∧ answered s t e op (ownStatus s i))

/-- The commands of the job, accepted: HOLD and RELEASE mark and unmark the next boundary, ROLLBACK takes the previous
commit record's counts and lets the round of MREADY begin anew (log entries 72 and 73), START begins an attempt on
node 0 with the present counts and epoch (on a job of one node; the children of a job of more get it), PUSH sends the
whole slot as RDATA and then its seal record as REND, at once or as credit comes, and END unloads the job, keeps
memory and passes the meter the tag zero (what is free of it: log entry 16), after the Abort verdict of an attempt
that runs. -/
def Obligations.JobCommands : Prop :=
  (∀ (s : State) (e : Envelope), passes s e 0x01 [] → ∃ u, accepted s u e 0x01 ∧ exec (.hold e) s =
    .next { u with node := { u.node with job := { s.node.job with holdNext := true } } }) ∧
  (∀ (s : State) (e : Envelope), passes s e 0x02 [] → ownStatus s (.release e) = 0 → ∃ u, accepted s u e 0x02 ∧
    exec (.release e) s = .next { u with node := { u.node with job := { s.node.job with holdNext := false } } }) ∧
  (∀ (s : State) (e : Envelope), passes s e 0x09 [] → ownStatus s (.rollback e) = 0 → ∃ u, accepted s u e 0x09 ∧
    exec (.rollback e) s = .next { u with node := { u.node with
      job := { s.node.job with fresh := true }
      commit := { s.node.commit with
        now := s.node.commit.prev, cur := s.node.commit.prev, sealed := false, kidsReady := [], readySent := false
        released := false } } }) ∧
  (∀ (s : State) (e : Envelope), passes s e 0x10 [] → ownStatus s (.start e) = 0 → s.node.job.nnodes = 1 →
    s.node.asleep = false → s.node.job.red = [] → s.node.job.release = [] → s.node.held = [] → Sound s → tilesSound s →
    s.node.commit.tainted = false → s.node.commit.kids = [] → (∀ kv ∈ s.node.tiles, kv.2.tainted = false) →
    (∀ lt, ∀ kv ∈ (s.node.tile lt).voile, kv.2.arrived = false) →
    ∃ u t, accepted s u e 0x10 ∧ exec (.start e) s = .next t ∧ t.chip = u.chip ∧ t.node.job.started = true ∧
      t.node.job.held = false ∧ t.node.commit.running = true ∧ t.node.commit.epoch = s.node.commit.epoch ∧
      t.node.commit.now = s.node.commit.now) ∧
  (∀ (s : State) (e : Envelope) (d : Nat), passes s e 0x10 [] → ownStatus s (.start e) = 0 → 1 ≤ d → d ≤ 16 →
    d < s.node.job.nnodes → s.node.clear (OutMsg.make d 1 0 false none (.start s.node.count32 s.node.commit.epoch)) = true →
    roomTo s d 1 2048 →
    ∃ t m f, exec (.start e) s = .next t ∧ .msg m false f ∈ t.node.out ∧ m.dst = d ∧ m.vc = 1 ∧
      m.msg = .start (s.node.commit.now.step.toNat % 2 ^ 32) s.node.commit.epoch) ∧
  (∀ (s : State) (e : Envelope) (slot : Nat), passes s e 0x0A (leBytes slot 1) → ownStatus s (.push e slot) = 0 → Sound s →
    let p := fld s.node.gng.cfg 12 12
    let size := fld s.node.gng.cfg 24 20 * 2 ^ 20
    let base := fld s.node.gng.inbase 20 28 * 2 ^ 20 + slot * size
    let pieces (l : List OutMsg) : Prop :=
      (∃ m, l.getLast? = some m ∧ m.vc = 6 ∧ ∃ r, m.msg = .rend slot r ∧
        sealRecord r = (bytesAt s s.node.free noView base 32)) ∧
      (∀ m ∈ l.dropLast, m.vc = 6 ∧ ∃ off data, m.msg = .rdata slot off data ∧ 64 ≤ off ∧
        data.length ≤ 8192 ∧ data = bytesAt s s.node.free noView (base + off) data.length) ∧
      ∀ k, 64 ≤ k → k < size → ∃ m ∈ l.dropLast, ∃ off data, m.msg = .rdata slot off data ∧ off ≤ k ∧ k < off + data.length
    ∃ u t, accepted s u e 0x0A ∧ exec (.push e slot) s = .next t ∧ t.chip = u.chip ∧ t.node.gng.state = 3 ∧
      t.node.tiles = s.node.tiles ∧ keepsMemory s t ∧
      ((s.node.peer p).waiting = [] → ∃ l, pieces l ∧
        ((s.node.peer p).credit 6 = false → t.node.out = u.node.out ∧ (t.node.peer p).waiting = l) ∧
        (u.node.mayPass (OutMsg.make p 6 0 false none (.rdata slot 64 (bytesAt s s.node.free noView (base + 64) 8192))) = true →
          size ≠ 0 → ∃ m f, .msg m false f ∈ t.node.out ∧ m.dst = p ∧ m.vc = 6 ∧ l.head?.map (·.msg) = some m.msg))) ∧
  (∀ (s : State) (e : Envelope), passes s e 0x03 [] →
    ∃ u t, accepted s u e 0x03 ∧ exec (.endJob e) s = .next t ∧ t.node.job = .none ∧ t.node.commit.running = false ∧
      t.node.commit.cur = s.node.commit.cur ∧ t.node.commit.prev = s.node.commit.prev ∧ t.node.ctxs = [] ∧
      t.node.flight = [] ∧ (∀ i, (t.node.redCtx i).started = false ∧ (t.node.redCtx i).complete = false) ∧
      (∀ lt, (t.node.tile lt).used = false) ∧
      (s.node.job.red = [] → ∀ a g, byteAt t g noView a = byteAt s g noView a) ∧
      (s.node.commit.running = false → (∃ l, t.node.out = u.node.out ++ l ∧ pausesOnly l) ∧
        ∀ d, (t.node.peer d).unacked = [] ∧ (t.node.peer d).waiting = []) ∧
      (s.node.commit.running = true → s.node.job.node ≠ 0 → s.node.commit.fwd = none →
        (∀ kv ∈ s.node.commit.kids, kv.2.1 ≤ 2) → roomTo s ((s.node.job.node - 1) / 16) 1 256 →
        replied s t ((s.node.job.node - 1) / 16) 1 0 (.verdict s.node.commit.epoch 2 false)) ∧
      tagPassed u.chip t 0)

/-- The commands of the module, accepted: SET_CAP sets the cap (with no request pending, nothing else), RESET asserts its
source, TILE_RESET resets its tile and leaves alone what does not wait on it, POWER begins the transition, out of
Dormant a bring-up from phase 0 (log entry 42), COLD_BOOT invalidates both copies of the retained map. A transition of
the power state ends: Idle and Standby as requested, Standby with the tile groups off and their tiles lost, Dormant
with the tiers lost and the network closed; Active from Idle with every tile group ungated that an admitted request
calls for, and what waited handled (a LAUNCH or a START: log entry 43); an exit from Standby not before its phases
have run. Without a transition nothing changes. -/
def Obligations.ModuleCommands : Prop :=
  ((∀ (s : State) (e : Envelope) (w : Nat), passes s e 0x04 (leBytes w 2) → 800 ≤ w → w ≤ 1600 →
      (∃ u t, accepted s u e 0x04 ∧ exec (.setCap e w) s = .next t ∧
        t.chip = { u.chip with hwk := { s.chip.hwk with cap := w } } ∧ t.node.out = u.node.out ∧
        t.node.mems = s.node.mems ∧ t.node.job = s.node.job) ∧
      ((∀ r ∈ s.node.gov.reqs, r.admitted = true) → ∃ u, accepted s u e 0x04 ∧
        exec (.setCap e w) s = .next { u with chip := { u.chip with hwk := { s.chip.hwk with cap := w } } })) ∧
    (∀ (s : State) (e : Envelope) (src : Nat), passes s e 0x05 (leBytes src 1) → (src = 5 ∨ src = 6) → noReset s →
      ∃ u t l, accepted s u e 0x05 ∧ exec (.reset e src) s = .next t ∧ heldBy s t src (shippedLevel src) ∧
        t.node.out = u.node.out ++ l ∧ pausesOnly l) ∧
    (∀ (s : State) (e : Envelope) (lt : Nat), passes s e 0x06 (leBytes lt 2) → lt ≤ 2303 → mayTarget s →
      ∃ u t, accepted s u e 0x06 ∧ exec (.tileReset e lt) s = .next t ∧ targeted s t 12 lt ∧
        (∀ j, t.node.thread lt j = { Thread.idle with
          hasCode := (s.node.thread lt j).hasCode, entry := (s.node.thread lt j).entry }) ∧
        (t.node.tile lt).felt = [] ∧ (t.node.tile lt).queue = [] ∧ (t.node.tile lt).bars = [] ∧
        (t.node.tile lt).parked = true ∧ (t.node.tile lt).inRst = true ∧ (t.node.tile lt).hold = false ∧ (t.node.tile lt).dbgEn = false ∧
        (t.node.tile lt).force = false ∧ (t.node.tile lt).imem = (s.node.tile lt).imem ∧
        (t.node.tile lt).descs = (s.node.tile lt).descs ∧ (t.node.tile lt).flags = (s.node.tile lt).flags ∧
        (s.node.job.loaded = true → (s.node.tile lt).used = true →
          (t.node.tile lt).tainted = true ∧ (t.node.tile lt).verdict = some 1 ∧ t.node.commit.tainted = true) ∧
        (∀ hm ∈ t.node.held, hm ∈ s.node.held ∧ s.node.reaches lt hm.2 = false) ∧ keepsMemory s t ∧
        (noneLooks s → noneHeld s → noneWaits s → (∀ u, (s.node.tile u).restart = false) →
          (∀ u, u ≠ lt → t.node.tile u = s.node.tile u) ∧ ∃ l, t.node.out = u.node.out ++ l ∧ pausesOnly l)) ∧
    (∀ (s : State) (e : Envelope) (tgt : Nat), passes s e 0x07 (leBytes tgt 1) → ownStatus s (.power e tgt) = 0 →
      s.chip.pins.pstate ≠ 3 →
      ∃ u t, accepted s u e 0x07 ∧ exec (.power e tgt) s = .next t ∧ t.chip.pins = { s.chip.pins with trans := some tgt } ∧
        t.node.out = u.node.out ∧ keepsMemory s t ∧ t.node.tiles = s.node.tiles ∧
        (tgt = 0 → t.node.gov = s.node.gov ∧ t.node.asleep = s.node.asleep) ∧
        (tgt ≠ 0 → t.node.asleep = true ∧ ∀ g x, Map.look s.node.gov.tgs g = some x →
          Map.look t.node.gov.tgs g = some { x with gated := true })) ∧
    (∀ (s : State) (e : Envelope), passes s e 0x07 (leBytes 0 1) → ownStatus s (.power e 0) = 0 → s.chip.pins.pstate = 3 →
      ∃ t, exec (.power e 0) s = .next t ∧ t.chip.pins.pstate = 3 ∧ t.chip.pins.trans = some 0 ∧
        t.chip.boot.running = true ∧ t.chip.boot.phase = 0 ∧ t.chip.boot.ready = false ∧ t.node.on = false ∧
        t.node.tiles = [] ∧ t.node.job = .none ∧ t.node.mems.data = [] ∧ t.node.mems.ue = s.node.mems.ue ∧
        t.node.commit.cur = s.node.commit.cur ∧ t.node.commit.prev = s.node.commit.prev ∧
        t.chip.chr.bkpSession = s.chip.chr.bkpSession ∧ t.chip.hwk.cap = s.chip.hwk.cap ∧ t.chip.fuses = s.chip.fuses) ∧
    (∀ (s : State) (e : Envelope), passes s e 0x08 [] → ∃ u, accepted s u e 0x08 ∧
      exec (.coldBoot e) s = .next { u with chip := { u.chip with
        chr := { s.chip.chr with
          copyA := { s.chip.chr.copyA with valid := false }, copyB := { s.chip.chr.copyB with valid := false } } } })) ∧
  ((∀ s : State, s.node.quiet = true →
      (s.chip.pins.trans = none → exec .powerTransitionComplete s = .next s) ∧
      (s.chip.pins.trans = some 1 → exec .powerTransitionComplete s =
        .next { s with chip := { s.chip with pins := { s.chip.pins with pstate := 1, trans := none } } }) ∧
      (s.chip.pins.trans = some 2 → ∃ t, exec .powerTransitionComplete s = .next t ∧
        t.chip = { s.chip with pins := { s.chip.pins with pstate := 2, trans := none } } ∧ t.node.tiles = [] ∧
        t.node.gov.reqs = [] ∧ (∀ g, (t.node.tg g).powered = false ∧ (t.node.tg g).throttle = (s.node.tg g).throttle) ∧
        t.node.mems = s.node.mems ∧ t.node.on = s.node.on ∧ t.node.commit = s.node.commit) ∧
      (s.chip.pins.trans = some 3 → ∃ t, exec .powerTransitionComplete s = .next t ∧ t.chip.pins.pstate = 3 ∧
        t.chip.pins.trans = none ∧ t.chip.pins.domains = [] ∧ t.node.on = false ∧ t.node.tiles = [] ∧
        t.node.mems.data = [] ∧ t.node.mems.linkUp = [] ∧ t.node.subs = [] ∧ t.node.mems.ue = s.node.mems.ue) ∧
      (s.chip.pins.trans = some 0 → s.chip.pins.pstate = 1 → s.node.later = [] → ∃ t, exec .powerTransitionComplete s = .next t ∧
        t.chip.pins = { s.chip.pins with pstate := 0, trans := none } ∧ t.node.asleep = false ∧ t.node.tiles = s.node.tiles ∧
        keepsMemory s t ∧ ∀ g x, Map.look s.node.gov.tgs g = some x → Map.look t.node.gov.tgs g = some (regated s g x)) ∧
      (s.chip.pins.trans = some 0 → s.chip.pins.pstate = 2 →
        (s.chip.boot.exit_ ≠ 8 → exec .powerTransitionComplete s = .next s) ∧
        (s.chip.boot.exit_ = 8 → ∃ t, exec .powerTransitionComplete s = .next t ∧ t.chip.pins.pstate = 0 ∧
          t.chip.pins.trans = none ∧ t.node.asleep = false ∧
          ∀ g, g < 64 → (t.node.tg g).powered = true ∧ (s.node.gov.reqs = [] → (t.node.tg g).gated = true)))) ∧
    (∀ s : State, s.chip.pins.trans = some 0 → s.chip.pins.pstate = 1 → ∃ t, exec .powerTransitionComplete s = .next t ∧
      t.node.asleep = false ∧ t.node.later = [] ∧ t.chip.pins.pstate = 0 ∧ t.chip.pins.trans = none) ∧
    (∀ (s : State) (src : Nat), s.chip.pins.trans = some 0 → s.chip.pins.pstate = 1 →
      s.node.later = [.start src s.node.count32 s.node.commit.epoch] → ({ s.node with later := [] } : Node).quiet = true →
      s.node.job.loaded = true → (s.node.job.started = false ∨ s.node.job.held = true) →
      s.node.job.red = [] → s.node.job.release = [] → noneHeld s → Sound s → tilesSound s →
      s.node.commit.tainted = false → s.node.commit.kids = [] → (∀ kv ∈ s.node.tiles, kv.2.tainted = false) →
      ∃ t, exec .powerTransitionComplete s = .next t ∧ t.node.job.started = true ∧ t.node.job.held = false ∧
        t.node.commit.running = true ∧ t.node.commit.now = s.node.commit.now) ∧
    (∀ (s : State) (h : Header) (b : List Byte) (a : Asm), s.chip.pins.trans = some 0 → s.chip.pins.pstate = 1 →
      s.node.later = [.launch h] → ({ s.node with later := [] } : Node).quiet = true →
      Map.look s.node.asm h.frame.src = some a → a.stop = some b.length → a.bytes.map (·.2) = b → launchCode s b = none →
      s.node.job.loaded = false →
      ∃ t, exec .powerTransitionComplete s = .next t ∧ t.node.job.loaded = true ∧ t.node.job.id = imageNum b 8 8 ∧
        Map.look t.node.asm h.frame.src = none))

/-- The sources of Warm or deeper: an event that asserts one holds the module at the level of the fuse map, each for a
minimum hold of its own. A fault of REFCLK does so at once with CLKSEL 1; with CLKSEL 0 it stops the always-on clock,
and the source asserts when REFCLK runs again. A reset of Warm or deeper powers every tile group off (02 R49). Holds
and releases: a level source whose condition has ended stays asserted until its minimum hold has run, and then a
shallower source holds the module; the supply's return samples the straps, and needs the clock that STRAP_CLKSEL
selects; the hold that ends is a target's first and else the oldest (the model's choice, log entry 28); a minimum-hold
source releases when its last hold ends; the end of a Tile reset's hold lets what waited for the tile reach it; while
the always-on clock is stopped nothing releases; the module is released only when every source has, and bring-up then
starts, at phase 0 after a loss of power and at phase 1 otherwise, with the tile groups powered again (log entry 78). -/
def Obligations.ResetsAndReleases : Prop :=
  ((∀ (i : Instr) (s : State) (src : Nat), asserting i = some src → noReset s →
      ∃ t, exec i s = .next t ∧ heldBy s t src (shippedLevel src) ∧
        (i = .pwrOk false → t.chip.pins.pwrOk = false) ∧ (∀ straps, i = .powerOn ⟨false, straps⟩ → t.chip.pins.aux = false) ∧
        (src = 1 → t.chip.pins.resetN = false) ∧ (∀ d, i = .regulatorFault d → d ∈ t.chip.pins.regBad) ∧
        (src = 0 ∨ src = 2 ∨ src = 10 → t.chip.pins.domains = []) ∧
        t.chip.fuses.vlog = (if src = 11 ∧ s.chip.fuses.vlog.length < 32 then s.chip.fuses.vlog ++ [2]
          else s.chip.fuses.vlog)) ∧
    (∀ (i : Instr) (s : State) (src : Nat), asserting i = some src → src ≠ 0 → s.node.quiet = true →
      s.chip.chr.stopped = false → s.chip.pins.pstate ≠ 3 → s.chip.fuses.srcMap = Fuses.shipped.srcMap →
      ∃ t, exec i s = .next t ∧ t.chip.chr.minHeld = s.chip.chr.minHeld ++ [src] ∧ src ∈ t.chip.chr.seqSrcs ∧
        (t.chip.chr.asserted.any fun a => a.1 == src) = true) ∧
    (∀ s : State, noReset s → s.chip.chr.clksel = true →
      ∃ t, exec .refclkFault s = .next t ∧ heldBy s t 15 1 ∧ t.chip.chr.refOk = false ∧ bit t.chip.chr.last 27 = true) ∧
    (∀ s : State, s.node.quiet = true → s.chip.chr.clksel = false →
      exec .refclkFault s = .next { s with chip := { s.chip with
        chr := { s.chip.chr with refOk := false, stopped := true } } }) ∧
    (∀ s : State, noReset { s with chip := { s.chip with chr := { s.chip.chr with stopped := false } } } →
      s.chip.chr.stopped = true → s.chip.pins.aux = true → s.chip.pins.resetN = true → s.chip.pins.pwrOk = true → s.chip.pins.thermN = true →
      s.chip.pins.regBad = [] →
      ∃ t, exec .refclkRunsAgain s = .next t ∧ heldBy s t 15 1 ∧ t.chip.chr.refOk = true ∧ t.chip.chr.stopped = false) ∧
    (∀ s : State, s.node.quiet = true → s.chip.pins.aux = false →
      exec .refclkRunsAgain s = .next { s with chip := { s.chip with chr := { s.chip.chr with refOk := true } } }) ∧
    (∀ (s : State) (ns : Nat), s.node.quiet = true → ns < 200 →
      exec (.resetN ns) s = .next { s with node := { s.node with free := s.node.free + 1 } })) ∧
  ((∀ (i : Instr) (s : State) (src : Nat), relieving s i = some src → s.node.quiet = true →
      ∃ t, exec i s = .next t ∧ t.node = s.node ∧ t.pending = s.pending ∧ ¬standing t src ∧
        t.chip.chr.minHeld = s.chip.chr.minHeld ∧ t.chip.boot = s.chip.boot ∧ t.chip.fuses = s.chip.fuses ∧
        (s.chip.chr.stopped = false → letGo s t src) ∧
        (s.chip.chr.stopped = true → t.chip.chr.asserted = s.chip.chr.asserted ∧ t.chip.chr.held = s.chip.chr.held)) ∧
    (∀ (s : State) (straps : Nat), s.node.quiet = true →
      (s.chip.pins.aux = true → exec (.powerOn ⟨true, straps⟩) s = .next s) ∧
      (s.chip.chr.refOk = false → straps.testBit 2 = false → exec (.powerOn ⟨true, straps⟩) s = .next s) ∧
      (s.chip.pins.aux = false → (s.chip.chr.refOk = true ∨ straps.testBit 2 = true) →
        (∀ k ∈ [1, 2, 3, 10, 15], standing s k → (s.chip.chr.asserted.any fun a => a.1 == k) = true) →
        (∀ k ∈ [1, 2, 3, 10], (s.chip.chr.asserted.any fun a => a.1 == k) = true → standing s k) →
        s.chip.chr.held = levelHeld s.chip.chr.asserted s.chip.chr.held →
        ∃ t, exec (.powerOn ⟨true, straps⟩) s = .next t ∧ t.node = s.node ∧ t.chip.pins.aux = true ∧
          t.chip.pins.straps = straps % 4 ∧ t.chip.chr.clksel = straps.testBit 2 ∧ t.chip.chr.stopped = false ∧
          t.chip.chr.minHeld = s.chip.chr.minHeld ∧ t.chip.boot = s.chip.boot ∧ t.chip.fuses = s.chip.fuses ∧ letGo s t 0)) ∧
    (∀ (s : State) (src tgt : Nat) (rest : List (Nat × Nat)), s.node.quiet = true → s.chip.chr.stopped = false →
      s.chip.chr.targets = (src, tgt) :: rest → ((src ≠ 12 ∨ (12, tgt) ∈ rest) →
        exec .resetHoldEnd s = .next { s with chip := { s.chip with chr := { s.chip.chr with targets := rest } } }) ∧
      (src = 12 → (12, tgt) ∉ rest → noneHeld s → noneLooks s →
        ∃ t, exec .resetHoldEnd s = .next t ∧
          t.chip = { s.chip with chr := { s.chip.chr with targets := rest } } ∧
          t.node.tile tgt = { s.node.tile tgt with inRst := false, sameIv := false } ∧
          (∀ u, u ≠ tgt → t.node.tile u = { s.node.tile u with sameIv := false }) ∧ keepsMemory s t)) ∧
    (∀ (s : State) (src : Nat) (rest : List Nat), s.chip.chr.stopped = false → s.chip.chr.targets = [] →
      s.chip.chr.minHeld = src :: rest →
      ∃ t, exec .resetHoldEnd s = .next t ∧ t.node = s.node ∧ t.chip.pins = s.chip.pins ∧ t.chip.boot = s.chip.boot ∧
        t.chip.chr.minHeld = rest ∧
        (standing s src ∨ src ∈ rest → t.chip.chr.asserted = s.chip.chr.asserted ∧ t.chip.chr.held = s.chip.chr.held) ∧
        (¬standing s src → src ∉ rest → t.chip.chr.asserted = without s.chip.chr.asserted src ∧
          t.chip.chr.held = levelHeld (without s.chip.chr.asserted src) s.chip.chr.held)) ∧
    (∀ s : State, (s.chip.chr.stopped = true ∨ (s.chip.chr.targets = [] ∧ s.chip.chr.minHeld = [])) →
      exec .resetHoldEnd s = .next s) ∧
    (∀ s : State, s.node.quiet = true →
      let free := s.chip.chr.held.isSome = true ∧ s.chip.chr.asserted = [] ∧ s.chip.chr.minHeld = [] ∧
        s.chip.chr.stopped = false
      let dark := s.chip.chr.fromDorm = true ∨ ∃ k ∈ s.chip.chr.seqSrcs, k = 0 ∨ k = 2 ∨ k = 10 ∨ k = 15
      (free → exec .resetRelease s = .next { s with
        node := if dark then s.node else { s.node with gov := { s.node.gov with
          tgs := (List.range 64).map fun g => (g, { Tg.off with powered := true, gated := true }) } }
        chip := { s.chip with
          chr := { s.chip.chr with held := none }
          boot := { s.chip.boot with running := true, phase := if dark then 0 else 1 } } }) ∧
      (¬free → exec .resetRelease s = .next s)))

/-- Link resets and the links' return: the loss of block lock takes its sub-port down and its routes out of use, the loss
of a CXL link, by itself or by PRSNT_N, stalls that link; before ready the source is only counted. A CXL link that
retrains, its hold over and PRSNT_N low, is up again; a CXL link that does not is a failed link, an uncorrectable
event of kind 3, and resets the module; a sub-port comes back on all its lanes or on an aligned group of them (11
R330) and says HELLO on its routes; one with fewer lanes than the topology expects, and one that stays dark, is
recorded and has its policy. What is not up, has not gone down or has no reset under way changes nothing. -/
def Obligations.LinkResets : Prop :=
  (∀ (s : State) (p k : Nat), mayTarget s → (s.node.sub p k).up = true → k < 4 →
    ∃ t, exec (.blockLockLoss p k) s = .next t ∧ targeted s t 13 (4 * p + k) ∧ (t.node.sub p k).up = false ∧
      (t.node.sub p k).replay = [] ∧ (t.node.sub p k).resetting = true ∧
      (∀ d i r, (s.node.routes d)[i]? = some r → 4 * r.port + r.sub = 4 * p + k → i ∉ (t.node.peer d).usable) ∧
      (∀ d, (t.node.peer d).unacked = (s.node.peer d).unacked ∧ (t.node.peer d).sendSeq = (s.node.peer d).sendSeq ∧
        (t.node.peer d).limit = (s.node.peer d).limit) ∧ t.node.tiles = s.node.tiles ∧ keepsMemory s t) ∧
  (∀ (s : State) (p k l lanes : Nat), s.node.quiet = true →
    ((s.node.sub p k).up = false → exec (.blockLockLoss p k) s = .next s) ∧
    (l ∉ s.node.mems.linkUp → exec (.cxlLinkDown l) s = .next s ∧
      exec (.prsntN l true) s = .next { s with chip := { s.chip with pins := { s.chip.pins with
        prsntN := Map.put s.chip.pins.prsntN l true } } }) ∧
    ((s.node.sub p k).resetting = false ∨ (13, 4 * p + k) ∈ s.chip.chr.targets →
      exec (.subPortRetrained p k lanes) s = .next s)) ∧
  (∀ (s : State) (l : Nat), mayTarget s → l ∈ s.node.mems.linkUp →
    (∃ t, exec (.cxlLinkDown l) s = .next t ∧ targeted s t 14 l ∧ linkLost s t l) ∧
    (∃ t, exec (.prsntN l true) s = .next t ∧ targeted s t 14 l ∧ linkLost s t l ∧
      Map.look t.chip.pins.prsntN l = some true)) ∧
  (∀ (s : State) (l : Nat) (high : Bool), s.node.quiet = true → (high = false ∨ s.chip.boot.ready = false) →
    exec (.prsntN l high) s = .next { s with chip := { s.chip with pins := { s.chip.pins with
      prsntN := Map.put s.chip.pins.prsntN l high } } }) ∧
  (∀ (s : State) (l : Nat), s.node.quiet = true → s.chip.chr.stopped = false → s.chip.pins.pstate ≠ 3 →
    s.chip.boot.ready = false → l ∈ s.node.mems.linkUp →
    ∃ t, exec (.cxlLinkDown l) s = .next t ∧ t.node = s.node ∧
      fld t.chip.chr.lastTl 32 16 = Min.min 65535 (fld s.chip.chr.lastTl 32 16 + 1) ∧
      t.chip.chr.targets = s.chip.chr.targets) ∧
  (∀ (s : State) (l : Nat), s.node.quiet = true →
    let trains := l ∈ s.node.mems.stalled ∧ Map.look s.chip.pins.prsntN l = some false ∧ (14, l) ∉ s.chip.chr.targets
    (trains → noneHeld s → noneLooks s → ∃ t, exec (.cxlLinkRetrained l) s = .next t ∧ t.node.mems = { s.node.mems with
        linkUp := insertNew l s.node.mems.linkUp, stalled := s.node.mems.stalled.filter (· ≠ l)
        cxmCfg := setFld s.node.mems.cxmCfg (2 + l) 1 1 } ∧
      (∀ u, t.node.tile u = { s.node.tile u with sameIv := false }) ∧ keepsMemory s t ∧ t.chip = s.chip) ∧
    (¬trains → exec (.cxlLinkRetrained l) s = .next s) ∧
    (l ∉ s.node.mems.stalled → exec (.cxlRetrainTimeout l) s = .next s)) ∧
  (∀ (s : State) (l : Nat), noReset s → l ∈ s.node.mems.stalled → l < 4 → s.node.mems.ue = 0 →
    ∃ t, exec (.cxlRetrainTimeout l) s = .next t ∧ t.chip.chr.held = some 1 ∧ (8, 1) ∈ t.chip.chr.asserted ∧
      t.node.job = .none ∧ bit t.node.mems.ue 63 = true ∧ fld t.node.mems.ue 51 3 = 3 ∧ fld t.node.mems.ue 48 3 = 2 ∧
      fld t.node.mems.ue 54 8 = l) ∧
  (∀ (s : State) (p k mask : Nat) (c : SubPortCfg), s.node.quiet = true → (s.node.sub p k).resetting = true →
    (13, 4 * p + k) ∉ s.chip.chr.targets → (s.node.sub p k).fenced = false → s.node.subCfg p k = some c → k < 4 →
    ∃ t lanes, exec (.subPortRetrained p k mask) s = .next t ∧ lanesRun mask (s.node.laneWidth p) lanes ∧
      (t.node.sub p k).lanes = lanes ∧ (t.node.sub p k).up = decide (lanes ≠ 0) ∧ (t.node.sub p k).resetting = false ∧
      (t.node.sub p k).trained = mask % 2 ^ s.node.laneWidth p ∧
      (lanes ≠ 0 → trainedFrom mask (t.node.sub p k).first lanes ∧ lanes ∣ (t.node.sub p k).first ∧
        (t.node.sub p k).first + lanes ≤ s.node.laneWidth p) ∧
      t.node.tiles = s.node.tiles ∧
      (lanes ≠ 0 → (t.node.sub p k).fenced = false → ∀ b d r, s.node.cfg = some b →
        s.node.portTakes { port := p, sub := k, mac := 0, ip := 0 } 0
          (104 * sumOf (fun q => (s.node.routesOn q.1 (4 * p + k)).length) b.nodes) = true → Map.look b.nodes d = some r →
        ∀ i ∈ s.node.routesOn d (4 * p + k), greeted s t d i false) ∧
      ((c.role = .unused ∨ (lanes ≠ 0 ∧ c.lanes ≤ lanes)) → (t.node.sub p k).fenced = false ∧ t.chip = s.chip) ∧
      (c.role ≠ .unused → lanes < c.lanes ∨ lanes = 0 → s.chip.boot.topo = 0 → p < 8 →
        bit t.chip.boot.topo 63 = true ∧ fld t.chip.boot.topo 59 3 = (if lanes = 0 then 1 else 0) ∧
        fld t.chip.boot.topo 54 3 = p ∧ fld t.chip.boot.topo 52 2 = k ∧
        ((t.node.sub p k).fenced = true ↔ fld s.chip.boot.policy (if lanes = 0 then 2 else 0) 2 ≠ 0)))

/-- Bring-up, phases 0 to 5: each phase's command does its work and hands on to the next phase, or stops bring-up with the
error of the phase; before its conditions phase 0 waits, and with the always-on clock stopped nothing runs. In phase 2
a ROM that fails its integrity check and a key derivation that fails its self-test are security violations of kinds 3
and 4 (whether they pass is a free value, log entry 68), and the images are verified only after both. Bring-up, phases
6 to 8, and the exit from Standby: discovery waits while a mismatch is open, ends without a mismatch, records the
first that it accepts, and holds the module where one refuses, a further comparison adding what has not been recorded;
a tile that failed its firmware twice is defective and sends bring-up back to phase 4 once; READY writes the retained
map, locks the RWL registers and takes the module to Active with its security counters raised. -/
def Obligations.BringUp : Prop :=
  ((∀ s : State, phaseRuns s 0 →
      let up := s.chip.pins.pwrOk = true ∧ s.chip.meter.running = true ∧ s.chip.meter.test = false
      (¬up → exec .suppliesAndClock s = .next s) ∧
      (up → ∃ t, exec .suppliesAndClock s = .next t ∧ t.chip.boot = { s.chip.boot with phase := 1 } ∧
        t.chip.pins = { s.chip.pins with domains := [64, 65, 66, 67, 68, 69] } ∧
        ∀ g, g < 64 → (t.node.tg g).powered = true ∧ (t.node.tg g).gated = true)) ∧
    (∀ (i : Instr) (s : State), inBringUp i = true → s.node.quiet = true → s.chip.chr.stopped = true → exec i s = .next s) ∧
    (∀ s : State, phaseRuns s 1 →
      exec (.optionLoading false) s = .next (withBoot s { s.chip.boot with err := 1, detail := 0 }) ∧
      (recovers s → exec (.optionLoading true) s = .next (withBoot s { s.chip.boot with recov := true, phase := 2 })) ∧
      (¬recovers s → exec (.optionLoading true) s = .next (withBoot s { s.chip.boot with recov := false, phase := 2 }))) ∧
    (∀ (s : State) (kind : Nat), phaseRuns s 2 → s.chip.chr.asserted = [] → s.chip.fuses.srcMap = Fuses.shipped.srcMap →
      ((Config.romSound s.node.free = false ∧ kind = 3) ∨
        (Config.romSound s.node.free = true ∧ Config.kdfSound (s.node.free + 1) = false ∧ kind = 4)) →
      ∃ t, exec .managementBoot s = .next t ∧ t.chip.chr.held = some 0 ∧ t.chip.chr.asserted = [(11, 0)] ∧
        t.chip.boot.running = false ∧ t.node.on = false ∧
        t.chip.fuses.vlog = (if s.chip.fuses.vlog.length < 32 then s.chip.fuses.vlog ++ [kind] else s.chip.fuses.vlog)) ∧
    (∀ s : State, phaseRuns s 2 → Config.romSound s.node.free = true → Config.kdfSound (s.node.free + 1) = true →
      let sec := if s.chip.chr.seqOn then s.chip.sec.applyWaiting else s.chip.sec
      (verifyImages sec s.chip.fuses = none → ∃ t, exec .managementBoot s = .next t ∧ t.chip.boot.err = 2 ∧
        t.chip.boot.phase = 2 ∧ t.node.cfg = none ∧ t.node.on = true ∧ t.chip.pins.copper = true ∧ t.chip.sec.lastSeq = 0 ∧
        t.node.session = t.chip.chr.bkpSession.toNat) ∧
      (∀ i, verifyImages sec s.chip.fuses = some i → ∃ t, exec .managementBoot s = .next t ∧
        t.chip.boot.phase = 3 ∧ t.chip.boot.err = 0 ∧ t.node.cfg = some i.cfg ∧ t.node.on = true ∧
        t.chip.pins.copper = true ∧ t.chip.sec.lastSeq = 0 ∧ t.chip.sec.mode = sec.modeSel ∧
        t.chip.sec.debug = Option.getD i.over_.debug false ∧ t.chip.sec.nonexact = i.over_.nonexact.getD false ∧
        t.chip.sec.fallback = (i.fw.2.2 || i.base.2.2 || i.ov.2.2) ∧
        t.node.session = t.chip.chr.bkpSession.toNat ∧
        ((s.chip.chr.seqOn = false ∨ s.chip.chr.seqLevel ≠ 0) → t.chip.chr.bkpSession = s.chip.chr.bkpSession + 1) ∧
        fld t.node.timers 0 16 = i.over_.rtoUs.getD 200 % 65536 ∧ fld t.node.timers 32 20 = i.over_.stragUs.getD 2000 % 2 ^ 20 ∧
        fld t.node.redCfg 0 2 = i.over_.redMode.getD 0 % 4 ∧ fld t.node.guard.chkCfg 0 7 = i.over_.shadowEvery.getD 1 % 128 ∧
        fld t.chip.hwk.limits 40 8 = i.over_.xtgt.getD 95 % 256 ∧ fld t.chip.hwk.limits 32 8 = i.over_.ttgt.getD 95 % 256 ∧
        fld t.chip.hwk.limits 16 16 = i.over_.starveUs.getD 50 % 65536 ∧ fld t.chip.hwk.limits 0 3 = i.over_.vmax.getD 6 % 8 ∧
        fld t.node.split 0 5 = i.cfg.shRead % 32 ∧ fld t.node.split 5 5 = i.cfg.shWrite % 32 ∧
        fld t.node.split 10 5 = i.cfg.shRemote % 32)) ∧
    (∀ (s : State) (r : TestReport), phaseRuns s 3 →
      (∀ d, r.badDie = some d → exec (.selfTest r) s = .next (withBoot s { s.chip.boot with err := 3, detail := d })) ∧
      (∀ ch, r.badDie = none → r.badGddr = some ch → s.chip.boot.recov = false →
        exec (.selfTest r) s = .next (withBoot s { s.chip.boot with err := 4, detail := ch })) ∧
      (r.badDie = none → (r.badGddr = none ∨ s.chip.boot.recov = true) → ∃ t, exec (.selfTest r) s = .next t ∧
        t.chip.boot.phase = 4 ∧ t.chip.boot.err = 0 ∧
        t.chip.boot.gddrOne = (if s.chip.boot.recov then 0 else r.oneBit) ∧
        (∀ q ∈ r.badTiles, 1216 * q.1 + 38 * q.2.1 + q.2.2 ∈ t.chip.boot.failed) ∧
        (∀ q ∈ r.badDamask, 1216 * q.1 + 38 * q.2.1 + q.2.2 ∈ t.chip.boot.dmsk) ∧
        (s.chip.boot.recov = true → s.chip.chr.seqOn = true → s.chip.chr.seqLevel = 2 → t.node = s.node) ∧
        (s.chip.boot.recov = true → s.chip.chr.seqOn = true → s.chip.chr.seqLevel = 1 → wiped t.node.mems ∧
          t.node.mems.filled = some []) ∧
        (s.chip.boot.recov = false → wiped t.node.mems ∧ t.node.mems.filled = none))) ∧
    (∀ s : State, phaseRuns s 4 → ∃ t, exec .defectMap s = .next t ∧
      t.chip.boot.phase = (if s.chip.boot.again then 7 else 5) ∧ t.chip.boot.err = 0 ∧
      (∀ p ∈ s.chip.boot.failed, (t.node.physTile p).state ≠ 0) ∧
      (∀ p ∈ s.chip.boot.dmsk, (t.node.physTile p).damask = true) ∧
      (∀ p, (t.node.physTile p).chk = 0 ∧ (t.node.physTile p).mism = 0) ∧
      (∀ f ∈ s.chip.fuses.field, f ∈ t.chip.fuses.field) ∧
      (s.chip.boot.recov = false → s.chip.boot.failed = [] → s.chip.boot.dmsk = [] → s.chip.fuses.defects = [] →
        s.chip.fuses.field = [] → s.chip.chr.copyInForce = none →
        t.node.guard.lmap = s.chip.fuses.factory ∧ t.node.guard.backed0 = 1152 ∧ t.node.guard.backed1 = 1152)) ∧
    (∀ (s : State) (r : TrainReport), phaseRuns s 5 →
      (∀ ch, r.badGddr = some ch → exec (.linkTraining r) s = .next (withBoot s { s.chip.boot with err := 4, detail := ch })) ∧
      (r.badGddr = none → ∃ t, exec (.linkTraining r) s = .next t ∧ t.chip.boot = { s.chip.boot with phase := 6 } ∧
        (∀ p k, p < 8 → k < subPorts (s.node.portMode p) →
          let x := t.node.sub p k
          let mask := Map.getD r.lanes (4 * p + k) 0
          lanesRun mask (s.node.laneWidth p) x.lanes ∧ x.up = decide (x.lanes ≠ 0) ∧ x.trained = mask % 2 ^ s.node.laneWidth p ∧
          (x.lanes ≠ 0 → trainedFrom mask x.first x.lanes ∧ x.lanes ∣ x.first ∧ x.first + x.lanes ≤ s.node.laneWidth p) ∧
          x.fenced = false ∧
          (x.up = true → ∀ c d o, s.node.cfg = some c →
            104 * sumOf (fun q => (s.node.routesOn q.1 (4 * p + k)).length) c.nodes ≤ 262144 → Map.look c.nodes d = some o →
            ∀ i ∈ s.node.routesOn d (4 * p + k), greeted s t d i false)) ∧
        ∀ c l cap, s.node.cfg = some c → c.cxlMembers = [l] → r.cxl = [(l, cap)] → 0 < cap → s.chip.boot.cxlBad = false →
          (Map.look s.chip.pins.prsntN l = some false → fld t.node.mems.cxmCfg 0 2 = 0 ∧ t.node.mems.linkUp = [l] ∧
            t.node.cxlLimit = 0x100000000000 + Min.min cap 8192 * 2 ^ 28 * 25 / 32 ∧
            t.node.mems.hdm = [(l, { base := 0, size := Min.min cap 8192 * 2 ^ 28, ways := 1, granularity := 4096, position := 0,
                                     locked := true })]) ∧
          (Map.look s.chip.pins.prsntN l = some true → fld t.node.mems.cxmCfg 0 2 = 3 ∧ t.node.mems.linkUp = [] ∧
            t.node.cxlLimit = 0x100000000000 ∧ t.node.mems.hdm = [])))) ∧
  ((∀ (i : Instr) (s : State), (i = .topologyDiscovery ∨ i = .topoWaitExpiry) → phaseRuns s 6 →
      (s.node.mismatches = [] → exec i s = .next (withBoot s { s.chip.boot with err := 0, refused := false, phase := 7 })) ∧
      ((∃ m ∈ s.node.mismatches, m.open_ = true) → i = .topologyDiscovery → exec i s = .next s) ∧
      (∀ m rest, s.node.mismatches = m :: rest → (i = .topologyDiscovery → ∀ q ∈ m :: rest, q.open_ = false) →
        s.chip.boot.topo = 0 → m.cls < 8 → ∃ t, exec i s = .next t ∧
          bit t.chip.boot.topo 63 = true ∧ fld t.chip.boot.topo 59 3 = m.cls ∧ fld t.chip.boot.topo 40 12 = m.node % 4096 ∧
          ((∃ q ∈ m :: rest, policyOf s.chip.boot.policy q.cls = 2) →
            t.chip.boot.err = 5 ∧ t.chip.boot.phase = 6 ∧ t.chip.boot.running = true ∧ t.chip.boot.refused = true) ∧
          ((∀ q ∈ m :: rest, policyOf s.chip.boot.policy q.cls ≠ 2) → t.chip.boot.err = 0 ∧ t.chip.boot.phase = 7))) ∧
    (∀ s : State, s.node.quiet = true → s.chip.boot.running = true → s.chip.boot.phase = 6 → s.chip.boot.err = 5 →
      s.chip.boot.refused = true → s.chip.chr.held = none → s.chip.chr.stopped = false → bit s.chip.boot.topo 63 = true →
      ∃ t, exec .topoWaitExpiry s = .next t ∧
        ((∀ q ∈ s.node.mismatches, (q.cls, q.key, q.node) ∈ s.chip.boot.noted) → t.chip.boot.topo = s.chip.boot.topo) ∧
        ((∃ q ∈ s.node.mismatches, (q.cls, q.key, q.node) ∉ s.chip.boot.noted) → bit t.chip.boot.topo 62 = true) ∧
        ((∀ q ∈ s.node.mismatches, policyOf s.chip.boot.policy q.cls ≠ 2) → t.chip.boot.err = 0 ∧ t.chip.boot.phase = 7) ∧
        ((∃ q ∈ s.node.mismatches, policyOf s.chip.boot.policy q.cls = 2) → t.chip.boot.err = 5 ∧ t.chip.boot.phase = 6)) ∧
    (∀ s : State, phaseRuns s 7 → exec (.firmwareBroadcast []) s = .next (withBoot s { s.chip.boot with phase := 8 }) ∧
      (s.chip.boot.ready = false → ({ s.chip.boot with phase := 8 } : Boot).shown = 7)) ∧
    (∀ (s : State) (d c r : Nat), phaseRuns s 7 → s.chip.boot.again = false →
      let p := 1216 * d + 38 * c + r
      (s.node.physTile p).state = 0 →
      ∃ t, exec (.firmwareBroadcast [(d, c, r)]) s = .next t ∧ t.chip.boot.phase = 4 ∧ t.chip.boot.again = true ∧
        p ∈ t.chip.boot.failed ∧ (t.node.physTile p).state = 2 ∧ mapRetained t) ∧
    (∀ s : State, phaseRuns s 8 → s.node.on = true → ∃ t, exec .ready s = .next t ∧ mapRetained t ∧
      t.chip.boot.phase = 8 ∧ t.chip.boot.ready = true ∧ t.chip.boot.running = false ∧ t.chip.boot.locked = true ∧
      t.chip.pins.alertN = true ∧ t.chip.pins.pairOn = true ∧ t.chip.pins.pstate = 0 ∧ t.chip.chr.seqOn = false ∧
      t.chip.fuses.fwSvn = Max.max s.chip.fuses.fwSvn s.chip.sec.fwSvnRun ∧
      t.chip.fuses.cfgSvn = Max.max s.chip.fuses.cfgSvn s.chip.sec.cfgSvnRun ∧
      t.chip.chr.bkpBoots = s.chip.chr.bkpBoots + 1 ∧ t.node.evSeq = s.node.evSeq + 1 ∧
      (∃ e, Map.look t.node.events (s.node.evSeq % 1024) = some e ∧ e.code = 14 ∧ e.lt = 0xFFFF) ∧
      t.node.mems = s.node.mems ∧ t.node.tiles = s.node.tiles) ∧
    (∀ s : State, s.node.quiet = true → s.chip.boot.running = false → s.chip.pins.trans = some 0 → s.chip.boot.err = 0 →
      s.chip.chr.stopped = false →
      (∀ (r : TestReport) (d : Nat), s.chip.boot.exit_ = 3 → r.badDie = some d →
        exec (.selfTest r) s = .next (withBoot s { s.chip.boot with err := 3, detail := d })) ∧
      (∀ r : TestReport, s.chip.boot.exit_ = 3 → r.badDie = none → ∃ t, exec (.selfTest r) s = .next t ∧
        t.chip.boot.exit_ = 4 ∧ t.node = s.node ∧
        ∀ q ∈ r.badTiles, 1216 * q.1 + 38 * q.2.1 + q.2.2 ∈ t.chip.boot.failed) ∧
      (s.chip.boot.exit_ = 4 → ∃ t, exec .defectMap s = .next t ∧ t.chip.boot.exit_ = 7 ∧
        ∀ p ∈ s.chip.boot.failed, (t.node.physTile p).state ≠ 0) ∧
      (s.chip.boot.exit_ = 7 → exec (.firmwareBroadcast []) s = .next (withBoot s { s.chip.boot with exit_ := 8 }))))

/-- Upkeep of the tiers: the background fill takes the lowest region not yet initialised and ends with the last; a
transfer that failed its CRC counts each repeat in RETRY, and a channel that five of them do not restore resets the
module; a write-back takes the oldest line of its queue, corrects what the decoder can, and writes a line poisoned in
which it finds an uncorrectable word; the scrubber reads the next line, counts a correction with the word's address,
records an uncorrectable word with its own, and counts a pass at the end. Whatever silicon changed before the read. -/
def Obligations.MemoryUpkeep : Prop :=
  (∀ (s : State) (l : List Nat) (r : Nat), tiersRun s → s.node.mems.filled = some l → r ∉ l → (∀ k, k < r → k ∈ l) →
    0x100000000000 + 16777216 * r < s.node.cxlLimit → ∃ t, exec .backgroundFill s = .next t ∧
      (t.node.mems.filled = none ∨ t.node.mems.filled = some (l ++ [r])) ∧
      (l.length + 1 < ceilDiv (s.node.cxlLimit - 0x100000000000) 16777216 → t.node.mems.filled = some (l ++ [r])) ∧
      (∀ f v a, (s.node.place a ≠ .cxl ∨ (t.node.mems.filled ≠ none ∧ (a - 0x100000000000) / 16777216 ≠ r)) →
        byteAt t f v a = byteAt s f v a) ∧
      (∀ f v a, s.node.place a = .cxl → (a - 0x100000000000) / 16777216 = r → byteAt t f v a = 0) ∧
      t.node.tiles = s.node.tiles ∧ t.chip = s.chip) ∧
  (∀ s : State, s.node.quiet = true → s.node.mems.filled = none → exec .backgroundFill s = .next s) ∧
  (∀ (s : State) (ch k : Nat) (ok : Bool), tiersRun s → (k ≠ 5 ∨ ok = true) →
    exec (.channelRetrain ch ⟨k, ok⟩) s = .next { s with node := { s.node with mems := { s.node.mems with
      gLink := setFld s.node.mems.gLink 32 16 (Min.min 65535 (fld s.node.mems.gLink 32 16 + k)) } } }) ∧
  (∀ (s : State) (ch : Nat), tiersRun s → noReset s → s.node.mems.ue = 0 → ch < 128 →
    ∃ t, exec (.channelRetrain ch ⟨5, false⟩) s = .next t ∧
      heldBy { s with node := { s.node with mems := t.node.mems } } t 7 1 ∧
      bit t.node.mems.ue 63 = true ∧ fld t.node.mems.ue 51 3 = 3 ∧ fld t.node.mems.ue 48 3 = 1 ∧ fld t.node.mems.ue 54 8 = ch) ∧
  (∀ (s₀ : State) (cxl : Bool) (unit : Nat) (up : List Upset),
    let s := struck s₀ up
    let k := if cxl then 128 + unit else unit
    tiersRun s →
    (Map.getD s.node.mems.wbq k [] = [] → exec (.correctionWriteBack cxl unit up) s₀ = .next s) ∧
    (∀ a rest, Map.getD s.node.mems.wbq k [] = a :: rest →
      (s.node.stalledAt a = true → exec (.correctionWriteBack cxl unit up) s₀ = .next s) ∧
      (s.node.stalledAt a = false → (∀ w ∈ lineOf a, s.node.storedEcc noView w ≠ .bad) →
        ∃ t, exec (.correctionWriteBack cxl unit up) s₀ = .next t ∧ (∀ w ∈ lineOf a, Map.look t.node.mems.soft w = none) ∧
          t = { s with node := { s.node with mems := { s.node.mems with
            wbq := Map.put s.node.mems.wbq k rest, soft := t.node.mems.soft } } } ∧
          ∀ w, w ∉ lineOf a → Map.look t.node.mems.soft w = Map.look s.node.mems.soft w) ∧
      (s.node.stalledAt a = false → a < 0x002580000000 → a % 64 = 0 → noReset s → s.node.mems.ue = 0 →
        ∀ w, lineFlawed s a w .bad → ∃ t, exec (.correctionWriteBack cxl unit up) s₀ = .next t ∧ t.chip.chr.held = some 1 ∧
          bit t.node.mems.ue 63 = true ∧ fld t.node.mems.ue 51 3 = 0 ∧ fld t.node.mems.ue 0 48 = 8 * w))) ∧
  (∀ (s₀ : State) (up : List Upset),
    let s := struck s₀ up
    let p := s.node.mems.gPos
    tiersRun s → fld s.node.mems.gScrub 0 10 ≠ 0 → p < gddrLines →
    (lineSound s (64 * p) → exec (.scrub false up) s₀ = .next { s with node := { s.node with mems := scrubbed s p } }) ∧
    (∀ w e, (e = .one ∨ e = .two) → lineFlawed s (64 * p) w e →
      ∃ t, exec (.scrub false up) s₀ = .next t ∧ t.chip = s.chip ∧ t.node.mems.gPos = (scrubbed s p).gPos ∧
        t.node.mems.gScrub = (scrubbed s p).gScrub ∧ t.node.mems.data = s.node.mems.data ∧
        t.node.mems.bad = s.node.mems.bad ∧ t.node.mems.soft = s.node.mems.soft ∧
        fld t.node.mems.gLink 0 32 = Min.min (2 ^ 32 - 1) (fld s.node.mems.gLink 0 32 + 1) ∧
        fld t.node.mems.gLast 0 48 = 8 * w ∧ bit t.node.mems.gLast 56 = (e == .two) ∧
        fld t.node.mems.gLast 48 8 = p / 25 % 128) ∧
    (∀ w, lineFlawed s (64 * p) w .bad → noReset s → s.node.mems.ue = 0 → Map.look s.node.mems.soft w = none →
      ∃ t, exec (.scrub false up) s₀ = .next t ∧ t.chip.chr.held = some 1 ∧
        bit t.node.mems.ue 63 = true ∧ fld t.node.mems.ue 51 3 = 1 ∧ fld t.node.mems.ue 0 48 = 8 * w)) ∧
  (∀ (s₀ : State) (cxl : Bool) (up : List Upset), tiersRun (struck s₀ up) →
    fld (if cxl then (struck s₀ up).node.mems.cScrub else (struck s₀ up).node.mems.gScrub) 0 10 = 0 →
    exec (.scrub cxl up) s₀ = .next (struck s₀ up)) ∧
  (∀ (i : Instr) (s : State) (cxl : Bool) (ch k unit : Nat) (ok : Bool) (up : List Upset), ¬s.chip.boot.ready = true →
    s.node.quiet = true →
    (i = .backgroundFill ∨ i = .channelRetrain ch ⟨k, ok⟩ ∨ i = .correctionWriteBack cxl unit up ∨ i = .scrub cxl up) →
    exec i s = .next s)

/-- Readings reach the governor: a regulator's power is taken into its domain and into the newest sample of U (log entry
57), α moves towards measured over estimated (a free quotient where nothing is estimated: log entry 31) and stays
within its limits, a pending request may be admitted and an admitted one stays so, a temperature below every limit is
only stored, one of 115 °C or more trips the module. Exact where no request waits for admission; without a governor
that runs nothing changes. The governor acts: a condition that lasts lowers the target of its group, or of every
group, by one setting and holds it; starvation admits the oldest pending request at code 0 and reports it, in Active
alone; a voltage change moves one setting. Else nothing changes. -/
def Obligations.Governor : Prop :=
  ((∀ (i : Instr) (s : State) (d w : Nat), s.node.quiet = true → ¬governs s →
      (i = .regulatorReading d w ∨ i = .thermalLowerTimer (some d) ∨ i = .thermalLowerTimer none) → exec i s = .next s) ∧
    (∀ (s : State) (d w : Nat), governs s → ∃ t, exec (.regulatorReading d w) s = .next t ∧ t.chip = s.chip ∧
      (d < 64 → (t.node.tg d).power = w ∧ (t.node.tg d).alpha = (s.node.tg d).alpha) ∧ admits s t) ∧
    (∀ s : State, s.node.quiet = true → ∃ t, exec .alphaUpdate s = .next t ∧ t.chip = s.chip ∧ admits s t ∧
      ∀ g, g < 64 → (∀ r ∈ s.node.gov.reqs, r.g ≠ g) → (t.node.tg g).alpha = (s.node.tg g).alpha) ∧
    (∀ (s : State) (d w : Nat), governs s → noneAsks s → ∃ t, exec (.regulatorReading d w) s = .next t ∧
      t.chip = s.chip ∧ t.node.tiles = s.node.tiles ∧ t.node.gov.reqs = s.node.gov.reqs ∧
      (d < 64 → t.node.tg d = { s.node.tg d with power := w }) ∧
      (64 ≤ d → Map.look t.node.gov.dpower d = some w ∧ t.node.gov.tgs = s.node.gov.tgs) ∧
      averaged { s.node.gov with tgs := t.node.gov.tgs, dpower := t.node.gov.dpower } t.node.gov
        (sampleOf t s.chip.meter.pMain s.chip.meter.pAux :: s.node.gov.samples.tail)) ∧
    (∀ s : State, s.node.quiet = true → noneAsks s → ∃ t, exec .alphaUpdate s = .next t ∧ t.chip = s.chip ∧
      t.node.gov.reqs = s.node.gov.reqs ∧
      ∀ g, g < 64 →
        ((∃ r ∈ s.node.gov.reqs, r.g = g) → plainWatts s g ≠ 0 → t.node.tg g = { s.node.tg g with
          alpha := alphaNext (s.node.tg g).alpha (((s.node.tg g).power : Rat) / 10) (plainWatts s g) }) ∧
        ((∃ r ∈ s.node.gov.reqs, r.g = g) → plainWatts s g = 0 →
          ∃ q, 1 / 2 ≤ q ∧ q ≤ 2 ∧ t.node.tg g = { s.node.tg g with alpha := q }) ∧
        (¬(∃ r ∈ s.node.gov.reqs, r.g = g) → t.node.tg g = s.node.tg g)) ∧
    (∀ (s : State) (g : Nat) (b : Bool) (c : Nat), governs s → noneAsks s → noneThrottled s → s.chip.pins.thermN = true →
      c ≤ 104 → (s.node.tg g).temp ≤ 105 → c ≤ limitAt s.chip.hwk 32 → (s.node.tg g).temp ≤ limitAt s.chip.hwk 32 →
      ∃ t, exec (.temperatureEvent (.tg g b) c) s = .next t ∧ t.node = (withTg s g (if b then { s.node.tg g with tempB := c }
          else { s.node.tg g with tempA := c })).node ∧ t.chip.pins.thermN = true ∧ t.chip.hwk = s.chip.hwk ∧
        t.chip.chr = s.chip.chr) ∧
    (∀ (s : State) (sn : Sensor) (c : Nat), noReset s → 115 ≤ c → s.chip.pins.thermN = true →
      ∃ t, exec (.temperatureEvent sn c) s = .next t ∧ t.chip.pins.thermN = false ∧ t.chip.chr.held = some 1 ∧
        (3, 1) ∈ t.chip.chr.asserted ∧ t.node.job = .none ∧ bit t.chip.hwk.evt 63 = true) ∧
    (∀ (s : State) (sn : Sensor) (c : Nat), s.node.quiet = true → s.chip.chr.held ≠ none → s.chip.pins.thermN = false →
      c < 105 → (∀ k ∈ s.chip.pins.hot, k = sensorNum sn) →
      ∃ t, exec (.temperatureEvent sn c) s = .next t ∧ t.chip.pins.thermN = true ∧ t.node = s.node ∧
        (3 ∉ s.chip.chr.minHeld → s.chip.chr.stopped = false → t.chip.chr.asserted = without s.chip.chr.asserted 3))) ∧
  ((∀ (s : State) (g : Nat), governs s →
      ((s.node.tg g).temp ≤ limitAt s.chip.hwk 32 → exec (.thermalLowerTimer (some g)) s = .next s) ∧
      (limitAt s.chip.hwk 32 < (s.node.tg g).temp → ∃ t, exec (.thermalLowerTimer (some g)) s = .next t ∧
        t.chip = s.chip ∧ t.node.tg g = { s.node.tg g with target := (s.node.tg g).target - 1, throttle := true } ∧
        admits s t ∧ (noneAsks s →
          (∀ k, k ≠ g → t.node.tg k = s.node.tg k) ∧ t.node.tiles = s.node.tiles ∧
          t.node.gov.reqs.length = s.node.gov.reqs.length ∧
          ∀ (k : Nat) (r : Req), s.node.gov.reqs[k]? = some r → t.node.gov.reqs[k]? = some (if r.admitted = true ∧ r.g = g then
            { r with v := Min.min r.v ((s.node.tg g).target - 1) } else r)))) ∧
    (∀ s : State, governs s →
      (s.node.xtemp ≤ limitAt s.chip.hwk 40 → exec (.thermalLowerTimer none) s = .next s) ∧
      (limitAt s.chip.hwk 40 < s.node.xtemp → ∃ t, exec (.thermalLowerTimer none) s = .next t ∧ t.chip = s.chip ∧
        ∀ g, g < 64 → t.node.tg g = { s.node.tg g with target := (s.node.tg g).target - 1, throttle := true })) ∧
    (∀ s : State, s.node.quiet = true → (noneAsks s ∨ s.node.asleep = true) → exec .starvationAdmission s = .next s) ∧
    (∀ (s : State) (r : Req), s.node.quiet = true → s.node.asleep = false → s.node.gov.reqs = [r] → r.admitted = false → s.chip.hwk.evt = 0 → r.g < 64 →
      ∃ t, exec .starvationAdmission s = .next t ∧ t.node.gov.reqs = [{ r with admitted := true, v := 0 }] ∧
        t.node.tg r.g = { s.node.tg r.g with gated := false, target := 0 } ∧ bit t.chip.hwk.evt 63 = true ∧
        fld t.chip.hwk.evt 52 4 = 6 ∧ fld t.chip.hwk.evt 46 6 = r.g ∧ keepsMemory s t ∧
        ∀ p, r.phase = some p → ∀ u j, u ∈ s.node.tilesOn r.g → t.node.thread u j =
          if (s.node.thread u j).wait = .admission p then { s.node.thread u j with wait := .ready } else s.node.thread u j) ∧
    (∀ (s : State) (g : Nat), s.node.quiet = true →
      let x := s.node.tg g
      (x.powered = false → exec (.voltageChangeComplete g) s = .next s) ∧
      (x.powered = true → exec (.voltageChangeComplete g) s = .next (withTg s g { x with
        vset := if x.vset < x.target then x.vset + 1 else if x.target < x.vset then x.vset - 1 else x.vset }))))

/-- The meter: fed by the auxiliary supply or by VTEST it starts with its totals at zero and a seal event of kind 1, and
one of kind 5 with FAULT where its check fails; a full interval, a delayed tag, an opened seal switch and the ends of
test mode each close the interval with a signed reading; a second seal event of one moment is counted alone (log entry
108). Test mode needs TEST_N low, VTEST present and domains 0-69 off; with neither supply the meter stops (log entry
109). The tap writes SPX_FAST and U (log entry 57). While it does not run nothing changes. -/
def Obligations.MeterReadings : Prop :=
  (∀ (s : State) (ok : Bool), s.chip.meter.running = false → ok = Config.meterSound s.node.free →
    let x := s.chip.meter
    ((s.chip.pins.aux = true ∨ x.vtest = true) → ∃ t, exec .meterStart s = .next t ∧
      t.chip.pins = s.chip.pins ∧ t.chip.meter.running = true ∧ t.chip.meter.seq = 0 ∧ t.chip.meter.eMain = 0 ∧
      t.chip.meter.eAux = 0 ∧ t.chip.meter.tms = 0 ∧ t.chip.meter.tag = 0 ∧ t.chip.meter.ring = [] ∧
      t.chip.meter.testReq = x.testReq ∧ t.chip.meter.vtest = x.vtest ∧ t.chip.meter.id = x.id ∧ t.chip.meter.fault = !ok ∧
      (¬(x.testReq = true ∧ x.vtest = true ∧ allDark s) → t.node = { s.node with free := s.node.free + 1 } ∧
        t.chip.meter.test = false ∧ t.chip.meter.lastSeal = (if ok then 1 else 5) ∧
        t.chip.meter.sealCnt = Min.min 65535 (x.sealCnt + (if ok then 1 else 2))) ∧
      (x.testReq = true → x.vtest = true → allDark s → t.chip.meter.test = true ∧ t.chip.meter.lastSeal = 3 ∧
        t.chip.meter.sealCnt = Min.min 65535 (x.sealCnt + (if ok then 2 else 3)))) ∧
    (s.chip.pins.aux = false → x.vtest = false → exec .meterStart s = .next s)) ∧
  (∀ (s : State) (m : MeterMeas), s.chip.meter.running = true →
    let x := s.chip.meter
    let carried := if x.test then 0 else x.tag
    exec .meterStart s = .next s ∧
    (m.durMs = 1000 → m.checkOk = true → ∃ t, exec (.readingIntervalEnd m) s = .next t ∧ t.node = s.node ∧
      closed s.chip.fuses.serial.toNat x t.chip.meter m carried 0 ∧
      t.chip.meter.tag = x.waitTag.getD x.tag ∧ t.chip.meter.waitTag = none) ∧
    (m.durMs ≠ 1000 → exec (.readingIntervalEnd m) s = .next s) ∧
    (∀ g, x.waitTag = some g → 10 ≤ m.durMs → measured m → ∃ t, exec (.delayedTag m) s = .next t ∧
      t.node = s.node ∧ closed s.chip.fuses.serial.toNat x t.chip.meter m carried 0 ∧
      t.chip.meter.tag = g ∧ t.chip.meter.waitTag = none) ∧
    ((x.waitTag = none ∨ m.durMs < 10 ∨ 1000 < m.durMs) → exec (.delayedTag m) s = .next s) ∧
    (measured m → ∃ t, exec (.sealSwitchOpened m) s = .next t ∧ t.node = s.node ∧
      closed s.chip.fuses.serial.toNat x t.chip.meter m carried 1 ∧ t.chip.meter.lastSeal = 2) ∧
    ((m.durMs = 0 ∨ 1000 < m.durMs) → exec (.sealSwitchOpened m) s =
      .next (withMeter s { x with sealCnt := Min.min 65535 (x.sealCnt + 1), lastSeal := 2 }))) ∧
  (∀ (s : State) (m : MeterMeas),
    let x := s.chip.meter
    let due := x.running = true ∧ x.test = false ∧ m.vtest = true ∧ allDark s
    (due → measured m → ∃ t, exec (.testModeEnter m) s = .next t ∧ t.node = s.node ∧
      closed s.chip.fuses.serial.toNat x t.chip.meter m x.tag 1 ∧ t.chip.meter.test = true ∧
      t.chip.meter.testReq = true ∧ t.chip.meter.vtest = true ∧ t.chip.meter.lastSeal = 3) ∧
    (due → (m.durMs = 0 ∨ 1000 < m.durMs) → exec (.testModeEnter m) s = .next (withMeter s { x with
      testReq := true, vtest := true, test := true, sealCnt := Min.min 65535 (x.sealCnt + 1), lastSeal := 3 })) ∧
    (¬due → exec (.testModeEnter m) s = .next (withMeter s { x with testReq := true, vtest := m.vtest })) ∧
    (x.running = true → x.test = true → (s.chip.pins.aux = true ∨ m.vtest = true) → measured m →
      ∃ t, exec (.testModeLeave m) s = .next t ∧ t.node = s.node ∧
        closed s.chip.fuses.serial.toNat x t.chip.meter m 0 1 ∧ t.chip.meter.test = false ∧
        t.chip.meter.testReq = false ∧ t.chip.meter.vtest = m.vtest ∧ t.chip.meter.lastSeal = 4) ∧
    (s.chip.pins.aux = false → m.vtest = false →
      exec (.testModeLeave m) s = .next (withMeter s { x with testReq := false, vtest := false, running := false })) ∧
    ((s.chip.pins.aux = true ∨ m.vtest = true) → (x.running = false ∨ x.test = false) →
      exec (.testModeLeave m) s = .next (withMeter s { x with testReq := false, vtest := m.vtest }))) ∧
  (∀ (s : State) (mw cw : Nat), s.node.quiet = true → s.chip.meter.running = true → noneAsks s →
    ∃ t, exec (.tapUpdate mw cw) s = .next t ∧ t.node.tiles = s.node.tiles ∧
      t.chip = { s.chip with meter := { s.chip.meter with pMain := mw, pAux := cw, tick := (s.chip.meter.tick + 1) % 65536 } } ∧
      (governs s → averaged s.node.gov t.node.gov (sampleOf s mw cw :: s.node.gov.samples))) ∧
  (∀ (s : State) (mw cw : Nat) (m : MeterMeas), s.node.quiet = true → s.chip.meter.running = false →
    exec (.tapUpdate mw cw) s = .next s ∧ exec (.readingIntervalEnd m) s = .next s ∧ exec (.delayedTag m) s = .next s ∧
    exec (.sealSwitchOpened m) s = .next s)

/-- A write of a register that is reached changes its fields by their access codes; one that its domain does not hold, or
while the region cannot be reached, changes nothing; one into SPX, of any width and at any address of it, and
elsewhere a partial or misaligned one and one into a hole change nothing and are logged (which KIND where two apply:
DEDUCED, log entry 39). WRITE_REG changes the bits under its mask, and is refused where these name a read-only,
reserved or locked bit (SPX and reserved fields among them: log entry 39), and outside the region. -/
def Obligations.RegisterWrites : Prop :=
  (∀ (s : State) (a : Nat) (v : Word), reached s a → regPlace a → (regAt a = .fdbgCtl → bit v 0 = false) →
    let x := (regAt a).access
    ∃ t, exec (.registerWrite a 8 v) s = .next t ∧ keepsMemory s t ∧ t.node.job = s.node.job ∧
      t.chip.fuses = s.chip.fuses ∧ t.node.ermLog = (if regAt a = .ermLog then t.node.ermLog else s.node.ermLog) ∧
      t.regWord (regAt a) a &&& (x.rw ||| x.rwl ||| x.w1c) =
        writtenBits x s.chip.boot.locked (s.regWord (regAt a) a) v &&& (x.rw ||| x.rwl ||| x.w1c)) ∧
  (∀ (s : State) (a width : Nat) (v : Word), s.node.quiet = true →
    (s.reachable = false ∨ (regPlace a ∧ width = 8 ∧ s.regOn (regAt a) = false)) →
    exec (.registerWrite a width v) s = .next s) ∧
  (∀ (s : State) (a width : Nat) (v : Word) (kind : Nat), s.node.quiet = true → s.reachable = true →
    0x030000000000 ≤ a → a < 0x030100000000 →
    ((inSpx a ∧ kind = 3) ∨ (¬inSpx a ∧ (width ≠ 8 ∨ a % 8 ≠ 0) ∧ kind = 2) ∨
      (¬inSpx a ∧ width = 8 ∧ a % 8 = 0 ∧ regAt a = .hole ∧ kind = 1)) →
    ∃ t, exec (.registerWrite a width v) s = .next t ∧ logs s t kind a) ∧
  (∀ (s : State) (e : Envelope) (a : Nat) (v m : Word), passes s e 0x0B (writeArgs a v m) →
    (¬(0x030000000000 ≤ a ∧ a < 0x030100000000) → ∃ t, exec (.writeReg e a v m) s = .next t ∧ answered s t e 0x0B 8) ∧
    (regPlace a → fixedBits a &&& m ≠ 0 → ∃ t, exec (.writeReg e a v m) s = .next t ∧ answered s t e 0x0B 8) ∧
    (reached s a → regPlace a → fixedBits a &&& m = 0 → regAt a ≠ .fdbgCtl → (∀ lt, regAt a ≠ .tlc lt 0x008) →
      let x := (regAt a).access
      ∃ u t, accepted s u e 0x0B ∧ exec (.writeReg e a v m) s = .next t ∧
        t.chip.sec.lastSeq = BitVec.ofNat 64 e.seq ∧ t.node.out = u.node.out ∧
        t.regWord (regAt a) a &&& (x.rw ||| x.w1c) =
          ((((s.regWord (regAt a) a) &&& ~~~(x.rw &&& m)) ||| (v &&& x.rw &&& m)) &&& ~~~(x.w1c &&& m &&& v)) &&&
            (x.rw ||| x.w1c)))

/-- The rows of single registers: HOLD, DBG_EN and FORCE of a tile's TLC block, and the reads that clear a count. The
debug window: GO starts an access, which joins the queue behind the instructions that name its array, and does nothing
while one is under way; when its turn has come a read leaves the chunk in ERM_FDBG_DATA and a write puts that
register, as it stands then (log entry 98), into the cell; a selection that was bad at GO, debug mode off and an array
that was not allocated at GO end it with their errors, in that order (DEDUCED, log entry 40), whatever the fields hold
by then. -/
def Obligations.RegisterRows : Prop :=
  ((∀ (s : State) (lt : Nat) (v : Bool), tlcReached s lt →
      exec (.tlcHoldWrite lt v) s = .next (withTile s lt { s.node.tile lt with hold := v }) ∧
      exec (.dbgEnWrite lt v) s = .next (withTile s lt { s.node.tile lt with dbgEn := v }) ∧
      exec (.force lt v) s = .next (withTile s lt { s.node.tile lt with force := v })) ∧
    (∀ (i : Instr) (s : State) (a : Nat) (n : Node) (c : Chip), readClears s i = some (a, n, c) → reached s a →
      exec i s = .next { s with
        node := { n with free := s.node.free + 2, out := s.node.out ++ [.regWord a (s.regWord (regAt a) a)] }, chip := c })) ∧
  ((∀ s : State, reached s 0x030008010000 →
      (fld s.node.fdbgCtl 1 3 = 1 → exec .go s = .next s) ∧
      (fld s.node.fdbgCtl 1 3 ≠ 1 → ∃ t, exec .go s = .next t ∧ fld t.node.fdbgCtl 1 3 = 1 ∧ t.chip = s.chip ∧
        fld t.node.fdbgCtl 12 28 = fld s.node.fdbgCtl 12 28 ∧ keepsMemory s t ∧
        (pickedWell s → ((s.node.tile (picked s).1).arr (picked s).2.1).alloc = true →
          t.node.tile (picked s).1 = { s.node.tile (picked s).1 with
            queue := (s.node.tile (picked s).1).queue ++ [{ op := .fdbg (picked s).2.2.1 (picked s).2.2.2.1 (picked s).2.2.2.2
                                                            f := (picked s).2.1, thr := 0, pc := 0
                                                            id := (s.node.tile (picked s).1).opSeq }]
            opSeq := (s.node.tile (picked s).1).opSeq + 1 }) ∧
        (¬(pickedWell s ∧ ((s.node.tile (picked s).1).arr (picked s).2.1).alloc = true) → t.node.tiles = s.node.tiles ∧
          ∃ bad, t.node.fdbgAt = some ((picked s).1, bad) ∧ (bad = true ↔ ¬pickedWell s)))) ∧
    (∀ s : State, s.node.quiet = true → fld s.node.fdbgCtl 1 3 ≠ 1 → exec .fdbgAccessComplete s = .next s) ∧
    (∀ (s : State) (lt code : Nat) (bad : Bool), s.node.quiet = true → fld s.node.fdbgCtl 1 3 = 1 →
      (∀ kv ∈ s.node.tiles, kv.2.hasFdbg = false) → s.node.fdbgAt = some (lt, bad) →
      code = (if bad then 5 else if (s.node.tile lt).dbgEn then 4 else 3) →
      exec .fdbgAccessComplete s = .next { s with node := { s.node with
        fdbgCtl := setFld s.node.fdbgCtl 1 3 code, fdbgAt := none } }) ∧
    (∀ (s : State) (lt k c f id : Nat) (wr : Bool), s.node.quiet = true → fld s.node.fdbgCtl 1 3 = 1 →
      s.node.tiles = [(lt, s.node.tile lt)] → (s.node.tile lt).dbgEn = true →
      (s.node.tile lt).queue = [{ op := .fdbg k c wr, f := f, thr := 0, pc := 0, id := id }] →
      ∃ t, exec .fdbgAccessComplete s = .next t ∧ fld t.node.fdbgCtl 1 3 = 2 ∧ (t.node.tile lt).queue = [] ∧ t.chip = s.chip ∧
        (wr = false → t.node.fdbgData = ((s.node.tile lt).arr f).chunk k c ∧
          ∀ g, (t.node.tile lt).arr g = (s.node.tile lt).arr g) ∧
        (wr = true → (t.node.tile lt).arr f = ((s.node.tile lt).arr f).setChunk k c s.node.fdbgData ∧
          ∀ g, g ≠ f → (t.node.tile lt).arr g = (s.node.tile lt).arr g)))

/-- The commands of the configuration store and the fuses, accepted: ACTIVATE names its slot for the next sequence in
place of its partner, SELECT_MODE the mode, ENROL takes the lowest empty owner slot, REVOKE revokes one for good, not
the signer's own. READ and IMAGE: a read of one register returns its value over the path that asked and a count of 0
or above 1,024 is refused; an image fragment lies in its slot at its place, unless there is no such slot or no room
for it (log entry 104), or the slot is active or waits to be, and one above 8,192 bytes is discarded; the answer to
IMAGE has an OPCODE other than 0x00, which and its SEQ are free values. Neither is served on the sideband. Of every
unsigned question: one that does not reach Luna has no effect, and a message of a KIND that no host may send is
refused with VERSION. -/
def Obligations.StoreAndReads : Prop :=
  ((∀ (s : State) (e : Envelope) (k : Nat), passes s e 0x0C (leBytes k 1) → ownStatus s (.activate e k) = 0 →
      ∃ u t, accepted s u e 0x0C ∧ exec (.activate e k) s = .next t ∧ t.node = u.node ∧
        t.chip = { u.chip with sec := { u.chip.sec with slots := t.chip.sec.slots } } ∧
        t.chip.sec.slot k = { s.chip.sec.slot k with next := true } ∧
        t.chip.sec.slot (partner k) = { s.chip.sec.slot (partner k) with next := false } ∧
        ∀ j, j ≠ k → j ≠ partner k → t.chip.sec.slot j = s.chip.sec.slot j) ∧
    (∀ (s : State) (e : Envelope) (m : Nat), passes s e 0x0D (leBytes m 1) → m ≤ 3 →
      ∃ u, accepted s u e 0x0D ∧ exec (.selectMode e m) s =
        .next { u with chip := { u.chip with sec := { u.chip.sec with modeNext := some m } } }) ∧
    (∀ (s : State) (e : Envelope) (hash i : Nat) (b : Bool), passes s e 0x0E (leBytes hash 48) → i < 4 →
      s.chip.fuses.owners[i]? = some (none, b) → (∀ j, j < i → ∀ o, s.chip.fuses.owners[j]? = some o → o.1 ≠ none) →
      ∃ u, accepted s u e 0x0E ∧ exec (.enrol e hash) s = .next { u with chip := { u.chip with
        fuses := { s.chip.fuses with owners := s.chip.fuses.owners.set i (some hash, b) } } }) ∧
    (∀ (s : State) (e : Envelope) (k : Nat) (o : Option Nat × Bool), passes s e 0x0F (leBytes k 1) → k ≤ 3 →
      s.chip.fuses.owners[k]? = some o →
      ∃ u, accepted s u e 0x0F ∧ exec (.revoke e k) s = .next { u with chip := { u.chip with
        fuses := { s.chip.fuses with owners := s.chip.fuses.owners.set k (o.1, true) } } })) ∧
  ((∀ (i : Instr) (s : State) (a : Asker), question i = some a → s.node.quiet = true →
      unheard i s a.path a.h ∧
      (heard s a.path a.h 40 → a.odd = true →
        ∃ t, exec i s = .next t ∧ if a.path = .i3c then t = s else refusedVersion s t a)) ∧
    (∀ (s : State) (a : Asker) (addr count : Nat), a.path ≠ .i3c → a.odd = false →
      (heard s a.path a.h 40 → (count = 0 ∨ 1024 < count) →
        ∃ t, exec (.read a addr count) s = .next t ∧ refusedVersion s t a) ∧
      (heard s a.path a.h 48 → count = 1 → reached s addr → regPlace addr → ∃ t f, exec (.read a addr count) s = .next t ∧
        framed a.path a.h (s.node.hostHeader 8 a.ctx 8 (mgmtSpec 4)) f ∧
        t.node.out = s.node.out ++ [.readData a.path a.host a.ctx [s.regWord (regAt addr) addr] f] ∧ keepsMemory s t ∧
        t.node.job = s.node.job ∧ ((regAt addr).access.rc = 0 → t.chip = s.chip ∧ t.node.tiles = s.node.tiles))) ∧
    (∀ (s : State) (a : Asker) (slot addr : Nat) (data : List Byte) (signer : Option Nat) (body : ImageBody),
      heard s a.path a.h 56 → a.path ≠ .i3c → a.odd = false →
      let x := s.chip.sec.slot slot
      let busy := x.next = true ∨ (x.active = true ∧ (s.chip.sec.slot (partner slot)).next = false)
      let room := slot ≤ 11 ∧ addr + data.length ≤ 2 ^ 28 ∧ s.chip.sec.stored + data.length ≤ 2 ^ 28
      (8192 < data.length → ∃ t, exec (.image a slot addr data signer body) s = .next t ∧ t.node.out = s.node.out ∧
        onlySent { s with node := { s.node with bycode := s.node.bycode + 1 } } t a.path a.h) ∧
      (data.length ≤ 8192 → ∃ t status op seq detail f, exec (.image a slot addr data signer body) s = .next t ∧
        framed a.path a.h (s.node.hostHeader 8 a.ctx 16 (mgmtSpec 2)) f ∧
        t.node.out = s.node.out ++ [.response a.path a.host a.ctx 1 op status seq detail f] ∧ 1 ≤ op ∧ op ≤ 255 ∧
        t.node.tiles = s.node.tiles ∧ keepsMemory s t ∧
        (¬room → status = 8 ∧ t.chip = s.chip) ∧ (room → busy → status = 7 ∧ t.chip = s.chip) ∧
        (room → ¬busy → status = 0 ∧
          (∀ k b, data[k]? = some b → Map.look (t.chip.sec.slot slot).bytes (addr + k) = some b) ∧
          (t.chip.sec.slot slot).signer = signer ∧ (t.chip.sec.slot slot).body = body ∧
          (t.chip.sec.slot slot).active = x.active ∧ ∀ j, j ≠ slot → t.chip.sec.slot j = s.chip.sec.slot j))) ∧
    (∀ (s : State) (a : Asker) (addr count slot : Nat) (data : List Byte) (signer : Option Nat) (body : ImageBody),
      heard s a.path a.h 0 → a.path = .i3c →
      exec (.read a addr count) s = .next s ∧ exec (.image a slot addr data signer body) s = .next s))

/-- Attestation: each SPDM question is answered once the negotiation has come as far as it needs, and answered with ERROR
before that and for a slot, an index or algorithms that there are not; the measurements are those of phase 2, and the
sixth is the loaded job's plan hash. The lengths of the answers and the bytes of certificates are free values (log
entries 30 and 110). The sideband: MCTP control and PLDM requests are answered from the state and change nothing (what
is free in an answer: log entry 46); SET_ENDPOINT_ID takes every number that names an endpoint; ENTDAA, and SETDASA
for the strapped address, give the dynamic address; the meter's own bus reads SPX at the three bytes of its offset
while the meter runs. The test access port (log entry 106): BYPASS, IDCODE, SAMPLE and EXTEST are taken, and a secure
instruction while DEBUG is 1; SAMPLE takes the pins into the boundary-scan register; Test-Logic-Reset selects IDCODE;
a secure instruction while DEBUG is 0 is a violation: logged, and source 11 holds the module. -/
def Obligations.AttestationAndSideband : Prop :=
  ((∀ (i : Instr) (s : State) (a : Asker) (need : Nat) (r : Option (Nat × List (BitVec 384) × Bool × Nat)),
      attests s i = some (a, need, r) → a.odd = false →
      (heard s a.path a.h (40 + Config.spdmBytes 0x7F) → (s.chip.sec.spdm < need ∨ r = none) →
        ∃ t, exec i s = .next t ∧ spoke s t a 0x7F [] false) ∧
      (∀ code content signed after, heard s a.path a.h (40 + Config.spdmBytes code) → need ≤ s.chip.sec.spdm →
        r = some (code, content, signed, after) →
        ∃ t, exec i s = .next t ∧
          spoke { s with chip := { s.chip with sec := { s.chip.sec with spdm := after } } } t a code content signed)) ∧
    ∀ (s : State) (k : Nat), 1 ≤ k → k ≤ 6 → s.block k = blockIs s k) ∧
  ((∀ (i : Instr) (s : State) (kind : Nat) (c : List Nat), sidebandAnswer s i = some (kind, c) → onSideband s →
      exec i s = .next (said s (.mctp kind c))) ∧
    (∀ (i : Instr) (s : State) (kind : Nat), sidebandOpen i = some kind → onSideband s →
      ∃ c, exec i s = .next { said s (.mctp kind c) with
        node := { (said s (.mctp kind c)).node with free := s.node.free + 1 } }) ∧
    (∀ (s : State) (eid : Nat), onSideband s →
      (1 ≤ eid → eid ≤ 254 → exec (.setEndpointId eid) s =
        .next (said { s with chip := { s.chip with sec := { s.chip.sec with eid := eid } } } (.mctp 0x01 [eid]))) ∧
      ((eid = 0 ∨ 254 < eid) → exec (.setEndpointId eid) s = .next (said s (.mctp 0x01 [])))) ∧
    (∀ (i : Instr) (s : State) (kind : Nat), ((sidebandAnswer s i).map (·.1) = some kind ∨ sidebandOpen i = some kind) →
      s.node.quiet = true → s.served .i3c = false → exec i s = .next s) ∧
    (∀ (s : State) (static addr : Nat), onSideband s →
      exec (.entdaa addr) s = .next { s with chip := { s.chip with sec := { s.chip.sec with dynAddr := some addr } } } ∧
      (static = 0x30 + s.chip.pins.straps → exec (.setdasa static addr) s =
        .next { s with chip := { s.chip with sec := { s.chip.sec with dynAddr := some addr } } }) ∧
      (static ≠ 0x30 + s.chip.pins.straps → exec (.setdasa static addr) s = .next s)) ∧
    (∀ (s : State) (off : Nat), s.node.quiet = true →
      (s.chip.meter.running = false → exec (.meterI3cRead off) s = .next s) ∧
      (s.chip.meter.running = true → off % 8 = 0 → off < 0x14000 →
        exec (.meterI3cRead off) s = .next (said s (.meterWord (s.regWord (regAt (0x030003000000 + off)) (0x030003000000 + off))))))) ∧
  ((∀ (s : State) (i : Nat), i < 4 ∨ s.chip.sec.debug = true → exec (.tapInstruction i) s =
      .next { s with chip := { s.chip with sec := { s.chip.sec with
        tapReset := false, tapInstr := i, scan := if i = 2 then s.pads else s.chip.sec.scan } } }) ∧
    (∀ s : State, let p := s.pads
      p.length = 14 ∧ p[0]? = some (some s.chip.pins.resetN) ∧ p[1]? = some (some s.chip.pins.pwrOk) ∧
      ((s.chip.sec.tapReset = true ∨ s.chip.sec.tapInstr ≠ 3) →
        p[2]? = some s.alertPin ∧ p[3]? = some s.thermPin ∧ p[4]? = some s.uartTx ∧ p[5]? = some s.pairSync) ∧
      (s.chip.sec.tapReset = false → s.chip.sec.tapInstr = 3 → ∀ k, 2 ≤ k → k < 10 → p[k]? = some (s.chip.sec.scan.getD k none))) ∧
    (∀ s : State, exec .testLogicReset s =
      .next { s with chip := { s.chip with sec := { s.chip.sec with tapReset := true, tapInstr := 1 } } }) ∧
    (∀ (s : State) (i : Nat), 4 ≤ i → s.chip.sec.debug = false → noReset s → ∃ t, exec (.tapInstruction i) s = .next t ∧
      heldBy s t 11 0 ∧ t.chip.fuses.vlog =
        (if s.chip.fuses.vlog.length < 32 then s.chip.fuses.vlog ++ [1] else s.chip.fuses.vlog)))

/-- What a command asks of the always-on domain is done within its step: no reset source, job tag, governor event, thermal
trip, retained map or flaw of the retained memory is left waiting, from every state in which none was. -/
def Obligations.AsksAreServed : Prop :=
  ∀ s t : State, settledAll s → step s = .next t → settledAll t

/-- Every step keeps memory in its one form, so that equal memories are equal data. -/
def Obligations.MemoryStaysCanonical : Prop :=
  ∀ s t : State, canonical s → step s = .next t → canonical t

/-- Fuses only rise: no step lowers a security version counter, takes an entry off the violation log or the field defect
list, empties an owner slot, or takes a revocation back. -/
def Obligations.FusesOnlyRise : Prop :=
  ∀ s t : State, step s = .next t →
    s.chip.fuses.fwSvn ≤ t.chip.fuses.fwSvn ∧ s.chip.fuses.cfgSvn ≤ t.chip.fuses.cfgSvn ∧
    s.chip.fuses.vlog <+: t.chip.fuses.vlog ∧ s.chip.fuses.field <+: t.chip.fuses.field ∧
    s.chip.fuses.serial = t.chip.fuses.serial ∧
    ∀ (k : Nat) (o : Option Nat × Bool), s.chip.fuses.owners[k]? = some o → ∃ q : Option Nat × Bool, t.chip.fuses.owners[k]? = some q ∧
      (o.1 ≠ none → q.1 = o.1) ∧ (o.2 = true → q.2 = true)

/-- A base header is sent and read in one form: its bytes are 32, and 8 more with a residue; what a receiver reads from
the bytes of a header whose fields fit is that header, every field at every value; and what it reads of any bytes is a
header whose fields fit. -/
def Obligations.HeaderRoundTrip : Prop :=
  (∀ h : WireHdr, h.bytes.length = 32 + (if h.residue.isSome then 8 else 0)) ∧
  (∀ h : WireHdr, h.wf = true → WireHdr.ofBytes h.bytes = h) ∧
  (∀ b : List Byte, (WireHdr.ofBytes b).wf = true)
end

