-- ==== Sys2Proof/Laws/Map.lean ====
section
/-! SUPPORT. Laws of the sparse maps: a read after a write, and the canonical form that every operation keeps. -/
namespace Sys2Proof.Map

variable {α : Type}

theorem look_put_same (m : Map α) (k : Nat) (v : α) : look (put m k v) k = some v := by
  induction m with
  | nil => simp [put, look]
  | cons h t ih =>
    obtain ⟨a, b⟩ := h
    unfold put
    split
    · simp [look]
    · split
      · simp [look]
      · rename_i h1 h2
        simp [look, h2, ih]

theorem look_put_other (m : Map α) (k j : Nat) (v : α) (h : j ≠ k) : look (put m k v) j = look m j := by
  induction m with
  | nil => simp [put, look, h]
  | cons x t ih =>
    obtain ⟨a, b⟩ := x
    unfold put
    split
    · simp [look, h]
    · split
      · rename_i h2
        subst h2
        simp [look, h]
      · simp only [look, ih]

@[simp] theorem getD_put_same (m : Map α) (k : Nat) (v d : α) : getD (put m k v) k d = v := by
  simp [getD, look_put_same]

theorem getD_put_other (m : Map α) (k j : Nat) (v d : α) (h : j ≠ k) : getD (put m k v) j d = getD m j d := by
  simp [getD, look_put_other _ _ _ _ h]

theorem getD_put (m : Map α) (k j : Nat) (v d : α) : getD (put m k v) j d = if j = k then v else getD m j d := by
  split
  · subst_vars; simp
  · simp [getD_put_other, *]

@[simp] theorem put_put (m : Map α) (k : Nat) (v w : α) : put (put m k v) k w = put m k w := by
  induction m with
  | nil => simp [put]
  | cons x t ih =>
    obtain ⟨a, b⟩ := x
    by_cases h1 : k < a
    · simp [put, h1]
    · by_cases h2 : k = a
      · subst h2; simp [put]
      · simp [put, h1, h2, ih]

theorem look_del_other (m : Map α) (k j : Nat) (h : j ≠ k) : look (del m k) j = look m j := by
  induction m with
  | nil => rfl
  | cons x t ih =>
    obtain ⟨a, b⟩ := x
    unfold del
    split
    · rename_i h2
      subst h2
      simp [look, h, ih]
    · simp only [look, ih]

/-- The canonical form, with every number above `lo`. -/
def Above (lo : Nat) : Map α → Prop
  | [] => True
  | (a, _) :: t => lo < a ∧ Above a t

theorem wf_cons (a : Nat) (b : α) (t : Map α) : wf ((a, b) :: t) = true ↔ Above a t := by
  induction t generalizing a b with
  | nil => simp [wf, Above]
  | cons x t ih =>
    obtain ⟨c, d⟩ := x
    simp [wf, Above, ih c d]

theorem Above.weaken {lo lo' : Nat} (h : lo' ≤ lo) : ∀ {m : Map α}, Above lo m → Above lo' m
  | [], _ => trivial
  | (_, _) :: _, ⟨h1, h2⟩ => ⟨by omega, h2⟩

theorem above_put {lo : Nat} {m : Map α} {k : Nat} {v : α} (hk : lo < k) (h : Above lo m) : Above lo (put m k v) := by
  induction m generalizing lo with
  | nil => exact ⟨hk, trivial⟩
  | cons x t ih =>
    obtain ⟨a, b⟩ := x
    obtain ⟨h1, h2⟩ := h
    unfold put
    split
    · exact ⟨hk, by assumption, h2⟩
    · split
      · subst_vars; exact ⟨hk, h2⟩
      · exact ⟨h1, ih (by omega) h2⟩

theorem wf_put {m : Map α} (k : Nat) (v : α) (h : m.wf = true) : (put m k v).wf = true := by
  cases m with
  | nil => rfl
  | cons x t =>
    obtain ⟨a, b⟩ := x
    rw [wf_cons] at h
    unfold put
    split
    · rw [wf_cons]; exact ⟨by assumption, h⟩
    · split
      · subst_vars; rw [wf_cons]; exact h
      · rw [wf_cons]; exact above_put (by omega) h

theorem above_filter {lo : Nat} {m : Map α} (p : Nat × α → Bool) (h : Above lo m) : Above lo (m.filter p) := by
  induction m generalizing lo with
  | nil => exact trivial
  | cons x t ih =>
    obtain ⟨a, b⟩ := x
    obtain ⟨h1, h2⟩ := h
    rw [List.filter_cons]
    split
    · exact ⟨h1, ih h2⟩
    · exact ih (h2.weaken (by omega))

theorem wf_filter {m : Map α} (p : Nat × α → Bool) (h : m.wf = true) : (wf (m.filter p)) = true := by
  induction m with
  | nil => rfl
  | cons x t ih =>
    obtain ⟨a, b⟩ := x
    have h' := (wf_cons a b t).mp h
    rw [List.filter_cons]
    split
    · rw [wf_cons]; exact above_filter p h'
    · refine ih ?_
      cases t with
      | nil => rfl
      | cons y t => obtain ⟨c, d⟩ := y; exact (wf_cons c d t).mpr h'.2

theorem above_del {lo : Nat} {m : Map α} (k : Nat) (h : Above lo m) : Above lo (del m k) := by
  induction m generalizing lo with
  | nil => exact trivial
  | cons x t ih =>
    obtain ⟨a, b⟩ := x
    obtain ⟨h1, h2⟩ := h
    unfold del
    split
    · exact ih (h2.weaken (by omega))
    · exact ⟨h1, ih h2⟩

theorem wf_del {m : Map α} (k : Nat) (h : m.wf = true) : (del m k).wf = true := by
  induction m with
  | nil => rfl
  | cons x t ih =>
    obtain ⟨a, b⟩ := x
    have h' := (wf_cons a b t).mp h
    unfold del
    split
    · apply ih
      cases t with
      | nil => rfl
      | cons y t => obtain ⟨c, d⟩ := y; exact (wf_cons c d t).mpr h'.2
    · rw [wf_cons]; exact above_del k h'

theorem wf_mapVals {m : Map α} (f : α → α) (h : m.wf = true) : (mapVals f m).wf = true := by
  have key : ∀ lo (m : Map α), Above lo m → Above lo (mapVals f m) := by
    intro lo m
    induction m generalizing lo with
    | nil => intro _; exact trivial
    | cons x t ih => obtain ⟨a, b⟩ := x; intro ⟨h1, h2⟩; exact ⟨h1, ih a h2⟩
  cases m with
  | nil => rfl
  | cons x t => obtain ⟨a, b⟩ := x; rw [wf_cons] at h; exact (wf_cons a (f b) _).mpr (key a t h)

end Sys2Proof.Map
end

