-- ==== Sys2Proof/Laws/State.lean ====
section
/-! SUPPORT. One lemma per field per update of the state, so that no proof unfolds a record update; and what the reads of
registers, threads and tiles give after the writes. -/
namespace Sys2Proof.Machine

@[simp] theorem Thread.setV_hasCode (th : Thread) (r : Nat) (v : VReg) : (th.setV r v).hasCode = th.hasCode := rfl
@[simp] theorem Thread.setV_entry (th : Thread) (r : Nat) (v : VReg) : (th.setV r v).entry = th.entry := rfl
@[simp] theorem Thread.setV_pc (th : Thread) (r : Nat) (v : VReg) : (th.setV r v).pc = th.pc := rfl
@[simp] theorem Thread.setV_wait (th : Thread) (r : Nat) (v : VReg) : (th.setV r v).wait = th.wait := rfl
@[simp] theorem Thread.setV_s (th : Thread) (r : Nat) (v : VReg) : (th.setV r v).s = th.s := rfl
@[simp] theorem Thread.setV_p (th : Thread) (r : Nat) (v : VReg) : (th.setV r v).p = th.p := rfl
@[simp] theorem Thread.setV_a (th : Thread) (r : Nat) (v : VReg) : (th.setV r v).a = th.a := rfl
@[simp] theorem Thread.setV_k (th : Thread) (r : Nat) (v : VReg) : (th.setV r v).k = th.k := rfl
@[simp] theorem Thread.setV_mark (th : Thread) (r : Nat) (v : VReg) : (th.setV r v).mark = th.mark := rfl
@[simp] theorem Thread.setV_vote (th : Thread) (r : Nat) (v : VReg) : (th.setV r v).vote = th.vote := rfl
@[simp] theorem Thread.setV_exited (th : Thread) (r : Nat) (v : VReg) : (th.setV r v).exited = th.exited := rfl
@[simp] theorem Thread.setV_load (th : Thread) (r : Nat) (v : VReg) : (th.setV r v).load = th.load := rfl
@[simp] theorem Thread.setV_stores (th : Thread) (r : Nat) (v : VReg) : (th.setV r v).stores = th.stores := rfl
@[simp] theorem Thread.setV_vbusy (th : Thread) (r : Nat) (v : VReg) : (th.setV r v).vbusy = th.vbusy := rfl

@[simp] theorem Thread.setK_hasCode (th : Thread) (c v : Nat) : (th.setK c v).hasCode = th.hasCode := rfl
@[simp] theorem Thread.setK_entry (th : Thread) (c v : Nat) : (th.setK c v).entry = th.entry := rfl
@[simp] theorem Thread.setK_pc (th : Thread) (c v : Nat) : (th.setK c v).pc = th.pc := rfl
@[simp] theorem Thread.setK_wait (th : Thread) (c v : Nat) : (th.setK c v).wait = th.wait := rfl
@[simp] theorem Thread.setK_s (th : Thread) (c v : Nat) : (th.setK c v).s = th.s := rfl
@[simp] theorem Thread.setK_p (th : Thread) (c v : Nat) : (th.setK c v).p = th.p := rfl
@[simp] theorem Thread.setK_v (th : Thread) (c v : Nat) : (th.setK c v).v = th.v := rfl
@[simp] theorem Thread.setK_a (th : Thread) (c v : Nat) : (th.setK c v).a = th.a := rfl
@[simp] theorem Thread.setK_mark (th : Thread) (c v : Nat) : (th.setK c v).mark = th.mark := rfl
@[simp] theorem Thread.setK_vote (th : Thread) (c v : Nat) : (th.setK c v).vote = th.vote := rfl
@[simp] theorem Thread.setK_exited (th : Thread) (c v : Nat) : (th.setK c v).exited = th.exited := rfl
@[simp] theorem Thread.setK_load (th : Thread) (c v : Nat) : (th.setK c v).load = th.load := rfl
@[simp] theorem Thread.setK_stores (th : Thread) (c v : Nat) : (th.setK c v).stores = th.stores := rfl
@[simp] theorem Thread.setK_vbusy (th : Thread) (c v : Nat) : (th.setK c v).vbusy = th.vbusy := rfl

@[simp] theorem Thread.step_hasCode (th : Thread) : (th.step).hasCode = th.hasCode := rfl
@[simp] theorem Thread.step_entry (th : Thread) : (th.step).entry = th.entry := rfl
@[simp] theorem Thread.step_wait (th : Thread) : (th.step).wait = th.wait := rfl
@[simp] theorem Thread.step_s (th : Thread) : (th.step).s = th.s := rfl
@[simp] theorem Thread.step_p (th : Thread) : (th.step).p = th.p := rfl
@[simp] theorem Thread.step_v (th : Thread) : (th.step).v = th.v := rfl
@[simp] theorem Thread.step_a (th : Thread) : (th.step).a = th.a := rfl
@[simp] theorem Thread.step_k (th : Thread) : (th.step).k = th.k := rfl
@[simp] theorem Thread.step_mark (th : Thread) : (th.step).mark = th.mark := rfl
@[simp] theorem Thread.step_vote (th : Thread) : (th.step).vote = th.vote := rfl
@[simp] theorem Thread.step_exited (th : Thread) : (th.step).exited = th.exited := rfl
@[simp] theorem Thread.step_load (th : Thread) : (th.step).load = th.load := rfl
@[simp] theorem Thread.step_stores (th : Thread) : (th.step).stores = th.stores := rfl
@[simp] theorem Thread.step_vbusy (th : Thread) : (th.step).vbusy = th.vbusy := rfl

@[simp] theorem Thread.setS_hasCode (th : Thread) (r : Nat) (v : Word) : (th.setS r v).hasCode = th.hasCode := by unfold Thread.setS; split <;> rfl
@[simp] theorem Thread.setS_entry (th : Thread) (r : Nat) (v : Word) : (th.setS r v).entry = th.entry := by unfold Thread.setS; split <;> rfl
@[simp] theorem Thread.setS_pc (th : Thread) (r : Nat) (v : Word) : (th.setS r v).pc = th.pc := by unfold Thread.setS; split <;> rfl
@[simp] theorem Thread.setS_wait (th : Thread) (r : Nat) (v : Word) : (th.setS r v).wait = th.wait := by unfold Thread.setS; split <;> rfl
@[simp] theorem Thread.setS_p (th : Thread) (r : Nat) (v : Word) : (th.setS r v).p = th.p := by unfold Thread.setS; split <;> rfl
@[simp] theorem Thread.setS_v (th : Thread) (r : Nat) (v : Word) : (th.setS r v).v = th.v := by unfold Thread.setS; split <;> rfl
@[simp] theorem Thread.setS_a (th : Thread) (r : Nat) (v : Word) : (th.setS r v).a = th.a := by unfold Thread.setS; split <;> rfl
@[simp] theorem Thread.setS_k (th : Thread) (r : Nat) (v : Word) : (th.setS r v).k = th.k := by unfold Thread.setS; split <;> rfl
@[simp] theorem Thread.setS_mark (th : Thread) (r : Nat) (v : Word) : (th.setS r v).mark = th.mark := by unfold Thread.setS; split <;> rfl
@[simp] theorem Thread.setS_vote (th : Thread) (r : Nat) (v : Word) : (th.setS r v).vote = th.vote := by unfold Thread.setS; split <;> rfl
@[simp] theorem Thread.setS_exited (th : Thread) (r : Nat) (v : Word) : (th.setS r v).exited = th.exited := by unfold Thread.setS; split <;> rfl
@[simp] theorem Thread.setS_load (th : Thread) (r : Nat) (v : Word) : (th.setS r v).load = th.load := by unfold Thread.setS; split <;> rfl
@[simp] theorem Thread.setS_stores (th : Thread) (r : Nat) (v : Word) : (th.setS r v).stores = th.stores := by unfold Thread.setS; split <;> rfl
@[simp] theorem Thread.setS_vbusy (th : Thread) (r : Nat) (v : Word) : (th.setS r v).vbusy = th.vbusy := by unfold Thread.setS; split <;> rfl

@[simp] theorem Thread.setP_hasCode (th : Thread) (r : Nat) (v : Bool) : (th.setP r v).hasCode = th.hasCode := by unfold Thread.setP; split <;> rfl
@[simp] theorem Thread.setP_entry (th : Thread) (r : Nat) (v : Bool) : (th.setP r v).entry = th.entry := by unfold Thread.setP; split <;> rfl
@[simp] theorem Thread.setP_pc (th : Thread) (r : Nat) (v : Bool) : (th.setP r v).pc = th.pc := by unfold Thread.setP; split <;> rfl
@[simp] theorem Thread.setP_wait (th : Thread) (r : Nat) (v : Bool) : (th.setP r v).wait = th.wait := by unfold Thread.setP; split <;> rfl
@[simp] theorem Thread.setP_s (th : Thread) (r : Nat) (v : Bool) : (th.setP r v).s = th.s := by unfold Thread.setP; split <;> rfl
@[simp] theorem Thread.setP_v (th : Thread) (r : Nat) (v : Bool) : (th.setP r v).v = th.v := by unfold Thread.setP; split <;> rfl
@[simp] theorem Thread.setP_a (th : Thread) (r : Nat) (v : Bool) : (th.setP r v).a = th.a := by unfold Thread.setP; split <;> rfl
@[simp] theorem Thread.setP_k (th : Thread) (r : Nat) (v : Bool) : (th.setP r v).k = th.k := by unfold Thread.setP; split <;> rfl
@[simp] theorem Thread.setP_mark (th : Thread) (r : Nat) (v : Bool) : (th.setP r v).mark = th.mark := by unfold Thread.setP; split <;> rfl
@[simp] theorem Thread.setP_vote (th : Thread) (r : Nat) (v : Bool) : (th.setP r v).vote = th.vote := by unfold Thread.setP; split <;> rfl
@[simp] theorem Thread.setP_exited (th : Thread) (r : Nat) (v : Bool) : (th.setP r v).exited = th.exited := by unfold Thread.setP; split <;> rfl
@[simp] theorem Thread.setP_load (th : Thread) (r : Nat) (v : Bool) : (th.setP r v).load = th.load := by unfold Thread.setP; split <;> rfl
@[simp] theorem Thread.setP_stores (th : Thread) (r : Nat) (v : Bool) : (th.setP r v).stores = th.stores := by unfold Thread.setP; split <;> rfl
@[simp] theorem Thread.setP_vbusy (th : Thread) (r : Nat) (v : Bool) : (th.setP r v).vbusy = th.vbusy := by unfold Thread.setP; split <;> rfl

@[simp] theorem Tile.setThread_used (x : Tile) (i : Nat) (th : Thread) : (x.setThread i th).used = x.used := rfl
@[simp] theorem Tile.setThread_imem (x : Tile) (i : Nat) (th : Thread) : (x.setThread i th).imem = x.imem := rfl
@[simp] theorem Tile.setThread_descs (x : Tile) (i : Nat) (th : Thread) : (x.setThread i th).descs = x.descs := rfl
@[simp] theorem Tile.setThread_bind (x : Tile) (i : Nat) (th : Thread) : (x.setThread i th).bind = x.bind := rfl
@[simp] theorem Tile.setThread_comm (x : Tile) (i : Nat) (th : Thread) : (x.setThread i th).comm = x.comm := rfl
@[simp] theorem Tile.setThread_phases (x : Tile) (i : Nat) (th : Thread) : (x.setThread i th).phases = x.phases := rfl
@[simp] theorem Tile.setThread_allow (x : Tile) (i : Nat) (th : Thread) : (x.setThread i th).allow = x.allow := rfl
@[simp] theorem Tile.setThread_shadowOk (x : Tile) (i : Nat) (th : Thread) : (x.setThread i th).shadowOk = x.shadowOk := rfl
@[simp] theorem Tile.setThread_heldReads (x : Tile) (i : Nat) (th : Thread) : (x.setThread i th).heldReads = x.heldReads := rfl
@[simp] theorem Tile.setThread_felt (x : Tile) (i : Nat) (th : Thread) : (x.setThread i th).felt = x.felt := rfl
@[simp] theorem Tile.setThread_queue (x : Tile) (i : Nat) (th : Thread) : (x.setThread i th).queue = x.queue := rfl
@[simp] theorem Tile.setThread_topk (x : Tile) (i : Nat) (th : Thread) : (x.setThread i th).topk = x.topk := rfl
@[simp] theorem Tile.setThread_checks (x : Tile) (i : Nat) (th : Thread) : (x.setThread i th).checks = x.checks := rfl
@[simp] theorem Tile.setThread_voile (x : Tile) (i : Nat) (th : Thread) : (x.setThread i th).voile = x.voile := rfl
@[simp] theorem Tile.setThread_bars (x : Tile) (i : Nat) (th : Thread) : (x.setThread i th).bars = x.bars := rfl
@[simp] theorem Tile.setThread_rr (x : Tile) (i : Nat) (th : Thread) : (x.setThread i th).rr = x.rr := rfl
@[simp] theorem Tile.setThread_opSeq (x : Tile) (i : Nat) (th : Thread) : (x.setThread i th).opSeq = x.opSeq := rfl
@[simp] theorem Tile.setThread_sram (x : Tile) (i : Nat) (th : Thread) : (x.setThread i th).sram = x.sram := rfl
@[simp] theorem Tile.setThread_bad (x : Tile) (i : Nat) (th : Thread) : (x.setThread i th).bad = x.bad := rfl
@[simp] theorem Tile.setThread_soft (x : Tile) (i : Nat) (th : Thread) : (x.setThread i th).soft = x.soft := rfl
@[simp] theorem Tile.setThread_ibad (x : Tile) (i : Nat) (th : Thread) : (x.setThread i th).ibad = x.ibad := rfl
@[simp] theorem Tile.setThread_isoft (x : Tile) (i : Nat) (th : Thread) : (x.setThread i th).isoft = x.isoft := rfl
@[simp] theorem Tile.setThread_dbad (x : Tile) (i : Nat) (th : Thread) : (x.setThread i th).dbad = x.dbad := rfl
@[simp] theorem Tile.setThread_dsoft (x : Tile) (i : Nat) (th : Thread) : (x.setThread i th).dsoft = x.dsoft := rfl
@[simp] theorem Tile.setThread_epoch (x : Tile) (i : Nat) (th : Thread) : (x.setThread i th).epoch = x.epoch := rfl
@[simp] theorem Tile.setThread_tainted (x : Tile) (i : Nat) (th : Thread) : (x.setThread i th).tainted = x.tainted := rfl
@[simp] theorem Tile.setThread_taintNext (x : Tile) (i : Nat) (th : Thread) : (x.setThread i th).taintNext = x.taintNext := rfl
@[simp] theorem Tile.setThread_verdict (x : Tile) (i : Nat) (th : Thread) : (x.setThread i th).verdict = x.verdict := rfl
@[simp] theorem Tile.setThread_nf (x : Tile) (i : Nat) (th : Thread) : (x.setThread i th).nf = x.nf := rfl
@[simp] theorem Tile.setThread_recur (x : Tile) (i : Nat) (th : Thread) : (x.setThread i th).recur = x.recur := rfl
@[simp] theorem Tile.setThread_fences (x : Tile) (i : Nat) (th : Thread) : (x.setThread i th).fences = x.fences := rfl
@[simp] theorem Tile.setThread_restart (x : Tile) (i : Nat) (th : Thread) : (x.setThread i th).restart = x.restart := rfl
@[simp] theorem Tile.setThread_parked (x : Tile) (i : Nat) (th : Thread) : (x.setThread i th).parked = x.parked := rfl
@[simp] theorem Tile.setThread_inRst (x : Tile) (i : Nat) (th : Thread) : (x.setThread i th).inRst = x.inRst := rfl
@[simp] theorem Tile.setThread_sameIv (x : Tile) (i : Nat) (th : Thread) : (x.setThread i th).sameIv = x.sameIv := rfl
@[simp] theorem Tile.setThread_heldAt (x : Tile) (i : Nat) (th : Thread) : (x.setThread i th).heldAt = x.heldAt := rfl
@[simp] theorem Tile.setThread_digest (x : Tile) (i : Nat) (th : Thread) : (x.setThread i th).digest = x.digest := rfl
@[simp] theorem Tile.setThread_hold (x : Tile) (i : Nat) (th : Thread) : (x.setThread i th).hold = x.hold := rfl
@[simp] theorem Tile.setThread_dbgEn (x : Tile) (i : Nat) (th : Thread) : (x.setThread i th).dbgEn = x.dbgEn := rfl
@[simp] theorem Tile.setThread_force (x : Tile) (i : Nat) (th : Thread) : (x.setThread i th).force = x.force := rfl
@[simp] theorem Tile.setThread_flags (x : Tile) (i : Nat) (th : Thread) : (x.setThread i th).flags = x.flags := rfl
@[simp] theorem Tile.setThread_fault (x : Tile) (i : Nat) (th : Thread) : (x.setThread i th).fault = x.fault := rfl
@[simp] theorem Tile.setThread_hsk (x : Tile) (i : Nat) (th : Thread) : (x.setThread i th).hsk = x.hsk := rfl
@[simp] theorem Tile.setThread_issued (x : Tile) (i : Nat) (th : Thread) : (x.setThread i th).issued = x.issued := rfl

@[simp] theorem Tile.setArr_used (x : Tile) (f : Nat) (a : Felt) : (x.setArr f a).used = x.used := rfl
@[simp] theorem Tile.setArr_imem (x : Tile) (f : Nat) (a : Felt) : (x.setArr f a).imem = x.imem := rfl
@[simp] theorem Tile.setArr_descs (x : Tile) (f : Nat) (a : Felt) : (x.setArr f a).descs = x.descs := rfl
@[simp] theorem Tile.setArr_bind (x : Tile) (f : Nat) (a : Felt) : (x.setArr f a).bind = x.bind := rfl
@[simp] theorem Tile.setArr_comm (x : Tile) (f : Nat) (a : Felt) : (x.setArr f a).comm = x.comm := rfl
@[simp] theorem Tile.setArr_phases (x : Tile) (f : Nat) (a : Felt) : (x.setArr f a).phases = x.phases := rfl
@[simp] theorem Tile.setArr_allow (x : Tile) (f : Nat) (a : Felt) : (x.setArr f a).allow = x.allow := rfl
@[simp] theorem Tile.setArr_shadowOk (x : Tile) (f : Nat) (a : Felt) : (x.setArr f a).shadowOk = x.shadowOk := rfl
@[simp] theorem Tile.setArr_heldReads (x : Tile) (f : Nat) (a : Felt) : (x.setArr f a).heldReads = x.heldReads := rfl
@[simp] theorem Tile.setArr_thr (x : Tile) (f : Nat) (a : Felt) : (x.setArr f a).thr = x.thr := rfl
@[simp] theorem Tile.setArr_queue (x : Tile) (f : Nat) (a : Felt) : (x.setArr f a).queue = x.queue := rfl
@[simp] theorem Tile.setArr_topk (x : Tile) (f : Nat) (a : Felt) : (x.setArr f a).topk = x.topk := rfl
@[simp] theorem Tile.setArr_checks (x : Tile) (f : Nat) (a : Felt) : (x.setArr f a).checks = x.checks := rfl
@[simp] theorem Tile.setArr_voile (x : Tile) (f : Nat) (a : Felt) : (x.setArr f a).voile = x.voile := rfl
@[simp] theorem Tile.setArr_bars (x : Tile) (f : Nat) (a : Felt) : (x.setArr f a).bars = x.bars := rfl
@[simp] theorem Tile.setArr_rr (x : Tile) (f : Nat) (a : Felt) : (x.setArr f a).rr = x.rr := rfl
@[simp] theorem Tile.setArr_opSeq (x : Tile) (f : Nat) (a : Felt) : (x.setArr f a).opSeq = x.opSeq := rfl
@[simp] theorem Tile.setArr_sram (x : Tile) (f : Nat) (a : Felt) : (x.setArr f a).sram = x.sram := rfl
@[simp] theorem Tile.setArr_bad (x : Tile) (f : Nat) (a : Felt) : (x.setArr f a).bad = x.bad := rfl
@[simp] theorem Tile.setArr_soft (x : Tile) (f : Nat) (a : Felt) : (x.setArr f a).soft = x.soft := rfl
@[simp] theorem Tile.setArr_ibad (x : Tile) (f : Nat) (a : Felt) : (x.setArr f a).ibad = x.ibad := rfl
@[simp] theorem Tile.setArr_isoft (x : Tile) (f : Nat) (a : Felt) : (x.setArr f a).isoft = x.isoft := rfl
@[simp] theorem Tile.setArr_dbad (x : Tile) (f : Nat) (a : Felt) : (x.setArr f a).dbad = x.dbad := rfl
@[simp] theorem Tile.setArr_dsoft (x : Tile) (f : Nat) (a : Felt) : (x.setArr f a).dsoft = x.dsoft := rfl
@[simp] theorem Tile.setArr_epoch (x : Tile) (f : Nat) (a : Felt) : (x.setArr f a).epoch = x.epoch := rfl
@[simp] theorem Tile.setArr_tainted (x : Tile) (f : Nat) (a : Felt) : (x.setArr f a).tainted = x.tainted := rfl
@[simp] theorem Tile.setArr_taintNext (x : Tile) (f : Nat) (a : Felt) : (x.setArr f a).taintNext = x.taintNext := rfl
@[simp] theorem Tile.setArr_verdict (x : Tile) (f : Nat) (a : Felt) : (x.setArr f a).verdict = x.verdict := rfl
@[simp] theorem Tile.setArr_nf (x : Tile) (f : Nat) (a : Felt) : (x.setArr f a).nf = x.nf := rfl
@[simp] theorem Tile.setArr_recur (x : Tile) (f : Nat) (a : Felt) : (x.setArr f a).recur = x.recur := rfl
@[simp] theorem Tile.setArr_fences (x : Tile) (f : Nat) (a : Felt) : (x.setArr f a).fences = x.fences := rfl
@[simp] theorem Tile.setArr_restart (x : Tile) (f : Nat) (a : Felt) : (x.setArr f a).restart = x.restart := rfl
@[simp] theorem Tile.setArr_parked (x : Tile) (f : Nat) (a : Felt) : (x.setArr f a).parked = x.parked := rfl
@[simp] theorem Tile.setArr_inRst (x : Tile) (f : Nat) (a : Felt) : (x.setArr f a).inRst = x.inRst := rfl
@[simp] theorem Tile.setArr_sameIv (x : Tile) (f : Nat) (a : Felt) : (x.setArr f a).sameIv = x.sameIv := rfl
@[simp] theorem Tile.setArr_heldAt (x : Tile) (f : Nat) (a : Felt) : (x.setArr f a).heldAt = x.heldAt := rfl
@[simp] theorem Tile.setArr_digest (x : Tile) (f : Nat) (a : Felt) : (x.setArr f a).digest = x.digest := rfl
@[simp] theorem Tile.setArr_hold (x : Tile) (f : Nat) (a : Felt) : (x.setArr f a).hold = x.hold := rfl
@[simp] theorem Tile.setArr_dbgEn (x : Tile) (f : Nat) (a : Felt) : (x.setArr f a).dbgEn = x.dbgEn := rfl
@[simp] theorem Tile.setArr_force (x : Tile) (f : Nat) (a : Felt) : (x.setArr f a).force = x.force := rfl
@[simp] theorem Tile.setArr_flags (x : Tile) (f : Nat) (a : Felt) : (x.setArr f a).flags = x.flags := rfl
@[simp] theorem Tile.setArr_fault (x : Tile) (f : Nat) (a : Felt) : (x.setArr f a).fault = x.fault := rfl
@[simp] theorem Tile.setArr_hsk (x : Tile) (f : Nat) (a : Felt) : (x.setArr f a).hsk = x.hsk := rfl
@[simp] theorem Tile.setArr_issued (x : Tile) (f : Nat) (a : Felt) : (x.setArr f a).issued = x.issued := rfl

@[simp] theorem Tile.issueMark_used (x : Tile) (i c : Nat) : (x.issueMark i c).used = x.used := rfl
@[simp] theorem Tile.issueMark_imem (x : Tile) (i c : Nat) : (x.issueMark i c).imem = x.imem := rfl
@[simp] theorem Tile.issueMark_descs (x : Tile) (i c : Nat) : (x.issueMark i c).descs = x.descs := rfl
@[simp] theorem Tile.issueMark_bind (x : Tile) (i c : Nat) : (x.issueMark i c).bind = x.bind := rfl
@[simp] theorem Tile.issueMark_comm (x : Tile) (i c : Nat) : (x.issueMark i c).comm = x.comm := rfl
@[simp] theorem Tile.issueMark_phases (x : Tile) (i c : Nat) : (x.issueMark i c).phases = x.phases := rfl
@[simp] theorem Tile.issueMark_allow (x : Tile) (i c : Nat) : (x.issueMark i c).allow = x.allow := rfl
@[simp] theorem Tile.issueMark_shadowOk (x : Tile) (i c : Nat) : (x.issueMark i c).shadowOk = x.shadowOk := rfl
@[simp] theorem Tile.issueMark_heldReads (x : Tile) (i c : Nat) : (x.issueMark i c).heldReads = x.heldReads := rfl
@[simp] theorem Tile.issueMark_thr (x : Tile) (i c : Nat) : (x.issueMark i c).thr = x.thr := rfl
@[simp] theorem Tile.issueMark_felt (x : Tile) (i c : Nat) : (x.issueMark i c).felt = x.felt := rfl
@[simp] theorem Tile.issueMark_queue (x : Tile) (i c : Nat) : (x.issueMark i c).queue = x.queue := rfl
@[simp] theorem Tile.issueMark_topk (x : Tile) (i c : Nat) : (x.issueMark i c).topk = x.topk := rfl
@[simp] theorem Tile.issueMark_checks (x : Tile) (i c : Nat) : (x.issueMark i c).checks = x.checks := rfl
@[simp] theorem Tile.issueMark_voile (x : Tile) (i c : Nat) : (x.issueMark i c).voile = x.voile := rfl
@[simp] theorem Tile.issueMark_bars (x : Tile) (i c : Nat) : (x.issueMark i c).bars = x.bars := rfl
@[simp] theorem Tile.issueMark_opSeq (x : Tile) (i c : Nat) : (x.issueMark i c).opSeq = x.opSeq := rfl
@[simp] theorem Tile.issueMark_sram (x : Tile) (i c : Nat) : (x.issueMark i c).sram = x.sram := rfl
@[simp] theorem Tile.issueMark_bad (x : Tile) (i c : Nat) : (x.issueMark i c).bad = x.bad := rfl
@[simp] theorem Tile.issueMark_soft (x : Tile) (i c : Nat) : (x.issueMark i c).soft = x.soft := rfl
@[simp] theorem Tile.issueMark_ibad (x : Tile) (i c : Nat) : (x.issueMark i c).ibad = x.ibad := rfl
@[simp] theorem Tile.issueMark_isoft (x : Tile) (i c : Nat) : (x.issueMark i c).isoft = x.isoft := rfl
@[simp] theorem Tile.issueMark_dbad (x : Tile) (i c : Nat) : (x.issueMark i c).dbad = x.dbad := rfl
@[simp] theorem Tile.issueMark_dsoft (x : Tile) (i c : Nat) : (x.issueMark i c).dsoft = x.dsoft := rfl
@[simp] theorem Tile.issueMark_epoch (x : Tile) (i c : Nat) : (x.issueMark i c).epoch = x.epoch := rfl
@[simp] theorem Tile.issueMark_tainted (x : Tile) (i c : Nat) : (x.issueMark i c).tainted = x.tainted := rfl
@[simp] theorem Tile.issueMark_taintNext (x : Tile) (i c : Nat) : (x.issueMark i c).taintNext = x.taintNext := rfl
@[simp] theorem Tile.issueMark_verdict (x : Tile) (i c : Nat) : (x.issueMark i c).verdict = x.verdict := rfl
@[simp] theorem Tile.issueMark_nf (x : Tile) (i c : Nat) : (x.issueMark i c).nf = x.nf := rfl
@[simp] theorem Tile.issueMark_recur (x : Tile) (i c : Nat) : (x.issueMark i c).recur = x.recur := rfl
@[simp] theorem Tile.issueMark_fences (x : Tile) (i c : Nat) : (x.issueMark i c).fences = x.fences := rfl
@[simp] theorem Tile.issueMark_restart (x : Tile) (i c : Nat) : (x.issueMark i c).restart = x.restart := rfl
@[simp] theorem Tile.issueMark_parked (x : Tile) (i c : Nat) : (x.issueMark i c).parked = x.parked := rfl
@[simp] theorem Tile.issueMark_inRst (x : Tile) (i c : Nat) : (x.issueMark i c).inRst = x.inRst := rfl
@[simp] theorem Tile.issueMark_heldAt (x : Tile) (i c : Nat) : (x.issueMark i c).heldAt = x.heldAt := rfl
@[simp] theorem Tile.issueMark_digest (x : Tile) (i c : Nat) : (x.issueMark i c).digest = x.digest := rfl
@[simp] theorem Tile.issueMark_hold (x : Tile) (i c : Nat) : (x.issueMark i c).hold = x.hold := rfl
@[simp] theorem Tile.issueMark_dbgEn (x : Tile) (i c : Nat) : (x.issueMark i c).dbgEn = x.dbgEn := rfl
@[simp] theorem Tile.issueMark_force (x : Tile) (i c : Nat) : (x.issueMark i c).force = x.force := rfl
@[simp] theorem Tile.issueMark_flags (x : Tile) (i c : Nat) : (x.issueMark i c).flags = x.flags := rfl
@[simp] theorem Tile.issueMark_fault (x : Tile) (i c : Nat) : (x.issueMark i c).fault = x.fault := rfl

@[simp] theorem Node.setTile_on (n : Node) (t : Nat) (x : Tile) : (n.setTile t x).on = n.on := rfl
@[simp] theorem Node.setTile_free (n : Node) (t : Nat) (x : Tile) : (n.setTile t x).free = n.free := rfl
@[simp] theorem Node.setTile_cfg (n : Node) (t : Nat) (x : Tile) : (n.setTile t x).cfg = n.cfg := rfl
@[simp] theorem Node.setTile_ctxs (n : Node) (t : Nat) (x : Tile) : (n.setTile t x).ctxs = n.ctxs := rfl
@[simp] theorem Node.setTile_fills (n : Node) (t : Nat) (x : Tile) : (n.setTile t x).fills = n.fills := rfl
@[simp] theorem Node.setTile_flight (n : Node) (t : Nat) (x : Tile) : (n.setTile t x).flight = n.flight := rfl
@[simp] theorem Node.setTile_held (n : Node) (t : Nat) (x : Tile) : (n.setTile t x).held = n.held := rfl
@[simp] theorem Node.setTile_strStat (n : Node) (t : Nat) (x : Tile) : (n.setTile t x).strStat = n.strStat := rfl
@[simp] theorem Node.setTile_overruns (n : Node) (t : Nat) (x : Tile) : (n.setTile t x).overruns = n.overruns := rfl
@[simp] theorem Node.setTile_split (n : Node) (t : Nat) (x : Tile) : (n.setTile t x).split = n.split := rfl
@[simp] theorem Node.setTile_mems (n : Node) (t : Nat) (x : Tile) : (n.setTile t x).mems = n.mems := rfl
@[simp] theorem Node.setTile_fcache (n : Node) (t : Nat) (x : Tile) : (n.setTile t x).fcache = n.fcache := rfl
@[simp] theorem Node.setTile_fcAlt (n : Node) (t : Nat) (x : Tile) : (n.setTile t x).fcAlt = n.fcAlt := rfl
@[simp] theorem Node.setTile_fcLog (n : Node) (t : Nat) (x : Tile) : (n.setTile t x).fcLog = n.fcLog := rfl
@[simp] theorem Node.setTile_wire (n : Node) (t : Nat) (x : Tile) : (n.setTile t x).wire = n.wire := rfl
@[simp] theorem Node.setTile_peers (n : Node) (t : Nat) (x : Tile) : (n.setTile t x).peers = n.peers := rfl
@[simp] theorem Node.setTile_subs (n : Node) (t : Nat) (x : Tile) : (n.setTile t x).subs = n.subs := rfl
@[simp] theorem Node.setTile_ports (n : Node) (t : Nat) (x : Tile) : (n.setTile t x).ports = n.ports := rfl
@[simp] theorem Node.setTile_told (n : Node) (t : Nat) (x : Tile) : (n.setTile t x).told = n.told := rfl
@[simp] theorem Node.setTile_bycode (n : Node) (t : Nat) (x : Tile) : (n.setTile t x).bycode = n.bycode := rfl
@[simp] theorem Node.setTile_session (n : Node) (t : Nat) (x : Tile) : (n.setTile t x).session = n.session := rfl
@[simp] theorem Node.setTile_serial (n : Node) (t : Nat) (x : Tile) : (n.setTile t x).serial = n.serial := rfl
@[simp] theorem Node.setTile_tshCfg (n : Node) (t : Nat) (x : Tile) : (n.setTile t x).tshCfg = n.tshCfg := rfl
@[simp] theorem Node.setTile_timers (n : Node) (t : Nat) (x : Tile) : (n.setTile t x).timers = n.timers := rfl
@[simp] theorem Node.setTile_peerEvt (n : Node) (t : Nat) (x : Tile) : (n.setTile t x).peerEvt = n.peerEvt := rfl
@[simp] theorem Node.setTile_redCfg (n : Node) (t : Nat) (x : Tile) : (n.setTile t x).redCfg = n.redCfg := rfl
@[simp] theorem Node.setTile_redEvt (n : Node) (t : Nat) (x : Tile) : (n.setTile t x).redEvt = n.redEvt := rfl
@[simp] theorem Node.setTile_red (n : Node) (t : Nat) (x : Tile) : (n.setTile t x).red = n.red := rfl
@[simp] theorem Node.setTile_job (n : Node) (t : Nat) (x : Tile) : (n.setTile t x).job = n.job := rfl
@[simp] theorem Node.setTile_commit (n : Node) (t : Nat) (x : Tile) : (n.setTile t x).commit = n.commit := rfl
@[simp] theorem Node.setTile_gng (n : Node) (t : Nat) (x : Tile) : (n.setTile t x).gng = n.gng := rfl
@[simp] theorem Node.setTile_guard (n : Node) (t : Nat) (x : Tile) : (n.setTile t x).guard = n.guard := rfl
@[simp] theorem Node.setTile_tps (n : Node) (t : Nat) (x : Tile) : (n.setTile t x).tps = n.tps := rfl
@[simp] theorem Node.setTile_gov (n : Node) (t : Nat) (x : Tile) : (n.setTile t x).gov = n.gov := rfl
@[simp] theorem Node.setTile_fdbgCtl (n : Node) (t : Nat) (x : Tile) : (n.setTile t x).fdbgCtl = n.fdbgCtl := rfl
@[simp] theorem Node.setTile_fdbgData (n : Node) (t : Nat) (x : Tile) : (n.setTile t x).fdbgData = n.fdbgData := rfl
@[simp] theorem Node.setTile_fdbgAt (n : Node) (t : Nat) (x : Tile) : (n.setTile t x).fdbgAt = n.fdbgAt := rfl
@[simp] theorem Node.setTile_ermLog (n : Node) (t : Nat) (x : Tile) : (n.setTile t x).ermLog = n.ermLog := rfl
@[simp] theorem Node.setTile_asm (n : Node) (t : Nat) (x : Tile) : (n.setTile t x).asm = n.asm := rfl
@[simp] theorem Node.setTile_asleep (n : Node) (t : Nat) (x : Tile) : (n.setTile t x).asleep = n.asleep := rfl
@[simp] theorem Node.setTile_later (n : Node) (t : Nat) (x : Tile) : (n.setTile t x).later = n.later := rfl
@[simp] theorem Node.setTile_events (n : Node) (t : Nat) (x : Tile) : (n.setTile t x).events = n.events := rfl
@[simp] theorem Node.setTile_evHead (n : Node) (t : Nat) (x : Tile) : (n.setTile t x).evHead = n.evHead := rfl
@[simp] theorem Node.setTile_evSeq (n : Node) (t : Nat) (x : Tile) : (n.setTile t x).evSeq = n.evSeq := rfl
@[simp] theorem Node.setTile_out (n : Node) (t : Nat) (x : Tile) : (n.setTile t x).out = n.out := rfl
@[simp] theorem Node.setTile_assert (n : Node) (t : Nat) (x : Tile) : (n.setTile t x).assert = n.assert := rfl
@[simp] theorem Node.setTile_jobTag (n : Node) (t : Nat) (x : Tile) : (n.setTile t x).jobTag = n.jobTag := rfl
@[simp] theorem Node.setTile_retUps (n : Node) (t : Nat) (x : Tile) : (n.setTile t x).retUps = n.retUps := rfl
@[simp] theorem Node.setTile_govEvt (n : Node) (t : Nat) (x : Tile) : (n.setTile t x).govEvt = n.govEvt := rfl
@[simp] theorem Node.setTile_therm (n : Node) (t : Nat) (x : Tile) : (n.setTile t x).therm = n.therm := rfl
@[simp] theorem Node.setTile_retain (n : Node) (t : Nat) (x : Tile) : (n.setTile t x).retain = n.retain := rfl
@[simp] theorem Node.setTile_shift (n : Node) (t : Nat) (x : Tile) : (n.setTile t x).shift = n.shift := rfl

@[simp] theorem Node.modTile_on (n : Node) (t : Nat) (f : Tile → Tile) : (n.modTile t f).on = n.on := rfl
@[simp] theorem Node.modTile_free (n : Node) (t : Nat) (f : Tile → Tile) : (n.modTile t f).free = n.free := rfl
@[simp] theorem Node.modTile_cfg (n : Node) (t : Nat) (f : Tile → Tile) : (n.modTile t f).cfg = n.cfg := rfl
@[simp] theorem Node.modTile_ctxs (n : Node) (t : Nat) (f : Tile → Tile) : (n.modTile t f).ctxs = n.ctxs := rfl
@[simp] theorem Node.modTile_fills (n : Node) (t : Nat) (f : Tile → Tile) : (n.modTile t f).fills = n.fills := rfl
@[simp] theorem Node.modTile_flight (n : Node) (t : Nat) (f : Tile → Tile) : (n.modTile t f).flight = n.flight := rfl
@[simp] theorem Node.modTile_held (n : Node) (t : Nat) (f : Tile → Tile) : (n.modTile t f).held = n.held := rfl
@[simp] theorem Node.modTile_strStat (n : Node) (t : Nat) (f : Tile → Tile) : (n.modTile t f).strStat = n.strStat := rfl
@[simp] theorem Node.modTile_overruns (n : Node) (t : Nat) (f : Tile → Tile) : (n.modTile t f).overruns = n.overruns := rfl
@[simp] theorem Node.modTile_split (n : Node) (t : Nat) (f : Tile → Tile) : (n.modTile t f).split = n.split := rfl
@[simp] theorem Node.modTile_mems (n : Node) (t : Nat) (f : Tile → Tile) : (n.modTile t f).mems = n.mems := rfl
@[simp] theorem Node.modTile_fcache (n : Node) (t : Nat) (f : Tile → Tile) : (n.modTile t f).fcache = n.fcache := rfl
@[simp] theorem Node.modTile_fcAlt (n : Node) (t : Nat) (f : Tile → Tile) : (n.modTile t f).fcAlt = n.fcAlt := rfl
@[simp] theorem Node.modTile_fcLog (n : Node) (t : Nat) (f : Tile → Tile) : (n.modTile t f).fcLog = n.fcLog := rfl
@[simp] theorem Node.modTile_wire (n : Node) (t : Nat) (f : Tile → Tile) : (n.modTile t f).wire = n.wire := rfl
@[simp] theorem Node.modTile_peers (n : Node) (t : Nat) (f : Tile → Tile) : (n.modTile t f).peers = n.peers := rfl
@[simp] theorem Node.modTile_subs (n : Node) (t : Nat) (f : Tile → Tile) : (n.modTile t f).subs = n.subs := rfl
@[simp] theorem Node.modTile_ports (n : Node) (t : Nat) (f : Tile → Tile) : (n.modTile t f).ports = n.ports := rfl
@[simp] theorem Node.modTile_told (n : Node) (t : Nat) (f : Tile → Tile) : (n.modTile t f).told = n.told := rfl
@[simp] theorem Node.modTile_bycode (n : Node) (t : Nat) (f : Tile → Tile) : (n.modTile t f).bycode = n.bycode := rfl
@[simp] theorem Node.modTile_session (n : Node) (t : Nat) (f : Tile → Tile) : (n.modTile t f).session = n.session := rfl
@[simp] theorem Node.modTile_serial (n : Node) (t : Nat) (f : Tile → Tile) : (n.modTile t f).serial = n.serial := rfl
@[simp] theorem Node.modTile_tshCfg (n : Node) (t : Nat) (f : Tile → Tile) : (n.modTile t f).tshCfg = n.tshCfg := rfl
@[simp] theorem Node.modTile_timers (n : Node) (t : Nat) (f : Tile → Tile) : (n.modTile t f).timers = n.timers := rfl
@[simp] theorem Node.modTile_peerEvt (n : Node) (t : Nat) (f : Tile → Tile) : (n.modTile t f).peerEvt = n.peerEvt := rfl
@[simp] theorem Node.modTile_redCfg (n : Node) (t : Nat) (f : Tile → Tile) : (n.modTile t f).redCfg = n.redCfg := rfl
@[simp] theorem Node.modTile_redEvt (n : Node) (t : Nat) (f : Tile → Tile) : (n.modTile t f).redEvt = n.redEvt := rfl
@[simp] theorem Node.modTile_red (n : Node) (t : Nat) (f : Tile → Tile) : (n.modTile t f).red = n.red := rfl
@[simp] theorem Node.modTile_job (n : Node) (t : Nat) (f : Tile → Tile) : (n.modTile t f).job = n.job := rfl
@[simp] theorem Node.modTile_commit (n : Node) (t : Nat) (f : Tile → Tile) : (n.modTile t f).commit = n.commit := rfl
@[simp] theorem Node.modTile_gng (n : Node) (t : Nat) (f : Tile → Tile) : (n.modTile t f).gng = n.gng := rfl
@[simp] theorem Node.modTile_guard (n : Node) (t : Nat) (f : Tile → Tile) : (n.modTile t f).guard = n.guard := rfl
@[simp] theorem Node.modTile_tps (n : Node) (t : Nat) (f : Tile → Tile) : (n.modTile t f).tps = n.tps := rfl
@[simp] theorem Node.modTile_gov (n : Node) (t : Nat) (f : Tile → Tile) : (n.modTile t f).gov = n.gov := rfl
@[simp] theorem Node.modTile_fdbgCtl (n : Node) (t : Nat) (f : Tile → Tile) : (n.modTile t f).fdbgCtl = n.fdbgCtl := rfl
@[simp] theorem Node.modTile_fdbgData (n : Node) (t : Nat) (f : Tile → Tile) : (n.modTile t f).fdbgData = n.fdbgData := rfl
@[simp] theorem Node.modTile_fdbgAt (n : Node) (t : Nat) (f : Tile → Tile) : (n.modTile t f).fdbgAt = n.fdbgAt := rfl
@[simp] theorem Node.modTile_ermLog (n : Node) (t : Nat) (f : Tile → Tile) : (n.modTile t f).ermLog = n.ermLog := rfl
@[simp] theorem Node.modTile_asm (n : Node) (t : Nat) (f : Tile → Tile) : (n.modTile t f).asm = n.asm := rfl
@[simp] theorem Node.modTile_asleep (n : Node) (t : Nat) (f : Tile → Tile) : (n.modTile t f).asleep = n.asleep := rfl
@[simp] theorem Node.modTile_later (n : Node) (t : Nat) (f : Tile → Tile) : (n.modTile t f).later = n.later := rfl
@[simp] theorem Node.modTile_events (n : Node) (t : Nat) (f : Tile → Tile) : (n.modTile t f).events = n.events := rfl
@[simp] theorem Node.modTile_evHead (n : Node) (t : Nat) (f : Tile → Tile) : (n.modTile t f).evHead = n.evHead := rfl
@[simp] theorem Node.modTile_evSeq (n : Node) (t : Nat) (f : Tile → Tile) : (n.modTile t f).evSeq = n.evSeq := rfl
@[simp] theorem Node.modTile_out (n : Node) (t : Nat) (f : Tile → Tile) : (n.modTile t f).out = n.out := rfl
@[simp] theorem Node.modTile_assert (n : Node) (t : Nat) (f : Tile → Tile) : (n.modTile t f).assert = n.assert := rfl
@[simp] theorem Node.modTile_jobTag (n : Node) (t : Nat) (f : Tile → Tile) : (n.modTile t f).jobTag = n.jobTag := rfl
@[simp] theorem Node.modTile_retUps (n : Node) (t : Nat) (f : Tile → Tile) : (n.modTile t f).retUps = n.retUps := rfl
@[simp] theorem Node.modTile_govEvt (n : Node) (t : Nat) (f : Tile → Tile) : (n.modTile t f).govEvt = n.govEvt := rfl
@[simp] theorem Node.modTile_therm (n : Node) (t : Nat) (f : Tile → Tile) : (n.modTile t f).therm = n.therm := rfl
@[simp] theorem Node.modTile_retain (n : Node) (t : Nat) (f : Tile → Tile) : (n.modTile t f).retain = n.retain := rfl
@[simp] theorem Node.modTile_shift (n : Node) (t : Nat) (f : Tile → Tile) : (n.modTile t f).shift = n.shift := rfl

@[simp] theorem Node.modThread_on (n : Node) (t i : Nat) (f : Thread → Thread) : (n.modThread t i f).on = n.on := rfl
@[simp] theorem Node.modThread_free (n : Node) (t i : Nat) (f : Thread → Thread) : (n.modThread t i f).free = n.free := rfl
@[simp] theorem Node.modThread_cfg (n : Node) (t i : Nat) (f : Thread → Thread) : (n.modThread t i f).cfg = n.cfg := rfl
@[simp] theorem Node.modThread_ctxs (n : Node) (t i : Nat) (f : Thread → Thread) : (n.modThread t i f).ctxs = n.ctxs := rfl
@[simp] theorem Node.modThread_fills (n : Node) (t i : Nat) (f : Thread → Thread) : (n.modThread t i f).fills = n.fills := rfl
@[simp] theorem Node.modThread_flight (n : Node) (t i : Nat) (f : Thread → Thread) : (n.modThread t i f).flight = n.flight := rfl
@[simp] theorem Node.modThread_held (n : Node) (t i : Nat) (f : Thread → Thread) : (n.modThread t i f).held = n.held := rfl
@[simp] theorem Node.modThread_strStat (n : Node) (t i : Nat) (f : Thread → Thread) : (n.modThread t i f).strStat = n.strStat := rfl
@[simp] theorem Node.modThread_overruns (n : Node) (t i : Nat) (f : Thread → Thread) : (n.modThread t i f).overruns = n.overruns := rfl
@[simp] theorem Node.modThread_split (n : Node) (t i : Nat) (f : Thread → Thread) : (n.modThread t i f).split = n.split := rfl
@[simp] theorem Node.modThread_mems (n : Node) (t i : Nat) (f : Thread → Thread) : (n.modThread t i f).mems = n.mems := rfl
@[simp] theorem Node.modThread_fcache (n : Node) (t i : Nat) (f : Thread → Thread) : (n.modThread t i f).fcache = n.fcache := rfl
@[simp] theorem Node.modThread_fcAlt (n : Node) (t i : Nat) (f : Thread → Thread) : (n.modThread t i f).fcAlt = n.fcAlt := rfl
@[simp] theorem Node.modThread_fcLog (n : Node) (t i : Nat) (f : Thread → Thread) : (n.modThread t i f).fcLog = n.fcLog := rfl
@[simp] theorem Node.modThread_wire (n : Node) (t i : Nat) (f : Thread → Thread) : (n.modThread t i f).wire = n.wire := rfl
@[simp] theorem Node.modThread_peers (n : Node) (t i : Nat) (f : Thread → Thread) : (n.modThread t i f).peers = n.peers := rfl
@[simp] theorem Node.modThread_subs (n : Node) (t i : Nat) (f : Thread → Thread) : (n.modThread t i f).subs = n.subs := rfl
@[simp] theorem Node.modThread_ports (n : Node) (t i : Nat) (f : Thread → Thread) : (n.modThread t i f).ports = n.ports := rfl
@[simp] theorem Node.modThread_told (n : Node) (t i : Nat) (f : Thread → Thread) : (n.modThread t i f).told = n.told := rfl
@[simp] theorem Node.modThread_bycode (n : Node) (t i : Nat) (f : Thread → Thread) : (n.modThread t i f).bycode = n.bycode := rfl
@[simp] theorem Node.modThread_session (n : Node) (t i : Nat) (f : Thread → Thread) : (n.modThread t i f).session = n.session := rfl
@[simp] theorem Node.modThread_serial (n : Node) (t i : Nat) (f : Thread → Thread) : (n.modThread t i f).serial = n.serial := rfl
@[simp] theorem Node.modThread_tshCfg (n : Node) (t i : Nat) (f : Thread → Thread) : (n.modThread t i f).tshCfg = n.tshCfg := rfl
@[simp] theorem Node.modThread_timers (n : Node) (t i : Nat) (f : Thread → Thread) : (n.modThread t i f).timers = n.timers := rfl
@[simp] theorem Node.modThread_peerEvt (n : Node) (t i : Nat) (f : Thread → Thread) : (n.modThread t i f).peerEvt = n.peerEvt := rfl
@[simp] theorem Node.modThread_redCfg (n : Node) (t i : Nat) (f : Thread → Thread) : (n.modThread t i f).redCfg = n.redCfg := rfl
@[simp] theorem Node.modThread_redEvt (n : Node) (t i : Nat) (f : Thread → Thread) : (n.modThread t i f).redEvt = n.redEvt := rfl
@[simp] theorem Node.modThread_red (n : Node) (t i : Nat) (f : Thread → Thread) : (n.modThread t i f).red = n.red := rfl
@[simp] theorem Node.modThread_job (n : Node) (t i : Nat) (f : Thread → Thread) : (n.modThread t i f).job = n.job := rfl
@[simp] theorem Node.modThread_commit (n : Node) (t i : Nat) (f : Thread → Thread) : (n.modThread t i f).commit = n.commit := rfl
@[simp] theorem Node.modThread_gng (n : Node) (t i : Nat) (f : Thread → Thread) : (n.modThread t i f).gng = n.gng := rfl
@[simp] theorem Node.modThread_guard (n : Node) (t i : Nat) (f : Thread → Thread) : (n.modThread t i f).guard = n.guard := rfl
@[simp] theorem Node.modThread_tps (n : Node) (t i : Nat) (f : Thread → Thread) : (n.modThread t i f).tps = n.tps := rfl
@[simp] theorem Node.modThread_gov (n : Node) (t i : Nat) (f : Thread → Thread) : (n.modThread t i f).gov = n.gov := rfl
@[simp] theorem Node.modThread_fdbgCtl (n : Node) (t i : Nat) (f : Thread → Thread) : (n.modThread t i f).fdbgCtl = n.fdbgCtl := rfl
@[simp] theorem Node.modThread_fdbgData (n : Node) (t i : Nat) (f : Thread → Thread) : (n.modThread t i f).fdbgData = n.fdbgData := rfl
@[simp] theorem Node.modThread_fdbgAt (n : Node) (t i : Nat) (f : Thread → Thread) : (n.modThread t i f).fdbgAt = n.fdbgAt := rfl
@[simp] theorem Node.modThread_ermLog (n : Node) (t i : Nat) (f : Thread → Thread) : (n.modThread t i f).ermLog = n.ermLog := rfl
@[simp] theorem Node.modThread_asm (n : Node) (t i : Nat) (f : Thread → Thread) : (n.modThread t i f).asm = n.asm := rfl
@[simp] theorem Node.modThread_asleep (n : Node) (t i : Nat) (f : Thread → Thread) : (n.modThread t i f).asleep = n.asleep := rfl
@[simp] theorem Node.modThread_later (n : Node) (t i : Nat) (f : Thread → Thread) : (n.modThread t i f).later = n.later := rfl
@[simp] theorem Node.modThread_events (n : Node) (t i : Nat) (f : Thread → Thread) : (n.modThread t i f).events = n.events := rfl
@[simp] theorem Node.modThread_evHead (n : Node) (t i : Nat) (f : Thread → Thread) : (n.modThread t i f).evHead = n.evHead := rfl
@[simp] theorem Node.modThread_evSeq (n : Node) (t i : Nat) (f : Thread → Thread) : (n.modThread t i f).evSeq = n.evSeq := rfl
@[simp] theorem Node.modThread_out (n : Node) (t i : Nat) (f : Thread → Thread) : (n.modThread t i f).out = n.out := rfl
@[simp] theorem Node.modThread_assert (n : Node) (t i : Nat) (f : Thread → Thread) : (n.modThread t i f).assert = n.assert := rfl
@[simp] theorem Node.modThread_jobTag (n : Node) (t i : Nat) (f : Thread → Thread) : (n.modThread t i f).jobTag = n.jobTag := rfl
@[simp] theorem Node.modThread_retUps (n : Node) (t i : Nat) (f : Thread → Thread) : (n.modThread t i f).retUps = n.retUps := rfl
@[simp] theorem Node.modThread_govEvt (n : Node) (t i : Nat) (f : Thread → Thread) : (n.modThread t i f).govEvt = n.govEvt := rfl
@[simp] theorem Node.modThread_therm (n : Node) (t i : Nat) (f : Thread → Thread) : (n.modThread t i f).therm = n.therm := rfl
@[simp] theorem Node.modThread_retain (n : Node) (t i : Nat) (f : Thread → Thread) : (n.modThread t i f).retain = n.retain := rfl
@[simp] theorem Node.modThread_shift (n : Node) (t i : Nat) (f : Thread → Thread) : (n.modThread t i f).shift = n.shift := rfl

@[simp] theorem Node.setPeer_on (n : Node) (d : Nat) (p : Peer) : (n.setPeer d p).on = n.on := rfl
@[simp] theorem Node.setPeer_free (n : Node) (d : Nat) (p : Peer) : (n.setPeer d p).free = n.free := rfl
@[simp] theorem Node.setPeer_cfg (n : Node) (d : Nat) (p : Peer) : (n.setPeer d p).cfg = n.cfg := rfl
@[simp] theorem Node.setPeer_tiles (n : Node) (d : Nat) (p : Peer) : (n.setPeer d p).tiles = n.tiles := rfl
@[simp] theorem Node.setPeer_ctxs (n : Node) (d : Nat) (p : Peer) : (n.setPeer d p).ctxs = n.ctxs := rfl
@[simp] theorem Node.setPeer_fills (n : Node) (d : Nat) (p : Peer) : (n.setPeer d p).fills = n.fills := rfl
@[simp] theorem Node.setPeer_flight (n : Node) (d : Nat) (p : Peer) : (n.setPeer d p).flight = n.flight := rfl
@[simp] theorem Node.setPeer_held (n : Node) (d : Nat) (p : Peer) : (n.setPeer d p).held = n.held := rfl
@[simp] theorem Node.setPeer_strStat (n : Node) (d : Nat) (p : Peer) : (n.setPeer d p).strStat = n.strStat := rfl
@[simp] theorem Node.setPeer_overruns (n : Node) (d : Nat) (p : Peer) : (n.setPeer d p).overruns = n.overruns := rfl
@[simp] theorem Node.setPeer_split (n : Node) (d : Nat) (p : Peer) : (n.setPeer d p).split = n.split := rfl
@[simp] theorem Node.setPeer_mems (n : Node) (d : Nat) (p : Peer) : (n.setPeer d p).mems = n.mems := rfl
@[simp] theorem Node.setPeer_fcache (n : Node) (d : Nat) (p : Peer) : (n.setPeer d p).fcache = n.fcache := rfl
@[simp] theorem Node.setPeer_fcAlt (n : Node) (d : Nat) (p : Peer) : (n.setPeer d p).fcAlt = n.fcAlt := rfl
@[simp] theorem Node.setPeer_fcLog (n : Node) (d : Nat) (p : Peer) : (n.setPeer d p).fcLog = n.fcLog := rfl
@[simp] theorem Node.setPeer_wire (n : Node) (d : Nat) (p : Peer) : (n.setPeer d p).wire = n.wire := rfl
@[simp] theorem Node.setPeer_subs (n : Node) (d : Nat) (p : Peer) : (n.setPeer d p).subs = n.subs := rfl
@[simp] theorem Node.setPeer_ports (n : Node) (d : Nat) (p : Peer) : (n.setPeer d p).ports = n.ports := rfl
@[simp] theorem Node.setPeer_told (n : Node) (d : Nat) (p : Peer) : (n.setPeer d p).told = n.told := rfl
@[simp] theorem Node.setPeer_bycode (n : Node) (d : Nat) (p : Peer) : (n.setPeer d p).bycode = n.bycode := rfl
@[simp] theorem Node.setPeer_session (n : Node) (d : Nat) (p : Peer) : (n.setPeer d p).session = n.session := rfl
@[simp] theorem Node.setPeer_serial (n : Node) (d : Nat) (p : Peer) : (n.setPeer d p).serial = n.serial := rfl
@[simp] theorem Node.setPeer_tshCfg (n : Node) (d : Nat) (p : Peer) : (n.setPeer d p).tshCfg = n.tshCfg := rfl
@[simp] theorem Node.setPeer_timers (n : Node) (d : Nat) (p : Peer) : (n.setPeer d p).timers = n.timers := rfl
@[simp] theorem Node.setPeer_peerEvt (n : Node) (d : Nat) (p : Peer) : (n.setPeer d p).peerEvt = n.peerEvt := rfl
@[simp] theorem Node.setPeer_redCfg (n : Node) (d : Nat) (p : Peer) : (n.setPeer d p).redCfg = n.redCfg := rfl
@[simp] theorem Node.setPeer_redEvt (n : Node) (d : Nat) (p : Peer) : (n.setPeer d p).redEvt = n.redEvt := rfl
@[simp] theorem Node.setPeer_red (n : Node) (d : Nat) (p : Peer) : (n.setPeer d p).red = n.red := rfl
@[simp] theorem Node.setPeer_job (n : Node) (d : Nat) (p : Peer) : (n.setPeer d p).job = n.job := rfl
@[simp] theorem Node.setPeer_commit (n : Node) (d : Nat) (p : Peer) : (n.setPeer d p).commit = n.commit := rfl
@[simp] theorem Node.setPeer_gng (n : Node) (d : Nat) (p : Peer) : (n.setPeer d p).gng = n.gng := rfl
@[simp] theorem Node.setPeer_guard (n : Node) (d : Nat) (p : Peer) : (n.setPeer d p).guard = n.guard := rfl
@[simp] theorem Node.setPeer_tps (n : Node) (d : Nat) (p : Peer) : (n.setPeer d p).tps = n.tps := rfl
@[simp] theorem Node.setPeer_gov (n : Node) (d : Nat) (p : Peer) : (n.setPeer d p).gov = n.gov := rfl
@[simp] theorem Node.setPeer_fdbgCtl (n : Node) (d : Nat) (p : Peer) : (n.setPeer d p).fdbgCtl = n.fdbgCtl := rfl
@[simp] theorem Node.setPeer_fdbgData (n : Node) (d : Nat) (p : Peer) : (n.setPeer d p).fdbgData = n.fdbgData := rfl
@[simp] theorem Node.setPeer_fdbgAt (n : Node) (d : Nat) (p : Peer) : (n.setPeer d p).fdbgAt = n.fdbgAt := rfl
@[simp] theorem Node.setPeer_ermLog (n : Node) (d : Nat) (p : Peer) : (n.setPeer d p).ermLog = n.ermLog := rfl
@[simp] theorem Node.setPeer_asm (n : Node) (d : Nat) (p : Peer) : (n.setPeer d p).asm = n.asm := rfl
@[simp] theorem Node.setPeer_asleep (n : Node) (d : Nat) (p : Peer) : (n.setPeer d p).asleep = n.asleep := rfl
@[simp] theorem Node.setPeer_later (n : Node) (d : Nat) (p : Peer) : (n.setPeer d p).later = n.later := rfl
@[simp] theorem Node.setPeer_events (n : Node) (d : Nat) (p : Peer) : (n.setPeer d p).events = n.events := rfl
@[simp] theorem Node.setPeer_evHead (n : Node) (d : Nat) (p : Peer) : (n.setPeer d p).evHead = n.evHead := rfl
@[simp] theorem Node.setPeer_evSeq (n : Node) (d : Nat) (p : Peer) : (n.setPeer d p).evSeq = n.evSeq := rfl
@[simp] theorem Node.setPeer_out (n : Node) (d : Nat) (p : Peer) : (n.setPeer d p).out = n.out := rfl
@[simp] theorem Node.setPeer_assert (n : Node) (d : Nat) (p : Peer) : (n.setPeer d p).assert = n.assert := rfl
@[simp] theorem Node.setPeer_jobTag (n : Node) (d : Nat) (p : Peer) : (n.setPeer d p).jobTag = n.jobTag := rfl
@[simp] theorem Node.setPeer_retUps (n : Node) (d : Nat) (p : Peer) : (n.setPeer d p).retUps = n.retUps := rfl
@[simp] theorem Node.setPeer_govEvt (n : Node) (d : Nat) (p : Peer) : (n.setPeer d p).govEvt = n.govEvt := rfl
@[simp] theorem Node.setPeer_therm (n : Node) (d : Nat) (p : Peer) : (n.setPeer d p).therm = n.therm := rfl
@[simp] theorem Node.setPeer_retain (n : Node) (d : Nat) (p : Peer) : (n.setPeer d p).retain = n.retain := rfl
@[simp] theorem Node.setPeer_shift (n : Node) (d : Nat) (p : Peer) : (n.setPeer d p).shift = n.shift := rfl

@[simp] theorem Node.setSub_on (n : Node) (p s : Nat) (x : Sub) : (n.setSub p s x).on = n.on := rfl
@[simp] theorem Node.setSub_free (n : Node) (p s : Nat) (x : Sub) : (n.setSub p s x).free = n.free := rfl
@[simp] theorem Node.setSub_cfg (n : Node) (p s : Nat) (x : Sub) : (n.setSub p s x).cfg = n.cfg := rfl
@[simp] theorem Node.setSub_tiles (n : Node) (p s : Nat) (x : Sub) : (n.setSub p s x).tiles = n.tiles := rfl
@[simp] theorem Node.setSub_ctxs (n : Node) (p s : Nat) (x : Sub) : (n.setSub p s x).ctxs = n.ctxs := rfl
@[simp] theorem Node.setSub_fills (n : Node) (p s : Nat) (x : Sub) : (n.setSub p s x).fills = n.fills := rfl
@[simp] theorem Node.setSub_flight (n : Node) (p s : Nat) (x : Sub) : (n.setSub p s x).flight = n.flight := rfl
@[simp] theorem Node.setSub_held (n : Node) (p s : Nat) (x : Sub) : (n.setSub p s x).held = n.held := rfl
@[simp] theorem Node.setSub_strStat (n : Node) (p s : Nat) (x : Sub) : (n.setSub p s x).strStat = n.strStat := rfl
@[simp] theorem Node.setSub_overruns (n : Node) (p s : Nat) (x : Sub) : (n.setSub p s x).overruns = n.overruns := rfl
@[simp] theorem Node.setSub_split (n : Node) (p s : Nat) (x : Sub) : (n.setSub p s x).split = n.split := rfl
@[simp] theorem Node.setSub_mems (n : Node) (p s : Nat) (x : Sub) : (n.setSub p s x).mems = n.mems := rfl
@[simp] theorem Node.setSub_fcache (n : Node) (p s : Nat) (x : Sub) : (n.setSub p s x).fcache = n.fcache := rfl
@[simp] theorem Node.setSub_fcAlt (n : Node) (p s : Nat) (x : Sub) : (n.setSub p s x).fcAlt = n.fcAlt := rfl
@[simp] theorem Node.setSub_fcLog (n : Node) (p s : Nat) (x : Sub) : (n.setSub p s x).fcLog = n.fcLog := rfl
@[simp] theorem Node.setSub_wire (n : Node) (p s : Nat) (x : Sub) : (n.setSub p s x).wire = n.wire := rfl
@[simp] theorem Node.setSub_peers (n : Node) (p s : Nat) (x : Sub) : (n.setSub p s x).peers = n.peers := rfl
@[simp] theorem Node.setSub_ports (n : Node) (p s : Nat) (x : Sub) : (n.setSub p s x).ports = n.ports := rfl
@[simp] theorem Node.setSub_told (n : Node) (p s : Nat) (x : Sub) : (n.setSub p s x).told = n.told := rfl
@[simp] theorem Node.setSub_bycode (n : Node) (p s : Nat) (x : Sub) : (n.setSub p s x).bycode = n.bycode := rfl
@[simp] theorem Node.setSub_session (n : Node) (p s : Nat) (x : Sub) : (n.setSub p s x).session = n.session := rfl
@[simp] theorem Node.setSub_serial (n : Node) (p s : Nat) (x : Sub) : (n.setSub p s x).serial = n.serial := rfl
@[simp] theorem Node.setSub_tshCfg (n : Node) (p s : Nat) (x : Sub) : (n.setSub p s x).tshCfg = n.tshCfg := rfl
@[simp] theorem Node.setSub_timers (n : Node) (p s : Nat) (x : Sub) : (n.setSub p s x).timers = n.timers := rfl
@[simp] theorem Node.setSub_peerEvt (n : Node) (p s : Nat) (x : Sub) : (n.setSub p s x).peerEvt = n.peerEvt := rfl
@[simp] theorem Node.setSub_redCfg (n : Node) (p s : Nat) (x : Sub) : (n.setSub p s x).redCfg = n.redCfg := rfl
@[simp] theorem Node.setSub_redEvt (n : Node) (p s : Nat) (x : Sub) : (n.setSub p s x).redEvt = n.redEvt := rfl
@[simp] theorem Node.setSub_red (n : Node) (p s : Nat) (x : Sub) : (n.setSub p s x).red = n.red := rfl
@[simp] theorem Node.setSub_job (n : Node) (p s : Nat) (x : Sub) : (n.setSub p s x).job = n.job := rfl
@[simp] theorem Node.setSub_commit (n : Node) (p s : Nat) (x : Sub) : (n.setSub p s x).commit = n.commit := rfl
@[simp] theorem Node.setSub_gng (n : Node) (p s : Nat) (x : Sub) : (n.setSub p s x).gng = n.gng := rfl
@[simp] theorem Node.setSub_guard (n : Node) (p s : Nat) (x : Sub) : (n.setSub p s x).guard = n.guard := rfl
@[simp] theorem Node.setSub_tps (n : Node) (p s : Nat) (x : Sub) : (n.setSub p s x).tps = n.tps := rfl
@[simp] theorem Node.setSub_gov (n : Node) (p s : Nat) (x : Sub) : (n.setSub p s x).gov = n.gov := rfl
@[simp] theorem Node.setSub_fdbgCtl (n : Node) (p s : Nat) (x : Sub) : (n.setSub p s x).fdbgCtl = n.fdbgCtl := rfl
@[simp] theorem Node.setSub_fdbgData (n : Node) (p s : Nat) (x : Sub) : (n.setSub p s x).fdbgData = n.fdbgData := rfl
@[simp] theorem Node.setSub_fdbgAt (n : Node) (p s : Nat) (x : Sub) : (n.setSub p s x).fdbgAt = n.fdbgAt := rfl
@[simp] theorem Node.setSub_ermLog (n : Node) (p s : Nat) (x : Sub) : (n.setSub p s x).ermLog = n.ermLog := rfl
@[simp] theorem Node.setSub_asm (n : Node) (p s : Nat) (x : Sub) : (n.setSub p s x).asm = n.asm := rfl
@[simp] theorem Node.setSub_asleep (n : Node) (p s : Nat) (x : Sub) : (n.setSub p s x).asleep = n.asleep := rfl
@[simp] theorem Node.setSub_later (n : Node) (p s : Nat) (x : Sub) : (n.setSub p s x).later = n.later := rfl
@[simp] theorem Node.setSub_events (n : Node) (p s : Nat) (x : Sub) : (n.setSub p s x).events = n.events := rfl
@[simp] theorem Node.setSub_evHead (n : Node) (p s : Nat) (x : Sub) : (n.setSub p s x).evHead = n.evHead := rfl
@[simp] theorem Node.setSub_evSeq (n : Node) (p s : Nat) (x : Sub) : (n.setSub p s x).evSeq = n.evSeq := rfl
@[simp] theorem Node.setSub_out (n : Node) (p s : Nat) (x : Sub) : (n.setSub p s x).out = n.out := rfl
@[simp] theorem Node.setSub_assert (n : Node) (p s : Nat) (x : Sub) : (n.setSub p s x).assert = n.assert := rfl
@[simp] theorem Node.setSub_jobTag (n : Node) (p s : Nat) (x : Sub) : (n.setSub p s x).jobTag = n.jobTag := rfl
@[simp] theorem Node.setSub_retUps (n : Node) (p s : Nat) (x : Sub) : (n.setSub p s x).retUps = n.retUps := rfl
@[simp] theorem Node.setSub_govEvt (n : Node) (p s : Nat) (x : Sub) : (n.setSub p s x).govEvt = n.govEvt := rfl
@[simp] theorem Node.setSub_therm (n : Node) (p s : Nat) (x : Sub) : (n.setSub p s x).therm = n.therm := rfl
@[simp] theorem Node.setSub_retain (n : Node) (p s : Nat) (x : Sub) : (n.setSub p s x).retain = n.retain := rfl
@[simp] theorem Node.setSub_shift (n : Node) (p s : Nat) (x : Sub) : (n.setSub p s x).shift = n.shift := rfl

@[simp] theorem Node.setRed_on (n : Node) (i : Nat) (c : RedCtx) : (n.setRed i c).on = n.on := rfl
@[simp] theorem Node.setRed_free (n : Node) (i : Nat) (c : RedCtx) : (n.setRed i c).free = n.free := rfl
@[simp] theorem Node.setRed_cfg (n : Node) (i : Nat) (c : RedCtx) : (n.setRed i c).cfg = n.cfg := rfl
@[simp] theorem Node.setRed_tiles (n : Node) (i : Nat) (c : RedCtx) : (n.setRed i c).tiles = n.tiles := rfl
@[simp] theorem Node.setRed_ctxs (n : Node) (i : Nat) (c : RedCtx) : (n.setRed i c).ctxs = n.ctxs := rfl
@[simp] theorem Node.setRed_fills (n : Node) (i : Nat) (c : RedCtx) : (n.setRed i c).fills = n.fills := rfl
@[simp] theorem Node.setRed_flight (n : Node) (i : Nat) (c : RedCtx) : (n.setRed i c).flight = n.flight := rfl
@[simp] theorem Node.setRed_held (n : Node) (i : Nat) (c : RedCtx) : (n.setRed i c).held = n.held := rfl
@[simp] theorem Node.setRed_strStat (n : Node) (i : Nat) (c : RedCtx) : (n.setRed i c).strStat = n.strStat := rfl
@[simp] theorem Node.setRed_overruns (n : Node) (i : Nat) (c : RedCtx) : (n.setRed i c).overruns = n.overruns := rfl
@[simp] theorem Node.setRed_split (n : Node) (i : Nat) (c : RedCtx) : (n.setRed i c).split = n.split := rfl
@[simp] theorem Node.setRed_mems (n : Node) (i : Nat) (c : RedCtx) : (n.setRed i c).mems = n.mems := rfl
@[simp] theorem Node.setRed_fcache (n : Node) (i : Nat) (c : RedCtx) : (n.setRed i c).fcache = n.fcache := rfl
@[simp] theorem Node.setRed_fcAlt (n : Node) (i : Nat) (c : RedCtx) : (n.setRed i c).fcAlt = n.fcAlt := rfl
@[simp] theorem Node.setRed_fcLog (n : Node) (i : Nat) (c : RedCtx) : (n.setRed i c).fcLog = n.fcLog := rfl
@[simp] theorem Node.setRed_wire (n : Node) (i : Nat) (c : RedCtx) : (n.setRed i c).wire = n.wire := rfl
@[simp] theorem Node.setRed_peers (n : Node) (i : Nat) (c : RedCtx) : (n.setRed i c).peers = n.peers := rfl
@[simp] theorem Node.setRed_subs (n : Node) (i : Nat) (c : RedCtx) : (n.setRed i c).subs = n.subs := rfl
@[simp] theorem Node.setRed_ports (n : Node) (i : Nat) (c : RedCtx) : (n.setRed i c).ports = n.ports := rfl
@[simp] theorem Node.setRed_told (n : Node) (i : Nat) (c : RedCtx) : (n.setRed i c).told = n.told := rfl
@[simp] theorem Node.setRed_bycode (n : Node) (i : Nat) (c : RedCtx) : (n.setRed i c).bycode = n.bycode := rfl
@[simp] theorem Node.setRed_session (n : Node) (i : Nat) (c : RedCtx) : (n.setRed i c).session = n.session := rfl
@[simp] theorem Node.setRed_serial (n : Node) (i : Nat) (c : RedCtx) : (n.setRed i c).serial = n.serial := rfl
@[simp] theorem Node.setRed_tshCfg (n : Node) (i : Nat) (c : RedCtx) : (n.setRed i c).tshCfg = n.tshCfg := rfl
@[simp] theorem Node.setRed_timers (n : Node) (i : Nat) (c : RedCtx) : (n.setRed i c).timers = n.timers := rfl
@[simp] theorem Node.setRed_peerEvt (n : Node) (i : Nat) (c : RedCtx) : (n.setRed i c).peerEvt = n.peerEvt := rfl
@[simp] theorem Node.setRed_redCfg (n : Node) (i : Nat) (c : RedCtx) : (n.setRed i c).redCfg = n.redCfg := rfl
@[simp] theorem Node.setRed_redEvt (n : Node) (i : Nat) (c : RedCtx) : (n.setRed i c).redEvt = n.redEvt := rfl
@[simp] theorem Node.setRed_job (n : Node) (i : Nat) (c : RedCtx) : (n.setRed i c).job = n.job := rfl
@[simp] theorem Node.setRed_commit (n : Node) (i : Nat) (c : RedCtx) : (n.setRed i c).commit = n.commit := rfl
@[simp] theorem Node.setRed_gng (n : Node) (i : Nat) (c : RedCtx) : (n.setRed i c).gng = n.gng := rfl
@[simp] theorem Node.setRed_guard (n : Node) (i : Nat) (c : RedCtx) : (n.setRed i c).guard = n.guard := rfl
@[simp] theorem Node.setRed_tps (n : Node) (i : Nat) (c : RedCtx) : (n.setRed i c).tps = n.tps := rfl
@[simp] theorem Node.setRed_gov (n : Node) (i : Nat) (c : RedCtx) : (n.setRed i c).gov = n.gov := rfl
@[simp] theorem Node.setRed_fdbgCtl (n : Node) (i : Nat) (c : RedCtx) : (n.setRed i c).fdbgCtl = n.fdbgCtl := rfl
@[simp] theorem Node.setRed_fdbgData (n : Node) (i : Nat) (c : RedCtx) : (n.setRed i c).fdbgData = n.fdbgData := rfl
@[simp] theorem Node.setRed_fdbgAt (n : Node) (i : Nat) (c : RedCtx) : (n.setRed i c).fdbgAt = n.fdbgAt := rfl
@[simp] theorem Node.setRed_ermLog (n : Node) (i : Nat) (c : RedCtx) : (n.setRed i c).ermLog = n.ermLog := rfl
@[simp] theorem Node.setRed_asm (n : Node) (i : Nat) (c : RedCtx) : (n.setRed i c).asm = n.asm := rfl
@[simp] theorem Node.setRed_asleep (n : Node) (i : Nat) (c : RedCtx) : (n.setRed i c).asleep = n.asleep := rfl
@[simp] theorem Node.setRed_later (n : Node) (i : Nat) (c : RedCtx) : (n.setRed i c).later = n.later := rfl
@[simp] theorem Node.setRed_events (n : Node) (i : Nat) (c : RedCtx) : (n.setRed i c).events = n.events := rfl
@[simp] theorem Node.setRed_evHead (n : Node) (i : Nat) (c : RedCtx) : (n.setRed i c).evHead = n.evHead := rfl
@[simp] theorem Node.setRed_evSeq (n : Node) (i : Nat) (c : RedCtx) : (n.setRed i c).evSeq = n.evSeq := rfl
@[simp] theorem Node.setRed_out (n : Node) (i : Nat) (c : RedCtx) : (n.setRed i c).out = n.out := rfl
@[simp] theorem Node.setRed_assert (n : Node) (i : Nat) (c : RedCtx) : (n.setRed i c).assert = n.assert := rfl
@[simp] theorem Node.setRed_jobTag (n : Node) (i : Nat) (c : RedCtx) : (n.setRed i c).jobTag = n.jobTag := rfl
@[simp] theorem Node.setRed_retUps (n : Node) (i : Nat) (c : RedCtx) : (n.setRed i c).retUps = n.retUps := rfl
@[simp] theorem Node.setRed_govEvt (n : Node) (i : Nat) (c : RedCtx) : (n.setRed i c).govEvt = n.govEvt := rfl
@[simp] theorem Node.setRed_therm (n : Node) (i : Nat) (c : RedCtx) : (n.setRed i c).therm = n.therm := rfl
@[simp] theorem Node.setRed_retain (n : Node) (i : Nat) (c : RedCtx) : (n.setRed i c).retain = n.retain := rfl
@[simp] theorem Node.setRed_shift (n : Node) (i : Nat) (c : RedCtx) : (n.setRed i c).shift = n.shift := rfl

@[simp] theorem Node.takeFree_on (n : Node) : (n.takeFree).on = n.on := rfl
@[simp] theorem Node.takeFree_cfg (n : Node) : (n.takeFree).cfg = n.cfg := rfl
@[simp] theorem Node.takeFree_tiles (n : Node) : (n.takeFree).tiles = n.tiles := rfl
@[simp] theorem Node.takeFree_ctxs (n : Node) : (n.takeFree).ctxs = n.ctxs := rfl
@[simp] theorem Node.takeFree_fills (n : Node) : (n.takeFree).fills = n.fills := rfl
@[simp] theorem Node.takeFree_flight (n : Node) : (n.takeFree).flight = n.flight := rfl
@[simp] theorem Node.takeFree_held (n : Node) : (n.takeFree).held = n.held := rfl
@[simp] theorem Node.takeFree_strStat (n : Node) : (n.takeFree).strStat = n.strStat := rfl
@[simp] theorem Node.takeFree_overruns (n : Node) : (n.takeFree).overruns = n.overruns := rfl
@[simp] theorem Node.takeFree_split (n : Node) : (n.takeFree).split = n.split := rfl
@[simp] theorem Node.takeFree_mems (n : Node) : (n.takeFree).mems = n.mems := rfl
@[simp] theorem Node.takeFree_fcache (n : Node) : (n.takeFree).fcache = n.fcache := rfl
@[simp] theorem Node.takeFree_fcAlt (n : Node) : (n.takeFree).fcAlt = n.fcAlt := rfl
@[simp] theorem Node.takeFree_fcLog (n : Node) : (n.takeFree).fcLog = n.fcLog := rfl
@[simp] theorem Node.takeFree_wire (n : Node) : (n.takeFree).wire = n.wire := rfl
@[simp] theorem Node.takeFree_peers (n : Node) : (n.takeFree).peers = n.peers := rfl
@[simp] theorem Node.takeFree_subs (n : Node) : (n.takeFree).subs = n.subs := rfl
@[simp] theorem Node.takeFree_ports (n : Node) : (n.takeFree).ports = n.ports := rfl
@[simp] theorem Node.takeFree_told (n : Node) : (n.takeFree).told = n.told := rfl
@[simp] theorem Node.takeFree_bycode (n : Node) : (n.takeFree).bycode = n.bycode := rfl
@[simp] theorem Node.takeFree_session (n : Node) : (n.takeFree).session = n.session := rfl
@[simp] theorem Node.takeFree_serial (n : Node) : (n.takeFree).serial = n.serial := rfl
@[simp] theorem Node.takeFree_tshCfg (n : Node) : (n.takeFree).tshCfg = n.tshCfg := rfl
@[simp] theorem Node.takeFree_timers (n : Node) : (n.takeFree).timers = n.timers := rfl
@[simp] theorem Node.takeFree_peerEvt (n : Node) : (n.takeFree).peerEvt = n.peerEvt := rfl
@[simp] theorem Node.takeFree_redCfg (n : Node) : (n.takeFree).redCfg = n.redCfg := rfl
@[simp] theorem Node.takeFree_redEvt (n : Node) : (n.takeFree).redEvt = n.redEvt := rfl
@[simp] theorem Node.takeFree_red (n : Node) : (n.takeFree).red = n.red := rfl
@[simp] theorem Node.takeFree_job (n : Node) : (n.takeFree).job = n.job := rfl
@[simp] theorem Node.takeFree_commit (n : Node) : (n.takeFree).commit = n.commit := rfl
@[simp] theorem Node.takeFree_gng (n : Node) : (n.takeFree).gng = n.gng := rfl
@[simp] theorem Node.takeFree_guard (n : Node) : (n.takeFree).guard = n.guard := rfl
@[simp] theorem Node.takeFree_tps (n : Node) : (n.takeFree).tps = n.tps := rfl
@[simp] theorem Node.takeFree_gov (n : Node) : (n.takeFree).gov = n.gov := rfl
@[simp] theorem Node.takeFree_fdbgCtl (n : Node) : (n.takeFree).fdbgCtl = n.fdbgCtl := rfl
@[simp] theorem Node.takeFree_fdbgData (n : Node) : (n.takeFree).fdbgData = n.fdbgData := rfl
@[simp] theorem Node.takeFree_fdbgAt (n : Node) : (n.takeFree).fdbgAt = n.fdbgAt := rfl
@[simp] theorem Node.takeFree_ermLog (n : Node) : (n.takeFree).ermLog = n.ermLog := rfl
@[simp] theorem Node.takeFree_asm (n : Node) : (n.takeFree).asm = n.asm := rfl
@[simp] theorem Node.takeFree_asleep (n : Node) : (n.takeFree).asleep = n.asleep := rfl
@[simp] theorem Node.takeFree_later (n : Node) : (n.takeFree).later = n.later := rfl
@[simp] theorem Node.takeFree_events (n : Node) : (n.takeFree).events = n.events := rfl
@[simp] theorem Node.takeFree_evHead (n : Node) : (n.takeFree).evHead = n.evHead := rfl
@[simp] theorem Node.takeFree_evSeq (n : Node) : (n.takeFree).evSeq = n.evSeq := rfl
@[simp] theorem Node.takeFree_out (n : Node) : (n.takeFree).out = n.out := rfl
@[simp] theorem Node.takeFree_assert (n : Node) : (n.takeFree).assert = n.assert := rfl
@[simp] theorem Node.takeFree_jobTag (n : Node) : (n.takeFree).jobTag = n.jobTag := rfl
@[simp] theorem Node.takeFree_retUps (n : Node) : (n.takeFree).retUps = n.retUps := rfl
@[simp] theorem Node.takeFree_govEvt (n : Node) : (n.takeFree).govEvt = n.govEvt := rfl
@[simp] theorem Node.takeFree_therm (n : Node) : (n.takeFree).therm = n.therm := rfl
@[simp] theorem Node.takeFree_retain (n : Node) : (n.takeFree).retain = n.retain := rfl
@[simp] theorem Node.takeFree_shift (n : Node) : (n.takeFree).shift = n.shift := rfl

@[simp] theorem Node.raise_on (n : Node) (s t : Nat) : (n.raise s t).on = n.on := rfl
@[simp] theorem Node.raise_free (n : Node) (s t : Nat) : (n.raise s t).free = n.free := rfl
@[simp] theorem Node.raise_cfg (n : Node) (s t : Nat) : (n.raise s t).cfg = n.cfg := rfl
@[simp] theorem Node.raise_tiles (n : Node) (s t : Nat) : (n.raise s t).tiles = n.tiles := rfl
@[simp] theorem Node.raise_ctxs (n : Node) (s t : Nat) : (n.raise s t).ctxs = n.ctxs := rfl
@[simp] theorem Node.raise_fills (n : Node) (s t : Nat) : (n.raise s t).fills = n.fills := rfl
@[simp] theorem Node.raise_flight (n : Node) (s t : Nat) : (n.raise s t).flight = n.flight := rfl
@[simp] theorem Node.raise_held (n : Node) (s t : Nat) : (n.raise s t).held = n.held := rfl
@[simp] theorem Node.raise_strStat (n : Node) (s t : Nat) : (n.raise s t).strStat = n.strStat := rfl
@[simp] theorem Node.raise_overruns (n : Node) (s t : Nat) : (n.raise s t).overruns = n.overruns := rfl
@[simp] theorem Node.raise_split (n : Node) (s t : Nat) : (n.raise s t).split = n.split := rfl
@[simp] theorem Node.raise_mems (n : Node) (s t : Nat) : (n.raise s t).mems = n.mems := rfl
@[simp] theorem Node.raise_fcache (n : Node) (s t : Nat) : (n.raise s t).fcache = n.fcache := rfl
@[simp] theorem Node.raise_fcAlt (n : Node) (s t : Nat) : (n.raise s t).fcAlt = n.fcAlt := rfl
@[simp] theorem Node.raise_fcLog (n : Node) (s t : Nat) : (n.raise s t).fcLog = n.fcLog := rfl
@[simp] theorem Node.raise_wire (n : Node) (s t : Nat) : (n.raise s t).wire = n.wire := rfl
@[simp] theorem Node.raise_peers (n : Node) (s t : Nat) : (n.raise s t).peers = n.peers := rfl
@[simp] theorem Node.raise_subs (n : Node) (s t : Nat) : (n.raise s t).subs = n.subs := rfl
@[simp] theorem Node.raise_ports (n : Node) (s t : Nat) : (n.raise s t).ports = n.ports := rfl
@[simp] theorem Node.raise_told (n : Node) (s t : Nat) : (n.raise s t).told = n.told := rfl
@[simp] theorem Node.raise_bycode (n : Node) (s t : Nat) : (n.raise s t).bycode = n.bycode := rfl
@[simp] theorem Node.raise_session (n : Node) (s t : Nat) : (n.raise s t).session = n.session := rfl
@[simp] theorem Node.raise_serial (n : Node) (s t : Nat) : (n.raise s t).serial = n.serial := rfl
@[simp] theorem Node.raise_tshCfg (n : Node) (s t : Nat) : (n.raise s t).tshCfg = n.tshCfg := rfl
@[simp] theorem Node.raise_timers (n : Node) (s t : Nat) : (n.raise s t).timers = n.timers := rfl
@[simp] theorem Node.raise_peerEvt (n : Node) (s t : Nat) : (n.raise s t).peerEvt = n.peerEvt := rfl
@[simp] theorem Node.raise_redCfg (n : Node) (s t : Nat) : (n.raise s t).redCfg = n.redCfg := rfl
@[simp] theorem Node.raise_redEvt (n : Node) (s t : Nat) : (n.raise s t).redEvt = n.redEvt := rfl
@[simp] theorem Node.raise_red (n : Node) (s t : Nat) : (n.raise s t).red = n.red := rfl
@[simp] theorem Node.raise_job (n : Node) (s t : Nat) : (n.raise s t).job = n.job := rfl
@[simp] theorem Node.raise_commit (n : Node) (s t : Nat) : (n.raise s t).commit = n.commit := rfl
@[simp] theorem Node.raise_gng (n : Node) (s t : Nat) : (n.raise s t).gng = n.gng := rfl
@[simp] theorem Node.raise_guard (n : Node) (s t : Nat) : (n.raise s t).guard = n.guard := rfl
@[simp] theorem Node.raise_tps (n : Node) (s t : Nat) : (n.raise s t).tps = n.tps := rfl
@[simp] theorem Node.raise_gov (n : Node) (s t : Nat) : (n.raise s t).gov = n.gov := rfl
@[simp] theorem Node.raise_fdbgCtl (n : Node) (s t : Nat) : (n.raise s t).fdbgCtl = n.fdbgCtl := rfl
@[simp] theorem Node.raise_fdbgData (n : Node) (s t : Nat) : (n.raise s t).fdbgData = n.fdbgData := rfl
@[simp] theorem Node.raise_fdbgAt (n : Node) (s t : Nat) : (n.raise s t).fdbgAt = n.fdbgAt := rfl
@[simp] theorem Node.raise_ermLog (n : Node) (s t : Nat) : (n.raise s t).ermLog = n.ermLog := rfl
@[simp] theorem Node.raise_asm (n : Node) (s t : Nat) : (n.raise s t).asm = n.asm := rfl
@[simp] theorem Node.raise_asleep (n : Node) (s t : Nat) : (n.raise s t).asleep = n.asleep := rfl
@[simp] theorem Node.raise_later (n : Node) (s t : Nat) : (n.raise s t).later = n.later := rfl
@[simp] theorem Node.raise_events (n : Node) (s t : Nat) : (n.raise s t).events = n.events := rfl
@[simp] theorem Node.raise_evHead (n : Node) (s t : Nat) : (n.raise s t).evHead = n.evHead := rfl
@[simp] theorem Node.raise_evSeq (n : Node) (s t : Nat) : (n.raise s t).evSeq = n.evSeq := rfl
@[simp] theorem Node.raise_out (n : Node) (s t : Nat) : (n.raise s t).out = n.out := rfl
@[simp] theorem Node.raise_jobTag (n : Node) (s t : Nat) : (n.raise s t).jobTag = n.jobTag := rfl
@[simp] theorem Node.raise_retUps (n : Node) (s t : Nat) : (n.raise s t).retUps = n.retUps := rfl
@[simp] theorem Node.raise_govEvt (n : Node) (s t : Nat) : (n.raise s t).govEvt = n.govEvt := rfl
@[simp] theorem Node.raise_therm (n : Node) (s t : Nat) : (n.raise s t).therm = n.therm := rfl
@[simp] theorem Node.raise_retain (n : Node) (s t : Nat) : (n.raise s t).retain = n.retain := rfl
@[simp] theorem Node.raise_shift (n : Node) (s t : Nat) : (n.raise s t).shift = n.shift := rfl

@[simp] theorem Node.taint_on (n : Node) : (n.taint).on = n.on := rfl
@[simp] theorem Node.taint_free (n : Node) : (n.taint).free = n.free := rfl
@[simp] theorem Node.taint_cfg (n : Node) : (n.taint).cfg = n.cfg := rfl
@[simp] theorem Node.taint_tiles (n : Node) : (n.taint).tiles = n.tiles := rfl
@[simp] theorem Node.taint_ctxs (n : Node) : (n.taint).ctxs = n.ctxs := rfl
@[simp] theorem Node.taint_fills (n : Node) : (n.taint).fills = n.fills := rfl
@[simp] theorem Node.taint_flight (n : Node) : (n.taint).flight = n.flight := rfl
@[simp] theorem Node.taint_held (n : Node) : (n.taint).held = n.held := rfl
@[simp] theorem Node.taint_strStat (n : Node) : (n.taint).strStat = n.strStat := rfl
@[simp] theorem Node.taint_overruns (n : Node) : (n.taint).overruns = n.overruns := rfl
@[simp] theorem Node.taint_split (n : Node) : (n.taint).split = n.split := rfl
@[simp] theorem Node.taint_mems (n : Node) : (n.taint).mems = n.mems := rfl
@[simp] theorem Node.taint_fcache (n : Node) : (n.taint).fcache = n.fcache := rfl
@[simp] theorem Node.taint_fcAlt (n : Node) : (n.taint).fcAlt = n.fcAlt := rfl
@[simp] theorem Node.taint_fcLog (n : Node) : (n.taint).fcLog = n.fcLog := rfl
@[simp] theorem Node.taint_wire (n : Node) : (n.taint).wire = n.wire := rfl
@[simp] theorem Node.taint_peers (n : Node) : (n.taint).peers = n.peers := rfl
@[simp] theorem Node.taint_subs (n : Node) : (n.taint).subs = n.subs := rfl
@[simp] theorem Node.taint_ports (n : Node) : (n.taint).ports = n.ports := rfl
@[simp] theorem Node.taint_told (n : Node) : (n.taint).told = n.told := rfl
@[simp] theorem Node.taint_bycode (n : Node) : (n.taint).bycode = n.bycode := rfl
@[simp] theorem Node.taint_session (n : Node) : (n.taint).session = n.session := rfl
@[simp] theorem Node.taint_serial (n : Node) : (n.taint).serial = n.serial := rfl
@[simp] theorem Node.taint_tshCfg (n : Node) : (n.taint).tshCfg = n.tshCfg := rfl
@[simp] theorem Node.taint_timers (n : Node) : (n.taint).timers = n.timers := rfl
@[simp] theorem Node.taint_peerEvt (n : Node) : (n.taint).peerEvt = n.peerEvt := rfl
@[simp] theorem Node.taint_redCfg (n : Node) : (n.taint).redCfg = n.redCfg := rfl
@[simp] theorem Node.taint_redEvt (n : Node) : (n.taint).redEvt = n.redEvt := rfl
@[simp] theorem Node.taint_red (n : Node) : (n.taint).red = n.red := rfl
@[simp] theorem Node.taint_job (n : Node) : (n.taint).job = n.job := rfl
@[simp] theorem Node.taint_gng (n : Node) : (n.taint).gng = n.gng := rfl
@[simp] theorem Node.taint_guard (n : Node) : (n.taint).guard = n.guard := rfl
@[simp] theorem Node.taint_tps (n : Node) : (n.taint).tps = n.tps := rfl
@[simp] theorem Node.taint_gov (n : Node) : (n.taint).gov = n.gov := rfl
@[simp] theorem Node.taint_fdbgCtl (n : Node) : (n.taint).fdbgCtl = n.fdbgCtl := rfl
@[simp] theorem Node.taint_fdbgData (n : Node) : (n.taint).fdbgData = n.fdbgData := rfl
@[simp] theorem Node.taint_fdbgAt (n : Node) : (n.taint).fdbgAt = n.fdbgAt := rfl
@[simp] theorem Node.taint_ermLog (n : Node) : (n.taint).ermLog = n.ermLog := rfl
@[simp] theorem Node.taint_asm (n : Node) : (n.taint).asm = n.asm := rfl
@[simp] theorem Node.taint_asleep (n : Node) : (n.taint).asleep = n.asleep := rfl
@[simp] theorem Node.taint_later (n : Node) : (n.taint).later = n.later := rfl
@[simp] theorem Node.taint_events (n : Node) : (n.taint).events = n.events := rfl
@[simp] theorem Node.taint_evHead (n : Node) : (n.taint).evHead = n.evHead := rfl
@[simp] theorem Node.taint_evSeq (n : Node) : (n.taint).evSeq = n.evSeq := rfl
@[simp] theorem Node.taint_out (n : Node) : (n.taint).out = n.out := rfl
@[simp] theorem Node.taint_assert (n : Node) : (n.taint).assert = n.assert := rfl
@[simp] theorem Node.taint_jobTag (n : Node) : (n.taint).jobTag = n.jobTag := rfl
@[simp] theorem Node.taint_retUps (n : Node) : (n.taint).retUps = n.retUps := rfl
@[simp] theorem Node.taint_govEvt (n : Node) : (n.taint).govEvt = n.govEvt := rfl
@[simp] theorem Node.taint_therm (n : Node) : (n.taint).therm = n.therm := rfl
@[simp] theorem Node.taint_retain (n : Node) : (n.taint).retain = n.retain := rfl
@[simp] theorem Node.taint_shift (n : Node) : (n.taint).shift = n.shift := rfl

/-! ### Reads after writes -/

@[simp] theorem Thread.getS_zero (th : Thread) : th.getS 0 = 0 := rfl
theorem Thread.getS_setS (th : Thread) (r q : Nat) (v : Word) :
    (th.setS r v).getS q = if q = r ∧ r ≠ 0 then v else th.getS q := by
  unfold Thread.setS Thread.getS
  by_cases hr : r = 0
  · subst hr; simp
  · by_cases hq : q = 0
    · subst hq; simp [hr, Ne.symm hr]
    · simp only [hr, hq, if_false, Map.getD_put]
      by_cases h : q = r <;> simp [h, hr]
@[simp] theorem Thread.getP_zero (th : Thread) : th.getP 0 = true := rfl
theorem Thread.getP_setP (th : Thread) (r q : Nat) (v : Bool) :
    (th.setP r v).getP q = if q = r ∧ r ≠ 0 then v else th.getP q := by
  unfold Thread.setP Thread.getP
  by_cases hr : r = 0
  · subst hr; simp
  · by_cases hq : q = 0
    · subst hq; simp [hr, Ne.symm hr]
    · simp only [hr, hq, if_false, Map.getD_put]
      by_cases h : q = r <;> simp [h, hr]
theorem Thread.getV_setV (th : Thread) (r q : Nat) (v : VReg) :
    (th.setV r v).getV q = if q = r then v else th.getV q := by simp [Thread.getV, Thread.setV, Map.getD_put]
theorem Thread.getK_setK (th : Thread) (c q v : Nat) :
    (th.setK c v).getK q = if q = c then v else th.getK q := by simp [Thread.getK, Thread.setK, Map.getD_put]
@[simp] theorem Thread.getP_setS (th : Thread) (r q : Nat) (v : Word) : (th.setS r v).getP q = th.getP q := by
  simp [Thread.getP]
@[simp] theorem Thread.getV_setS (th : Thread) (r q : Nat) (v : Word) : (th.setS r v).getV q = th.getV q := by
  simp [Thread.getV]
@[simp] theorem Thread.getK_setS (th : Thread) (r q : Nat) (v : Word) : (th.setS r v).getK q = th.getK q := by
  simp [Thread.getK]
@[simp] theorem Thread.getS_setP (th : Thread) (r q : Nat) (v : Bool) : (th.setP r v).getS q = th.getS q := by
  simp [Thread.getS]
@[simp] theorem Thread.getS_step (th : Thread) (q : Nat) : th.step.getS q = th.getS q := rfl
@[simp] theorem Thread.getP_step (th : Thread) (q : Nat) : th.step.getP q = th.getP q := rfl
@[simp] theorem Thread.getV_step (th : Thread) (q : Nat) : th.step.getV q = th.getV q := rfl
@[simp] theorem Thread.getK_step (th : Thread) (q : Nat) : th.step.getK q = th.getK q := rfl
@[simp] theorem Thread.step_pc (th : Thread) : th.step.pc = (th.pc + 1) % 4096 := rfl

@[simp] theorem Tile.thread_setThread (x : Tile) (i : Nat) (th : Thread) : (x.setThread i th).thread i = th := by
  simp [Tile.thread, Tile.setThread]
theorem Tile.thread_setThread_other (x : Tile) (i j : Nat) (th : Thread) (h : j ≠ i) :
    (x.setThread i th).thread j = x.thread j := by simp [Tile.thread, Tile.setThread, Map.getD_put_other _ _ _ _ _ h]
@[simp] theorem Tile.thread_issueMark (x : Tile) (i j c : Nat) : (x.issueMark i c).thread j = x.thread j := rfl
@[simp] theorem Node.tile_setTile (n : Node) (t : Nat) (x : Tile) : (n.setTile t x).tile t = x := by
  simp [Node.tile, Node.setTile]
theorem Node.tile_setTile_other (n : Node) (t u : Nat) (x : Tile) (h : u ≠ t) : (n.setTile t x).tile u = n.tile u := by
  simp [Node.tile, Node.setTile, Map.getD_put_other _ _ _ _ _ h]
@[simp] theorem Node.tile_modTile (n : Node) (t : Nat) (f : Tile → Tile) : (n.modTile t f).tile t = f (n.tile t) := by
  simp [Node.modTile]
theorem Node.tile_modTile_other (n : Node) (t u : Nat) (f : Tile → Tile) (h : u ≠ t) :
    (n.modTile t f).tile u = n.tile u := Node.tile_setTile_other n t u _ h
@[simp] theorem Node.setTile_setTile (n : Node) (t : Nat) (x y : Tile) : (n.setTile t x).setTile t y = n.setTile t y := by
  simp [Node.setTile]
@[simp] theorem Node.modTile_modTile (n : Node) (t : Nat) (f g : Tile → Tile) :
    (n.modTile t f).modTile t g = n.modTile t (g ∘ f) := by simp [Node.modTile]
/-- A change of a thread is a change of its tile. -/
theorem Node.modThread_eq (n : Node) (t i : Nat) (f : Thread → Thread) :
    n.modThread t i f = n.modTile t fun x => x.setThread i (f (x.thread i)) := rfl
@[simp] theorem Node.thread_modThread (n : Node) (t i : Nat) (f : Thread → Thread) :
    (n.modThread t i f).thread t i = f (n.thread t i) := by simp [Node.thread, Node.modThread_eq]
@[simp] theorem Node.thread_issueMark (n : Node) (t i j c : Nat) :
    (n.modTile t (·.issueMark j c)).thread t i = n.thread t i := by simp [Node.thread]

end Sys2Proof.Machine
end

