-- ==== Sys2Proof/Laws/Issue.lean ====
section
/-! SUPPORT. What the shared forms of the tile instructions can do: `settle` where nothing is asked, and the cases of
`Node.issueAt`. -/
namespace Sys2Proof.Machine

@[simp] theorem Node.quiet_setTile (n : Node) (t : Nat) (x : Tile) : (n.setTile t x).quiet = n.quiet := rfl
@[simp] theorem Node.quiet_modTile (n : Node) (t : Nat) (f : Tile → Tile) : (n.modTile t f).quiet = n.quiet := rfl
@[simp] theorem Node.quiet_modThread (n : Node) (t i : Nat) (f : Thread → Thread) :
    (n.modThread t i f).quiet = n.quiet := rfl
@[simp] theorem Node.quiet_setPeer (n : Node) (d : Nat) (p : Peer) : (n.setPeer d p).quiet = n.quiet := rfl
@[simp] theorem Node.quiet_takeFree (n : Node) : n.takeFree.quiet = n.quiet := rfl

/-- Where the node asks nothing, `settle` changes nothing. -/
theorem settle_quiet {s : State} (h : s.node.quiet = true) : settle s = s := by simp [settle, h]

/-- A command of the node whose outcome asks nothing of the always-on domain. -/
theorem lift_quiet {s : State} (f : Node → Node) (h : (f s.node).quiet = true) :
    lift f s = .next { s with node := f s.node } := by
  simp only [lift]
  rw [settle_quiet]
  exact h

/-- A thread whose next word cannot be fetched does not issue. -/
theorem Node.canIssue_of_canFetch {n : Node} {x : Site} (h : n.canFetch x = false) : n.canIssue x = false := by
  simp [Node.canIssue, h]

/-- Nothing happens while the thread is not ready. -/
theorem Node.issueAt_waits {n : Node} {x : Site} (h : n.canFetch x = false) (cost : Nat) (bad : Bool)
    (block : Node → Option Wait) (f : Node → Node) : n.issueAt x cost bad block f = n := by
  simp [Node.issueAt, Node.canIssue_of_canFetch h, h]

/-- A word that the instruction store cannot give is an uncorrectable event, and nothing issues. -/
theorem Node.issueAt_unread {n : Node} {x : Site} (h : n.canFetch x = true)
    (hb : (n.tile x.tile).ibad.contains (n.thread x.tile x.thr).pc = true) (cost : Nat) (bad : Bool)
    (block : Node → Option Wait) (f : Node → Node) : n.issueAt x cost bad block f = n.innerBad x.tile := by
  have hi : n.canIssue x = false := by rw [Node.canIssue, hb]; simp
  rw [Node.issueAt, hi, h]
  rfl

/-- A reserved encoding is an illegal instruction, whatever the predicate. -/
theorem Node.issueAt_reserved {n : Node} {x : Site} (h : n.canIssue x = true) {bad : Bool}
    (hb : (bad || x.res != 0) = true) (cost : Nat) (block : Node → Option Wait) (f : Node → Node) :
    n.issueAt x cost bad block f = (n.modTile x.tile (·.issueMark x.thr cost)).illegal x := by
  simp only [Node.issueAt, h, hb, if_true]

/-- A false predicate takes one slot and moves the pc on. -/
theorem Node.issueAt_skips {n : Node} {x : Site} (h : n.canIssue x = true) {bad : Bool}
    (hb : (bad || x.res != 0) = false) (hp : (n.thread x.tile x.thr).selects x = false) (cost : Nat)
    (block : Node → Option Wait) (f : Node → Node) :
    n.issueAt x cost bad block f =
      (n.modTile x.tile (·.issueMark x.thr 1)).modThread x.tile x.thr (·.step) := by
  simp [Node.issueAt, h, hb, hp]

/-- A selected instruction that must wait leaves its thread waiting. -/
theorem Node.issueAt_blocks {n : Node} {x : Site} (h : n.canIssue x = true) {bad : Bool}
    (hb : (bad || x.res != 0) = false) (hp : (n.thread x.tile x.thr).selects x = true) {block : Node → Option Wait}
    {w : Wait} (hw : block n = some w) (cost : Nat) (f : Node → Node) :
    n.issueAt x cost bad block f = n.modThread x.tile x.thr fun th => { th with wait := w } := by
  simp [Node.issueAt, h, hb, hp, hw]

/-- A selected instruction that need not wait has its effect. -/
theorem Node.issueAt_goes {n : Node} {x : Site} (h : n.canIssue x = true) {bad : Bool}
    (hb : (bad || x.res != 0) = false) (hp : (n.thread x.tile x.thr).selects x = true) {block : Node → Option Wait}
    (hw : block n = none) (cost : Nat) (f : Node → Node) :
    n.issueAt x cost bad block f = f (n.modTile x.tile (·.issueMark x.thr cost)) := by
  simp [Node.issueAt, h, hb, hp, hw]

/-- A selected instruction whose whole effect is on its thread's registers: one tile changes, by the issue counters and
by that thread. -/
theorem Node.issueReg_goes {n : Node} {x : Site} (h : n.canIssue x = true) {bad : Bool}
    (hb : (bad || x.res != 0) = false) (hp : (n.thread x.tile x.thr).selects x = true) (cost : Nat)
    (f : Thread → Thread) :
    n.issueReg x cost bad f = n.setTile x.tile
      (((n.tile x.tile).issueMark x.thr cost).setThread x.thr (f (n.thread x.tile x.thr)).step) := by
  rw [Node.issueReg, Node.issueAt_goes h hb hp rfl, Node.modThread_eq]
  simp [Node.modTile, Node.thread]

/-- The register instructions ask nothing of the always-on domain, unless they fault. -/
theorem lift_issueReg {s : State} {x : Site} (hq : s.node.quiet = true) (h : s.node.canIssue x = true) {bad : Bool}
    (hb : (bad || x.res != 0) = false) (hp : (s.node.thread x.tile x.thr).selects x = true) (cost : Nat)
    (f : Thread → Thread) :
    lift (fun n => n.issueReg x cost bad f) s = 
      .next { s with
        node := s.node.setTile x.tile
          (((s.node.tile x.tile).issueMark x.thr cost).setThread x.thr (f (s.node.thread x.tile x.thr)).step) } := by
  rw [lift_quiet]
  · rw [Node.issueReg_goes h hb hp]
  · rw [Node.issueReg_goes h hb hp]; simpa using hq

end Sys2Proof.Machine
end

