-- ==== Sys2Proof/Laws/Memory.lean ====
section
/-! SUPPORT. Every operation on memory keeps its canonical form. -/
namespace Sys2Proof.Map

variable {α : Type}

theorem all_put {p : Nat × α → Bool} {m : Map α} {k : Nat} {v : α} (h : m.all p = true) (hv : p (k, v) = true) :
    (put m k v).all p = true := by
  induction m with
  | nil => simpa [put] using hv
  | cons x t ih =>
    obtain ⟨a, b⟩ := x
    rw [List.all_cons, Bool.and_eq_true] at h
    unfold put
    split
    · simp [hv, h.1, h.2]
    · split
      · simp [hv, h.2]
      · rw [List.all_cons, h.1, ih h.2]; rfl

theorem all_del {p : Nat × α → Bool} {m : Map α} (k : Nat) (h : m.all p = true) : (del m k).all p = true := by
  induction m with
  | nil => rfl
  | cons x t ih =>
    obtain ⟨a, b⟩ := x
    rw [List.all_cons, Bool.and_eq_true] at h
    unfold del
    split
    · exact ih h.2
    · rw [List.all_cons, h.1, ih h.2]; rfl

theorem all_getD {p : α → Bool} {m : Map α} (k : Nat) {d : α} (h : (m.all fun kv => p kv.2) = true) (hd : p d = true) :
    p (getD m k d) = true := by
  induction m with
  | nil => simpa [getD, look] using hd
  | cons x t ih =>
    obtain ⟨a, b⟩ := x
    rw [List.all_cons, Bool.and_eq_true] at h
    unfold getD look
    split
    · exact h.1
    · exact ih h.2

theorem all_filter {p : Nat × α → Bool} {m : Map α} (q : Nat × α → Bool) (h : m.all p = true) :
    (List.filter q m).all p = true := by
  rw [List.all_eq_true] at h ⊢
  intro x hx
  exact h x (List.mem_filter.mp hx).1

end Sys2Proof.Map

namespace Sys2Proof.Machine

/-- The tiers' part of the canonical form. -/
def Node.tiersWf (n : Node) : Bool :=
  Map.wf n.mems.data && n.mems.data.all fun kv => !(n.zeroed kv.1 && kv.2 == 0)

/-- The tiles' part of the canonical form. -/
def Node.tilesWf (n : Node) : Bool := Map.wf n.tiles && n.tiles.all fun kv => Map.wf kv.2.sram

theorem Node.memWf_iff (n : Node) : n.memWf = true ↔ n.tiersWf = true ∧ n.tilesWf = true := by
  simp [Node.memWf, Node.tiersWf, Node.tilesWf, and_assoc]

theorem Node.sram_wf {n : Node} (h : n.tilesWf = true) (t : Nat) : Map.wf (n.tile t).sram = true := by
  rw [Node.tilesWf, Bool.and_eq_true] at h
  exact Map.all_getD (p := fun x : Tile => Map.wf x.sram) t h.2 rfl

theorem Node.tilesWf_setTile {n : Node} (h : n.tilesWf = true) (t : Nat) {x : Tile} (hx : Map.wf x.sram = true) :
    (n.setTile t x).tilesWf = true := by
  rw [Node.tilesWf, Bool.and_eq_true] at h ⊢
  exact ⟨Map.wf_put t x h.1, Map.all_put h.2 hx⟩

theorem Node.memWf_setTile {n : Node} (h : n.memWf = true) (t : Nat) {x : Tile} (hx : Map.wf x.sram = true) :
    (n.setTile t x).memWf = true := by
  rw [Node.memWf_iff] at h ⊢
  exact ⟨h.1, Node.tilesWf_setTile h.2 t hx⟩

/-- A change of a tile that keeps the order of its SRAM keeps the canonical form. -/
theorem Node.memWf_modTile {n : Node} (h : n.memWf = true) (t : Nat) {f : Tile → Tile}
    (hf : ∀ x : Tile, Map.wf x.sram = true → Map.wf (f x).sram = true) : (n.modTile t f).memWf = true :=
  Node.memWf_setTile h t (hf _ (Node.sram_wf ((Node.memWf_iff n).mp h).2 t))

theorem Node.memWf_foldl {α : Type} {f : Node → α → Node} (hf : ∀ m a, m.memWf = true → (f m a).memWf = true) :
    ∀ (l : List α) {n : Node}, n.memWf = true → (l.foldl f n).memWf = true
  | [], _, h => h
  | a :: t, n, h => Node.memWf_foldl hf t (hf n a h)

/-- New bytes of the tiers, in canonical form. -/
theorem Node.memWf_data {n : Node} (h : n.memWf = true) {d : Map Byte} (hw : d.wf = true)
    (hz : (d.all fun kv => !(n.zeroed kv.1 && kv.2 == 0)) = true) :
    ({ n with mems := { n.mems with data := d } } : Node).memWf = true := by
  rw [Node.memWf_iff] at h ⊢
  refine ⟨?_, h.2⟩
  rw [Node.tiersWf, Bool.and_eq_true]
  exact ⟨hw, hz⟩

/-- What changes neither the tiers' bytes, nor what is zeroed, nor the tiles keeps the canonical form. -/
theorem Node.memWf_congr {n m : Node} (h : n.memWf = true) (hd : m.mems.data = n.mems.data)
    (hz : m.mems.zero = n.mems.zero) (ht : m.tiles = n.tiles) : m.memWf = true := by
  simpa only [Node.memWf, Node.zeroed, hd, hz, ht] using h

theorem Node.memWf_poke {n : Node} (h : n.memWf = true) (v a : Nat) (b : Byte) : (n.poke v a b).memWf = true := by
  have tier : ({ n with mems := { n.mems with data := n.setByte a b } } : Node).memWf = true := by
    have h1 := ((Node.memWf_iff n).mp h).1
    rw [Node.tiersWf, Bool.and_eq_true] at h1
    unfold Node.setByte
    split
    · exact Node.memWf_data h (Map.wf_del a h1.1) (Map.all_del a h1.2)
    · rename_i hb
      exact Node.memWf_data h (Map.wf_put a b h1.1) (Map.all_put h1.2 (by cases hz : n.zeroed a <;> simp_all))
  unfold Node.poke
  split
  · exact Node.memWf_foldl (fun m k hm => Node.memWf_modTile hm k fun x hx => Map.wf_put _ _ hx) _ h
  · exact Node.memWf_congr tier rfl rfl rfl
  · exact tier
  · exact h
  · exact h

theorem Node.memWf_pokes {n : Node} (h : n.memWf = true) (v a : Nat) (bs : List Byte) : (n.pokes v a bs).memWf = true := by
  induction bs generalizing n a with
  | nil => exact h
  | cons b t ih => exact ih (Node.memWf_poke h v a b) (a + 1)

/-- What the shared fetch cache does leaves the memories as they are. -/
theorem Node.memWf_modLine {n : Node} (h : n.memWf = true) (a : Nat) (f : CLine → CLine) : (n.modLine a f).memWf = true := by
  unfold Node.modLine
  dsimp only
  split
  · exact h
  · exact Node.memWf_congr h rfl rfl rfl

theorem Node.memWf_cacheWrite {n : Node} (h : n.memWf = true) (a : Nat) : (n.cacheWrite a).memWf = true :=
  Node.memWf_modLine h a _

theorem Node.memWf_cacheBad {n : Node} (h : n.memWf = true) (a : Nat) : (n.cacheBad a).memWf = true :=
  Node.memWf_congr h rfl rfl rfl

theorem Node.memWf_poison {n : Node} (h : n.memWf = true) (v w : Nat) : (n.poison v w).memWf = true := by
  unfold Node.poison
  dsimp only
  split
  · refine Node.memWf_foldl ?_ _ h
    intro m k hm
    apply Node.memWf_modTile hm
    intro x hx
    exact hx
  · exact Node.memWf_foldl (fun m i hm => Node.memWf_modLine hm _ _) _ (Node.memWf_congr h rfl rfl rfl)
  · exact Node.memWf_congr h rfl rfl rfl
  · exact h
  · exact h

theorem Node.memWf_mend {n : Node} (h : n.memWf = true) (v w : Nat) : (n.mend v w).memWf = true := by
  have tier : ∀ m : Node, m.mems.data = n.mems.data → m.mems.zero = n.mems.zero → m.tiles = n.tiles →
      (if w * 8 < Config.gddrEnd then m.cacheWrite (w * 8) else m).memWf = true := by
    intro m hd hz ht
    split
    · exact Node.memWf_cacheWrite (Node.memWf_congr h hd hz ht) _
    · exact Node.memWf_congr h hd hz ht
  unfold Node.mend
  split
  · refine Node.memWf_foldl ?_ _ h
    intro m k hm
    apply Node.memWf_modTile hm
    intro x hx
    exact hx
  · exact tier _ rfl rfl rfl
  · exact tier _ rfl rfl rfl
  · exact h
  · exact h

theorem Node.memWf_zeroRange {n : Node} (h : n.memWf = true) (a len : Nat) : (n.zeroRange a len).memWf = true := by
  rw [Node.memWf_iff] at h ⊢
  refine ⟨?_, h.2⟩
  have h1 := h.1
  rw [Node.tiersWf, Bool.and_eq_true] at h1 ⊢
  refine ⟨Map.wf_filter _ h1.1, ?_⟩
  have h2 := h1.2
  rw [List.all_eq_true] at h2 ⊢
  intro kv hkv
  have hm := List.mem_filter.mp hkv
  have hold := h2 kv hm.1
  have hout := hm.2
  simp only [decide_eq_true_eq] at hout
  have same : (n.zeroRange a len).zeroed kv.1 = n.zeroed kv.1 := by
    simp only [Node.zeroed, Node.zeroRange, Node.cacheZero]
    split
    · rfl
    · have : (List.any [(a, len)] fun r => decide (r.1 ≤ kv.1 ∧ kv.1 < r.1 + r.2)) = false := by
        simp only [List.any_cons, List.any_nil, Bool.or_false, decide_eq_false_iff_not]
        omega
      rw [List.any_append, this, Bool.or_false]
  rw [same]
  exact hold

theorem Node.memWf_fillRegion {n : Node} (h : n.memWf = true) (a : Nat) : (n.fillRegion a).memWf = true := by
  unfold Node.fillRegion
  split
  · exact h
  · dsimp only
    split
    · exact h
    · exact Node.memWf_congr (Node.memWf_zeroRange h _ _) rfl rfl rfl

theorem Node.memWf_fillFor {n : Node} (h : n.memWf = true) (a : Nat) : (n.fillFor a).memWf = true := by
  unfold Node.fillFor
  split
  · exact Node.memWf_fillRegion h a
  · exact h

theorem Node.mems_data_event (n : Node) (c l : Nat) (d : Word) : (n.event c l d).mems = n.mems := by
  unfold Node.event; split <;> rfl
theorem Node.tiles_event (n : Node) (c l : Nat) (d : Word) : (n.event c l d).tiles = n.tiles := by
  unfold Node.event; split <;> rfl
theorem Node.mems_noteEvt (n : Node) (k l : Nat) (a b : Word) : (n.noteEvt k l a b).mems = n.mems := by
  unfold Node.noteEvt; split <;> rfl
theorem Node.tiles_noteEvt (n : Node) (k l : Nat) (a b : Word) : (n.noteEvt k l a b).tiles = n.tiles := by
  unfold Node.noteEvt; split <;> rfl

theorem Node.memWf_ueRecord {n : Node} (h : n.memWf = true) (k t u a : Nat) : (n.ueRecord k t u a).memWf = true := by
  refine Node.memWf_congr h ?_ ?_ ?_ <;>
    simp only [Node.ueRecord, Node.raise_mems, Node.raise_tiles, Node.mems_data_event, Node.tiles_event, Node.mems_noteEvt,
      Node.tiles_noteEvt]

theorem Node.memWf_link {n : Node} (h : n.memWf = true) (l : Map Word) :
    ({ n with mems := { n.mems with link := l } } : Node).memWf = true := Node.memWf_congr h rfl rfl rfl

theorem Node.memWf_taint {n : Node} (h : n.memWf = true) : n.taint.memWf = true := Node.memWf_congr h rfl rfl rfl

theorem Node.memWf_ueAt {n : Node} (h : n.memWf = true) (v k a : Nat) : (n.ueAt v k a).memWf = true := by
  unfold Node.ueAt
  generalize n.tierUnit v a = tu
  obtain ⟨tier, unit⟩ := tu
  simp only
  by_cases hr : tier = 2 ∧ n.mems.rx.contains (a / 8) = true
  · rw [if_pos hr]
    exact Node.memWf_ueRecord (Node.memWf_link h _) _ _ _ _
  · rw [if_neg hr]
    exact Node.memWf_ueRecord h _ _ _ _

theorem Node.memWf_uncorrectable {n : Node} (h : n.memWf = true) (v k a : Nat) : (n.uncorrectable v k a).memWf = true :=
  Node.memWf_ueAt (Node.memWf_taint h) v k a

theorem Node.memWf_corrected {n : Node} (h : n.memWf = true) (two : Bool) (a : Nat) : (n.corrected two a).memWf = true := by
  unfold Node.corrected
  dsimp only
  split
  · exact Node.memWf_congr h rfl rfl rfl
  · exact Node.memWf_congr h rfl rfl rfl
  · exact h

theorem Node.memWf_readStored {n : Node} (h : n.memWf = true) (v w : Nat) : (n.readStored v w).2.memWf = true := by
  unfold Node.readStored
  split
  · exact h
  · exact Node.memWf_corrected h _ _
  · exact Node.memWf_corrected h _ _
  · exact h

theorem Node.memWf_writeWord {n : Node} (h : n.memWf = true) (whole : Bool) (v w : Nat) :
    (n.writeWord whole v w).2.memWf = true := by
  have h1 : (if n.lineEcc w = some .bad then n.cacheBad (w * 8) else n).memWf = true := by
    split
    · exact Node.memWf_cacheBad h _
    · exact h
  have h2 : ∀ m : Node, m.memWf = true →
      (if (m.readStored v w).1 then m.readStored v w else (false, (m.readStored v w).2.mend v w)).2.memWf = true := by
    intro m hm
    split
    · exact Node.memWf_readStored hm v w
    · exact Node.memWf_mend (Node.memWf_readStored hm v w) v w
  unfold Node.writeWord
  split
  · exact Node.memWf_mend h v w
  · exact h2 _ h1

theorem Node.memWf_writeWords {n : Node} (h : n.memWf = true) (whole : Nat → Bool) (v : Nat) (ws : List Nat) :
    (n.writeWords whole v ws).2.memWf = true := by
  have step : ∀ (l : List (Nat × Nat)) (r : Option Nat × Node), r.2.memWf = true →
      (l.foldl (fun (r : Option Nat × Node) kw =>
        let s := r.2.writeWord (whole kw.2) kw.1 kw.2
        (r.1 <|> (if s.1 then some kw.2 else none), s.2)) r).2.memWf = true := by
    intro l
    induction l with
    | nil => intro r hr; exact hr
    | cons kw t ih => intro r hr; exact ih _ (Node.memWf_writeWord hr _ _ _)
  exact step _ (none, n) h

theorem Node.memWf_decodeArrivals {n : Node} (h : n.memWf = true) (v : Nat) (ws : List Nat) :
    (n.decodeArrivals v ws).memWf = true := by
  unfold Node.decodeArrivals
  split
  · exact h
  · refine Node.memWf_foldl ?_ _ h
    intro m w hm
    have hk : ({ m with wire := Map.del m.wire w } : Node).memWf = true := Node.memWf_congr hm rfl rfl rfl
    dsimp only
    split
    · exact Node.memWf_uncorrectable (Node.memWf_poison hk v w) _ _ _
    · exact Node.memWf_pokes hk _ _ _
    · exact hk
    · exact hm

theorem Node.memWf_store {n : Node} (h : n.memWf = true) (v a : Nat) (bs : List Byte) : (n.store v a bs).memWf = true := by
  have h0 : ((n.fillFor a).fillFor (a + bs.length - 1)).memWf = true := Node.memWf_fillFor (Node.memWf_fillFor h _) _
  have h2 := Node.memWf_decodeArrivals (Node.memWf_pokes (Node.memWf_writeWords h0
    (fun w => decide (a ≤ w * 8 ∧ w * 8 + 8 ≤ a + bs.length)) v (wordsOf a bs.length)) v a bs) v (wordsOf a bs.length)
  unfold Node.store
  dsimp only
  split
  · exact h2
  · exact Node.memWf_uncorrectable h2 _ _ _

theorem Node.memWf_storePoison {n : Node} (h : n.memWf = true) (v a len : Nat) : (n.storePoison v a len).memWf = true :=
  Node.memWf_foldl (fun _ w hm => Node.memWf_poison (Node.memWf_fillFor hm _) v w) _ h

theorem Node.memWf_digest {n : Node} (h : n.memWf = true) (t d : Nat) : (n.digest t d).memWf = true := by
  unfold Node.digest
  split
  · apply Node.memWf_modTile h
    intro x hx
    exact hx
  · exact h

theorem Node.memWf_tileStore {n : Node} (h : n.memWf = true) (t a : Nat) (bs : List Byte) :
    (n.tileStore t a bs).memWf = true := by
  unfold Node.tileStore
  dsimp only
  split
  · exact Node.memWf_digest (Node.memWf_store h t a bs) t _
  · exact Node.memWf_digest h t _

/-- Bytes that silicon changed in a tier. -/
theorem Node.memWf_setByte {n : Node} (h : n.memWf = true) (a : Nat) (b : Byte) :
    ({ n with mems := { n.mems with data := n.setByte a b } } : Node).memWf = true := by
  have h1 := ((Node.memWf_iff n).mp h).1
  rw [Node.tiersWf, Bool.and_eq_true] at h1
  unfold Node.setByte
  split
  · exact Node.memWf_data h (Map.wf_del a h1.1) (Map.all_del a h1.2)
  · rename_i hb
    exact Node.memWf_data h (Map.wf_put a b h1.1) (Map.all_put h1.2 (by cases hz : n.zeroed a <;> simp_all))

/-- What the fetch cache alone holds leaves the memories as they are. -/
theorem Node.memWf_cacheHolds {n : Node} (h : n.memWf = true) (w : Nat) (bs : List Byte) : (n.cacheHolds w bs).memWf = true :=
  Node.memWf_congr h rfl rfl rfl

/-- A flaw of a codeword keeps the canonical form. -/
theorem Node.memWf_upset {n : Node} (h : n.memWf = true) (u : Upset) : (n.upset u).memWf = true := by
  cases u <;> simp only [Node.upset]
  case sram t off f =>
    split
    · exact h
    · split
      · exact Node.memWf_modTile h t fun x hx => hx
      · exact Node.memWf_foldl (fun m ba hm => Node.memWf_modTile hm t fun x hx => Map.wf_put _ _ hx) _ h
  case tier a f =>
    split
    · split
      · exact Node.memWf_congr h rfl rfl rfl
      · split
        · refine Node.memWf_foldl (fun m ba hm => Node.memWf_setByte hm _ _) _ ?_
          exact Node.memWf_cacheHolds h _ _
        · exact Node.memWf_foldl (fun m ba hm => Node.memWf_setByte hm _ _) _ h
    · exact h
  case instr t pc f => split <;> exact Node.memWf_modTile h t fun x hx => hx
  case desc t w f =>
    split
    · exact Node.memWf_modTile h t fun x hx => hx
    · refine Node.memWf_modTile h t fun x hx => ?_
      split <;> exact hx
  case cache a f =>
    split
    · exact Node.memWf_modLine h a _
    · split
      · exact Node.memWf_cacheHolds h _ _
      · exact h
  case wire => exact Node.memWf_congr h rfl rfl rfl
  case poison => exact Node.memWf_congr h rfl rfl rfl
  case retry => exact Node.memWf_congr h rfl rfl rfl
  case retained => exact Node.memWf_congr h rfl rfl rfl

/-- The memories right after reset list nothing. -/
theorem memWf_reset : State.reset.node.memWf = true := rfl

end Sys2Proof.Machine
end

