-- ==== Sys2Proof/Laws/Step.lean ====
section
/-! SUPPORT. The cases of `step`. -/
namespace Sys2Proof.Machine

/-- A waiting command is run on the state with the queue's rest. -/
theorem step_push (s : State) (c : Instr) : step (s.push c) = exec c s := rfl

/-- Nothing waits and no thread can issue: the block idles. -/
theorem step_idle {s : State} (hp : s.pending = []) (hn : s.node.sequence = none) : step s = .next s := by
  simp [step, hp, hn]

/-- Nothing waits and a thread can issue: its next instruction runs. -/
theorem step_sequence {s : State} {i : Instr} {n : Node} (hp : s.pending = []) (hn : s.node.sequence = some (i, n)) :
    step s = exec i { s with node := n } := by
  simp [step, hp, hn]

end Sys2Proof.Machine
end

