-- ==== Sys2Proof/Safety.lean ====
section
/-! DEFINITION. What counts as a safe run: every step answers a next state. -/
namespace Sys2Proof.Safety
open Machine

/-- `k` steps from `s` all answer next states, and the last is `t`. -/
def runsTo : Nat → State → State → Prop
  | 0, s, t => s = t
  | k + 1, s, t => ∃ u, step s = .next u ∧ runsTo k u t

/-- A state from which `k` steps can be taken. -/
def safeFor (k : Nat) (s : State) : Prop := ∃ t, runsTo k s t

end Sys2Proof.Safety
end

