-- ==== Sys2Proof/Tests/Slice0.lean ====
section
/-! SUPPORT. Tests: words of the spec's encodings, ill-formed commands, the spec's worked examples, and for each obligation a
state and operands that meet its hypotheses. -/
namespace Sys2Proof.Tests
open Machine Slice0

/-! ### States to test on -/

/-- Thread 0 with code, ready, s1 = 7 and s2 = 0x100. -/
def thread0 : Thread := { Thread.idle with hasCode := true, wait := .ready, s := [(1, 7), (2, 0x100)], p := [(3, true)] }

/-- A used tile with one thread. -/
def tile0 : Tile := { Tile.idle with used := true, thr := [(0, thread0)] }

/-- Every tile group powered and ungated. -/
def groupsOn : Map Tg := (List.range 64).map fun g => (g, { Tg.off with powered := true })

/-- A node in service with tile `x` as logical tile 0 and a started job of one node. -/
def nodeWith (x : Tile) : Node := { Node.reset with
  on := true, tiles := [(0, x)], gov := { Gov.reset with tgs := groupsOn }
  job := { Job.none with loaded := true, started := true, id := 9, nnodes := 1 } }

/-- The always-on domain of a module that is ready. -/
def chipReady : Chip := { Chip.reset with
  chr := { Chrys.reset with asserted := [], held := none, seqOn := false, seqSrcs := [], stopped := false }
  boot := { Boot.reset with phase := 8, ready := true, locked := true }
  pins := { Pins.reset with aux := true, pwrOk := true, alertN := true, pairOn := true, domains := [64, 65, 66, 67, 68, 69] } }

/-- A ready module with tile `x`. -/
def live (x : Tile) : State := { State.reset with node := nodeWith x, chip := chipReady }

/-- The site of thread 0 of logical tile 0, in an instruction that is always selected. -/
def site0 : Site := { tile := 0, thr := 0, ps := 0, pn := false, res := 0, hi := 0 }

/-- The same site with predicate p5, which is false. -/
def site5 : Site := { site0 with ps := 5 }

/-- What a command answers, where it is a next state. -/
def got (i : Instr) (s : State) : Option State :=
  match exec i s with
  | .next t => some t
  | _ => none

/-- A frame from address 1 on sub-port 0 of port 0, a direct one, next in its link sequence (11 R332, R347). -/
def frame1 : Frame := { port := 0, sub := 0, vlan := 2, src := 1, udpPort := 48620, udpLen := 40, sumOk := true, plain := true
                        link := some { lseq := 0, lackv := false, rreq := false, lack := 0 } }

/-- A header from node 1 to node `dst` on channel `vc` of sequence `seq`. -/
def from1 (vc seq : Nat) (dst : Nat := 0) : Header :=
  { ver := 1, odd := false, vc := vc, src := 1, dst := dst, len := 0, seq := seq, jobtag := 9, ctx := 0, res := none, mc := false
    retx := false, grant := none, ce := false, frame := frame1 }

/-! ### Words (04 R112, 05 R162: the spec's own worked encodings) -/

theorem test_decode_twait : decodeTile 17 1 0xC810000000000004 =
    .twait { tile := 17, thr := 1, ps := 0, pn := false, res := 0, hi := 0xC8100000 } 2 false 0 4 := by decide

theorem test_decode_addi : decodeTile 0 0 0x09C0294000000100 =
    .addi { tile := 0, thr := 0, ps := 3, pn := true, res := 0, hi := 0x09C02940 } 5 5 0x100 := by decide

theorem test_decode_mma : decodeTile 300 2 0x4400A65300000000 =
    .mma { tile := 300, thr := 2, ps := 0, pn := false, res := 0, hi := 0x4400A653 } 1 2 3 5 6 := by decide

theorem test_decode_zero_is_nop : decodeTile 0 0 0 = .nop { site0 with hi := 0 } false := by decide

theorem test_decode_filler_is_illegal : reserved (decodeTile 0 0 (BitVec.allOnes 64)) = true := by decide

/-- OP 0x39, V 1, PV 3, VN 0. -/
theorem test_decode_stend : decodeTile 0 0 0xE42C000000000000 =
    .stend { site0 with hi := 0xE42C0000 } true 3 false := by decide

/-- OP 0x09, FN 1, RD 31, TARGET 0xABC. -/
theorem test_decode_call : decodeTile 0 0 0x2401F80000000ABC =
    .call { site0 with hi := 0x2401F800 } 31 0xABC := by decide

theorem test_table_word_spells_nothing : decodeTableWord 64 0xC810000000000004 = none := rfl

/-! ### Commands that are not well formed -/

theorem test_wf_refuses_tile : Instr.wf (.nop { site0 with tile := 2304 } false) = false := by decide
theorem test_wf_refuses_key : Instr.wf (.matrixRetire 6400) = false := by decide
theorem test_wf_refuses_header : Instr.wf (.sealAck { from1 3 0 with ver := 16 } 0) = false := by decide
theorem test_wf_refuses_envelope :
    Instr.wf (.hold ⟨none, .weavo, { from1 0 0 with len := 144 }, 1, 256, 0, 0, some 1, 0, 0, 0, 1, 9⟩) = false := by decide
theorem test_wf_refuses_voile :
    Instr.wf (.putDone (from1 3 0) ⟨257, 0, 0, 0, 0, 0, 0⟩) = false := by decide
theorem test_wf_refuses_context : Instr.wf (.streamComplete 4096) = false := by decide
theorem test_wf_refuses_sub_port : Instr.wf (.blockLockLoss 0 4) = false := by decide
theorem test_wf_refuses_link : Instr.wf (.cxlLinkDown 4) = false := by decide
theorem test_wf_refuses_channel : Instr.wf (.channelRetrain 128 ⟨5, true⟩) = false := by decide
theorem test_wf_refuses_group : Instr.wf (.voltageChangeComplete 64) = false := by decide
theorem test_wf_refuses_address : Instr.wf (.registerWrite (2 ^ 48) 8 0) = false := by decide
theorem test_wf_refuses_domain : Instr.wf (.regulatorReading 72 0) = false := by decide
theorem test_wf_refuses_endpoint : Instr.wf (.setEndpointId 256) = false := by decide
theorem test_wf_refuses_i3c_address : Instr.wf (.entdaa 128) = false := by decide
theorem test_wf_refuses_peer : Instr.wf (.ecnRateRaise 4096) = false := by decide
theorem test_wf_accepts : Instr.wf (.streamComplete 4095) = true := by decide

/-! ### The spec's worked examples -/

theorem test_sr_hash_1 : srHash 0 0 0 0 = 0xF75D0C44 := by decide
theorem test_sr_hash_2 : srHash 0x0000000300000005 41 7 0x806805 = 0x8DCF8115 := by decide
theorem test_sr_hash_3 : srHash 0xFFFFFFFFFFFFFFFF 0 0xFFFFFFFF 0x100000000 = 0x70BECB2A := by decide

/-- 06, the example after R212: 1 + 0.75 × 2^-7 rounds up on that draw, 1 + 0.5 × 2^-7 does not. -/
theorem test_stochastic_rounding :
    (bf16.encode 5 false 0x8DCF8115 (.fin false 515 (-9))).bits = 0x3F81 ∧
    (bf16.encode 5 false 0x8DCF8115 (.fin false 257 (-8))).bits = 0x3F80 := by decide

/-- LIH of 04 R122's example: with LIL before it, the SRAM base of LT 1,500. -/
theorem test_lih : (got (.lih site0 4 0x200) (live { tile0 with thr := [(0, { thread0 with s := [(4, 0x5DC00000)] })] })).map
    (fun t => ((thr t site0).getS 4, (thr t site0).pc)) = some (0x000002005DC00000, 1) := by decide

/-- DBGRD of an array that is not allocated while debug mode is off: class 1, not class 5 (04 R115). -/
theorem test_lowest_class : (got (.dbgrd site0 4 0 0 0 0) (live tile0)).map (fun t => (t.node.tile 0).fault.cls) = some 1 := by
  decide



/-- Twice the base point of P-384, computed outside Lean. -/
theorem test_public_key : ecPublic 2 = 0x08d999057ba3d2d969260045c55b97f089025959a6f434d651d207d19fb96e9e4fe0e86ebe0e64f85b96a9c75295df618e80f1fa5b1b3cedb7bfe8dffd6dba74b275d875bc6cc43e904e505f256ab4255ffd43e94d39e22d61501e700a940e80 := by
  decide +kernel

/-! ### Witnesses: the hypotheses of each obligation are met, clause by clause -/

theorem runs0 : Runs (live tile0) site0 := ⟨by decide, by decide, by decide, by decide⟩

/-- A machine whose memories list no word in error is sound. -/
theorem sound_of (s : State) (ht : ∀ t, (s.node.tile t).bad = []) (hm : s.node.mems.bad = []) (hr : s.node.mems.rx = [])
    (hf : s.node.fcache = []) (hw : s.node.wire = []) : Sound s := by
  have ecc (m : Map Bool) (w : Nat) : eccOf [] m w ≠ .bad := by
    unfold eccOf
    split
    · simp_all
    · split <;> simp
  refine ⟨hw, fun w => ⟨fun v => ?_, ?_⟩⟩
  · unfold Node.storedEcc
    split
    · simp only [ht]; exact ecc _ _
    · rw [hm]; exact ecc _ _
    · split
      · simp
      · rw [hm, hr]; simpa using ecc _ _
    · simp
    · simp
  · unfold Node.lineEcc
    split
    · simp [Node.cset, hf, Map.getD, Map.look, CSet.empty, CSet.find]
    · simp

/-- Sound words can be read. -/
theorem readable_of {s : State} (h : Sound s) (v : Nat) (ws : List Nat) : readable s v ws := by
  intro w _
  split
  · exact (h.2 w).1 v
  · rename_i e he
    intro hb
    exact (h.2 w).2 (by rw [he, hb])

/-- Where every word is sound and no flaw travels, any bytes can be written. -/
theorem writable_of {s : State} (h : Sound s) (a len : Nat) : writable s a len :=
  ⟨fun w _ => ⟨(h.2 w).1, (h.2 w).2⟩, fun w _ => by rw [h.1]; rfl⟩

theorem regionsReady_below (s : State) (a len : Nat) (h : a + len ≤ 0x100000000000) : regionsReady s a len := by
  intro k hk hp
  exfalso
  revert hp
  have hc : ¬(Config.cxlBase ≤ a + k ∧ a + k < s.node.cxlLimit) := by unfold Config.cxlBase; omega
  unfold Node.place
  repeat' split
  all_goals first | (simp; done) | (dsimp only; split <;> simp)

/-- The tiles of a node with one listed tile. -/
theorem one_tile {P : Tile → Prop} (x : Tile) (hx : P x) (hi : P Tile.idle) (t : Nat) : P (Map.getD [(0, x)] t Tile.idle) := by
  simp only [Map.getD, Map.look]
  split <;> simpa

theorem live_sound (x : Tile) (hx : x.bad = []) : Sound (live x) :=
  sound_of _ (fun t => one_tile (P := fun y => y.bad = []) x hx rfl t) rfl rfl rfl rfl

/-- Two commands wait, and with none waiting a thread is ready or not. -/
theorem witness_StepRunsFront : (withFirst (live tile0) .moduleVerdict).pending = [.moduleVerdict] ∧
    State.reset.pending = [] ∧ State.reset.node.sequence = none ∧ (live tile0).node.sequence.isSome = true := by decide

theorem witness_RoundRobin : (∀ kv ∈ State.reset.node.tiles, ∀ k, ¬mayIssue State.reset kv.1 k) ∧
    (∃ kv ∈ (live tile0).node.tiles, ∃ k, mayIssue (live tile0) kv.1 k) :=
  ⟨fun _ h => (by cases h), ⟨(0, tile0), by decide, 0, by unfold mayIssue; decide⟩⟩

/-- A tile whose word at pc 0 the instruction store cannot give. -/
def unreadable : Tile := { tile0 with ibad := [0] }

theorem witness_ThreadsThatDoNotRun : siteOf (.nop site5 false) = some site5 ∧ (live tile0).node.quiet = true ∧
    (live tile0).node.canIssue site5 = true ∧ site5.res = 0 ∧ reserved (.nop site5 false) = false ∧
    (thr (live tile0) site5).getP site5.ps = site5.pn ∧ (live { tile0 with hold := true }).node.canFetch site0 = false ∧
    ((live unreadable).node.canFetch site0 = true ∧ (live unreadable).node.canIssue site0 = false ∧
      (live unreadable).node.quiet = true ∧ (live unreadable).chip.chr.stopped = false ∧
      (live unreadable).chip.pins.pstate ≠ 3) := by decide

theorem witness_ReservedFieldFaults : (live tile0).node.canIssue { site0 with res := 1 } = true ∧
    reserved (.getc site0 4 10) = true ∧ reserved (.getc site0 4 9) = false ∧ calm (live tile0) site0.tile ∧
    site0.tile < 4096 := by unfold calm; decide

theorem witness_ScalarAlu : aluReg (.add site0 4 1 2) = some (site0, 1, 4, fun th => th.getS 1 + th.getS 2) ∧
    aluImm (.shli site0 4 1 63) = some (site0, 1, 4, (fun th : Thread => th.getS 1 <<< (63#32).toNat), false) ∧ Runs (live tile0) site0 :=
  ⟨rfl, rfl, runs0⟩

theorem witness_ScalarControl : compares (.cmpEq site0 1 1 2) = some (site0, 1, fun th => decide (th.getS 1 = th.getS 2)) ∧
    (plogs (.plogAnd site0 1 3 false 0 true)).isSome = true ∧ (branches (.br site0 4095)).isSome = true ∧
    (9#6).toNat < 10 ∧ Runs (live tile0) site0 := ⟨rfl, rfl, rfl, by decide, runs0⟩

/-- A thread whose s1 is the last double word of its tile's SRAM, and s2 the first address above it. -/
def atEdge : Tile := { tile0 with thr := [(0, { thread0 with s := [(1, 0x2000007FFF8), (2, 0x20000080000)] })] }

/-- The same thread while a load of that double word is under way. -/
def loading : Tile := { atEdge with thr := [(0, { thread0 with
  wait := .load, load := some { rd := 4, addr := 0x2000007FFF8, size := 8, signed := false } })] }

theorem witness_ScalarLoads : loads (.ld64 site0 4 1 0) = some (site0, 4, 1, 0, 8, false) ∧
    Runs (live atEdge) site0 ∧ inMemory (live atEdge) (effective (thr (live atEdge) site0) 1 0) 8 ∧
    ownSram 0 (effective (thr (live atEdge) site0) 1 0) 8 = true ∧
    ((live loading).node.thread 0 0).wait = .load ∧
    readable (struck (live loading) []) 0 (wordsOf 0x2000007FFF8 8) ∧ (struck (live loading) []).node.quiet = true ∧
    (live loading).node.stalledAt 0x2000007FFF8 = false ∧ ownWindow 0 0x2000007FFF8 8 = false :=
  ⟨rfl, ⟨by decide, by decide, by decide, by decide⟩, ⟨by decide, by decide⟩, by decide, by decide,
    readable_of (live_sound loading rfl) _ _, by decide, by decide, by decide⟩

theorem witness_ScalarStores : stores (.st64 site0 4 1 0) = some (site0, 4, 1, 0, 8) ∧ site0.wf = true ∧
    inMemory (live atEdge) (effective (thr (live atEdge) site0) 1 0) 8 ∧
    (live atEdge).node.localHit (effective (thr (live atEdge) site0) 1 0) 8 = none ∧
    writable (live atEdge) (effective (thr (live atEdge) site0) 1 0) 8 ∧
    (∀ k, k < 8 → (live atEdge).node.place (effective (thr (live atEdge) site0) 1 0 + k) ≠ .cxl) ∧
    (live atEdge).node.lands 0 (effective (thr (live atEdge) site0) 1 0) = true ∧
    ((live { tile0 with thr := [(0, { thread0 with wait := .stores, stores := [8] })] }).node.thread 0 0).wait = .stores :=
  ⟨rfl, by decide, ⟨by decide, by decide⟩, by decide, writable_of (live_sound atEdge rfl) _ _, by decide, by decide, by decide⟩

/-- One byte above the SRAM, and with bit 48 set. -/
theorem witness_AccessOutOfRange : ownWindow 0 (effective (thr (live atEdge) site0) 2 0) 1 = false ∧
    (live atEdge).node.badAddr (effective (thr (live atEdge) site0) 2 0) 1 = some 0x20000080000 ∧
    2 ^ 48 ≤ effective (thr (live { atEdge with thr := [(0, { thread0 with s := [(1, 0x1000000000000)] })] }) site0) 1 0 ∧
    ((live atEdge).node.tile 0).fault = .clear := by decide

theorem witness_CountersAndBarriers : reserved (.twait site0 2 false 0 4) = false ∧
    waited (thr (live tile0) site0) false 0 0 ≤ (thr (live tile0) site0).getK 2 ∧
    (thr (live tile0) site0).getK 2 < waited (thr (live tile0) site0) false 0 4 ∧
    Map.look ((live tile0).node.tile 0).bars 0 = none ∧
    allThere (live tile0) 0 (0 ||| 2 ^ 0) (arrivals none site0) ∧
    ¬allThere (live { tile0 with thr := [(0, thread0), (1, thread0)] }) 0 (2 ||| 2 ^ 0) (arrivals none site0) :=
  ⟨by decide, by decide, by decide, by decide, by unfold allThere; decide, by unfold allThere; decide⟩

theorem witness_Tokens :
    sends (live tile0) (.tsend site0 0 true 0 0 2 1) = some (site0, ⟨true, 0, 0, 0, 2, 1⟩) ∧
    reserved (.tsend site0 0 true 0 0 2 1) = false ∧ ((live tile0).node.tile 0).used = true ∧
    (sends (live tile0) (.tsend site0 0 true 2304 0 2 1)).map (fun d => decide (2303 < d.2.lt)) = some true ∧
    (∀ f ∈ (live tile0).node.flight, f.node = none) ∧
    (let f : Flight := { lt := 0, thr := 0, ctr := 2, count := 1, epoch := 0, node := none, by_ := none, after := 0 }
     let s : State := { live tile0 with node := { (live tile0).node with flight := [f, { f with count := 65535 }] } }
     s.node.flight[0]? = some f ∧ s.node.tokenFree f = true ∧ f.epoch = (s.node.tile f.lt).epoch ∧
     s.node.shadowed f.lt = false ∧ (s.node.thread f.lt f.thr).getK f.ctr + f.count ≤ 65535) ∧
    65535 < ((live { tile0 with thr := [(0, { thread0 with k := [(2, 1)] })] }).node.thread 0 0).getK 2 + 65535 :=
  ⟨rfl, by decide, by decide, by decide, (by intro f h; cases h), by decide, by decide⟩

theorem witness_StepEndsAndPhases : reserved (.stend site0 true 3 false) = false ∧
    (let s := live { tile0 with phases := [⟨1, 0, 1⟩] }
     (∃ e ∈ (s.node.tile 0).phases, e.phase = (1#8).toNat) ∧ (thr s site0).mark = none) ∧
    (¬∃ e ∈ ((live tile0).node.tile 0).phases, e.phase = (1#8).toNat) ∧ ((live tile0).node.tile 0).recur = [] ∧
    ((live tile0).node.tile 0).dbgEn = false ∧ ((live { tile0 with dbgEn := true }).node.tile 0).dbgEn = true := by decide

/-! Arrays -/

/-- Array 0 allocated, array 1 free. -/
def withArray : Tile := { tile0 with felt := [(0, { Felt.released with alloc := true, held := true })], dbgEn := true }

/-- An FSUMR of array 0 in the queue. -/
def queued : Tile := { withArray with queue := [{ op := .fsumr, f := 0, thr := 0, pc := 0, id := 0 }], opSeq := 1 }

theorem witness_FeltArrays : (arr (live tile0) site0 0).alloc = false ∧ (arr (live tile0) site0 0).held = false ∧
    (arr (live withArray) site0 0).alloc = true ∧ ((live withArray).node.tile 0).queue = [] ∧
    places (live queued) 0 0 < 4 ∧ (∃ e ∈ ((live queued).node.tile 0).queue, e.f = 0) ∧
    (∀ e ∈ ((live queued).node.tile 0).queue, e.atOnce = false ∧ e.id < ((live queued).node.tile 0).opSeq) ∧
    (2#4).toNat < 3 ∧ Runs (live queued) site0 :=
  ⟨by decide, by decide, by decide, by decide, by decide, by decide, by decide, by decide,
    ⟨by decide, by decide, by decide, by decide⟩⟩

theorem witness_MatrixQueue : queues (live withArray) (.fldx site0 0 0) = some (site0, 0, true, .fldx 0, false) ∧
    reserved (.fldx site0 0 0) = false ∧ refusedAtIssue (live withArray) site0 (.fldx 425952) = false ∧
    refusedAtIssue (live withArray) site0 (.fldx 425953) = true ∧ (arr (live withArray) site0 0).strict = false ∧
    places (live withArray) 0 0 < 4 ∧
    4 ≤ places (live { queued with queue := queued.queue ++ queued.queue ++ queued.queue ++ queued.queue }) 0 0 :=
  ⟨rfl, by decide, by decide, by decide, by decide, by decide, by decide⟩

theorem witness_DebugAccess : (10#4).toNat < 11 ∧ ((live withArray).node.tile 0).dbgEn = true ∧
    ((live { withArray with dbgEn := false }).node.tile 0).dbgEn = false ∧
    ((live withArray).node.tile 0).fault = .clear := by decide

theorem witness_EngineRetires : (let e : MEntry := { op := .fsumr, f := 0, thr := 0, pc := 0, id := 0 }
    ((live queued).node.tile 0).queue.find? (·.engine) = some e ∧ ((live queued).node.tile 0).behind e = false ∧
    ((live queued).node.tile 0).conflicts (ltOf 0) e = false ∧ engineResult (live queued) 0 e = some (((live queued).node.tile 0).arr 0).fsumr ∧
    (∀ q ∈ ((live queued).node.tile 0).queue, q.atOnce = false) ∧ (live queued).node.running 0 = true ∧
    ((live queued).node.tile 0).opHurt e.op = false) ∧ Sound (live queued) :=
  ⟨⟨by decide, by decide, by decide, by simp only [engineResult], by decide, by decide, by decide⟩, live_sound queued rfl⟩

/-- One row whose first element is 1 and whose others lie outside the extent. -/
def ones : Rows := [some (.fin false 1 0) :: List.replicate 31 none]

theorem witness_MmaExact : (∀ r ∈ ones, ∀ v ∈ r, finiteElem v = true) ∧ [InvRec.mk 0 0 0].length = ones.length ∧
    |((Felt.released.cell (32 * 0 + 0)).val : Rat)| + loadOf ones ones 0 0 * 2 ^ 298 ≤ 2 ^ 639 - 1 := by
  refine ⟨by decide, rfl, ?_⟩
  have h1 : (2 : Rat) ^ 298 ≤ 2 ^ 638 := pow_le_pow_right₀ (by norm_num) (by norm_num)
  have h2 : (1 : Rat) ≤ 2 ^ 638 := one_le_pow₀ (by norm_num)
  have h3 : (2 : Rat) ^ 639 = 2 * 2 ^ 638 := pow_succ' _ _
  norm_num [loadOf, ones, exactOf, Felt.cell, Felt.released, FCell.zero, Map.getD, Map.look]
  rw [h3]
  generalize (2 : Rat) ^ 638 = x at h1 h2 ⊢
  generalize (2 : Rat) ^ 298 = y at h1 ⊢
  linarith

theorem witness_ResiduesFollow : (∀ r ∈ ones, r.length = 32) ∧ (∀ r ∈ ones, ∀ v ∈ r, finiteElem v = true) ∧
    (Felt.released.mma false 1 ones ones fun _ _ => [InvRec.mk 0 0 0]).2.sat = false ∧ Felt.released.badColumn = none := by
  decide +kernel

/-! Readouts, checks, vectors -/

/-- A KIND 0 descriptor (08 R245): one binary32 element at byte 0 of tile 0's SRAM. -/
def element : List Word :=
  [0x41] ++ List.replicate 11 0 ++ [0x20000000000, 0, 0, 0, 0, 1] ++ List.replicate 14 0

/-- A KIND 2 descriptor (08 R258): one binary32 fill of 7 at byte 8 of tile 0's SRAM, within the node. -/
def filling : List Word :=
  [0x61, 0x1000] ++ List.replicate 10 0 ++ [7] ++ List.replicate 9 0 ++ [0x20000000008, 0, 0, 0, 0, 1] ++ List.replicate 4 0

/-- Array 0 with 1 in its cell (0, 0), and a readout of it through descriptor 3. -/
def reading (op : MOp) : Tile := { withArray with
  descs := [(3, element), (4, filling)], opSeq := 1
  felt := [(0, { Felt.released with alloc := true, held := true })]
  queue := [{ op := op, f := 0, thr := 0, pc := 0, id := 0 }] }

theorem witness_Readouts : let e (op : MOp) : MEntry := { op := op, f := 0, thr := 0, pc := 0, id := 0 }
    let op : MOp := .frd (some 3) 0 false false true 0
    (((live (reading op)).node.tile 0).queue.find? (·.readout) = some (e op) ∧ ((live (reading op)).node.tile 0).behind (e op) = false ∧
      ((live (reading op)).node.tile 0).conflicts 0 (e op) = false ∧ (live (reading op)).node.backed 0 = true ∧
      ((live (reading op)).node.tile 0).fit .readout 0 (some 3) = some (parseDesc element)) ∧
    (let o : MOp := .frdx 425952 true
     ((live (reading o)).node.tile 0).queue.find? (·.readout) = some (e o) ∧ ((live (reading o)).node.tile 0).behind (e o) = false ∧
      ((live (reading o)).node.tile 0).conflicts 0 (e o) = false ∧ 425952 + 98336 ≤ 2 ^ 19) ∧
    (live (reading op)).node.running 0 = true ∧ ((live (reading op)).node.tile 0).opHurt op = false ∧
    (live { reading op with thr := [] }).node.quiet = true ∧ Sound (live (reading op)) ∧
    ((live tile0).node.tile 0).queue.find? (·.readout) = none :=
  ⟨⟨by decide, by decide, by decide, by decide, by decide⟩, ⟨by decide, by decide, by decide, by decide⟩, by decide, by decide,
    by decide, live_sound _ rfl, by decide⟩

/-- What that readout writes. -/
theorem witness_Readouts_writes : let s := live (reading .fsumr)
    let d := parseDesc element
    let r := s.node.readoutOf d ((elemOf d.side0.fmt).getD (.fp fp32)) ((s.node.tile 0).arr 0) 0 false false 0 0
    (elemOf d.side0.fmt).isSome = true ∧ isBlock d.side0.fmt = false ∧ r.es.length = 1 ∧
    (∀ e ∈ r.es, e.poison = false ∧ 0 < e.w) ∧ (touched r.es).all (fun a => (s.node.stretchEnd a).isSome) = true ∧
    apart r.es := by
  unfold apart; decide +kernel

theorem witness_ErmineChecks : let c : Check := { f := 0, thr := 0, pc := 0, bad := some 31, turned := false }
    let s := live { tile0 with checks := [c, { c with bad := none }] }
    (s.node.tile 0).checks = [c, { c with bad := none }] ∧ s.node.on = true ∧
    (s.node.physTile (s.node.physOf 0)).chk = 0 ∧ s.node.guard.chkEvt = 0 := by decide

theorem witness_VectorLanes : let o : VOpts := { t := 4, rm := 0, ov := true }
    (lanes (.vadd site0 1 2 3 o)).isSome = true ∧ reserved (.vadd site0 1 2 3 o) = false ∧
    vregs (.vadd site0 1 2 3 o) = some (site0, [1, 2, 3]) ∧ Runs (live tile0) site0 ∧ settled (live tile0) site0 [1, 2, 3] ∧
    ¬settled (live { tile0 with thr := [(0, { thread0 with vbusy := [3] })] }) site0 [1, 2, 3] :=
  ⟨rfl, by decide, rfl, runs0, by unfold settled; decide, by unfold settled; decide⟩

theorem witness_VectorConvertAndMove :
    reserved (.vcvt site0 8 0 1 2 0 5 true 1 2 3) = false ∧ (cvtType 8).isSome = true ∧ (cvtType 0).isSome = true ∧
    settled (live tile0) site0 [1, 2] ∧ (4#3).toNat < 5 :=
  ⟨by decide, by decide, by decide, by unfold settled; decide, by decide⟩

/-- The last 128 bytes of the SRAM, and one byte further. -/
theorem witness_VectorMemory : let s := live { tile0 with thr := [(0, { thread0 with s := [(1, 0x7FF80), (2, 0x7FF81)] })] }
    vectorAt s site0 1 0 = 0x7FF80 ∧ 0x7FF80 < vectorAt s site0 2 0 ∧ s.node.backed (ltOf site0.tile) = true ∧
    (s.node.tile site0.tile).fault = .clear := by decide

theorem witness_TopKStates : let op : TopkOp := { thr := 0, pc := 0, vd := 1, desc := some 3, k := 8, dir := true }
    let s := live { reading .fsumr with topk := [op] }
    (s.node.tile 0).topk = op :: [] ∧ (s.node.tile 0).fit .topk (ltOf 0) op.desc = some (parseDesc element) := by decide

/-! Streams, Voile, verdicts -/

theorem witness_StreamArming : let s := live (reading .fsumr)
    ((s.node.tile 0).desc 3).isSome = true ∧ ((s.node.tile 0).desc 255).isSome = false ∧ s.node.handle site0 0 = none ∧
    armed s site0 0 1 = none ∧
    (let b := live { reading .fsumr with thr := [(0, { thread0 with a := [(0, 4), (1, 3)], s := [] })] }
     (armed b site0 0 1).map (·.1) = some 4 ∧ (armed b site0 0 1).map (fun p => b.node.armBad p.2 b.node.parity) = some false ∧
     (armed b site0 1 1).map (fun p => b.node.armBad p.2 b.node.parity) = some true ∧
     b.node.ctxOf 0 4 = none ∧ b.node.freeCtx (b.node.engineOf 0) = some 0 ∧ b.node.writesOf 0 < 32) := by decide +kernel

/-- The context that arming descriptor 4 makes, QUEUED, and the same one ACTIVE with its write held. -/
def fillCtx : Ctx := { lt := 0, idx := 4, gen := 1, state := 1
                       arm := { off := 0, epoch := 0, par := 0, thr := 0, pc := 0, id := 0 }, shadow := none, writes := [], cells := []
                       sent := 0, pieces := [], acked := [], asked := [], todo := [], here := false, dest := [], fails := false, dead := false, strag := false
                       own := true }

/-- A state with the context `x` as number 0. -/
def streaming (x : Ctx) : State :=
  { live (reading .fsumr) with node := { (live (reading .fsumr)).node with ctxs := [(0, x)] } }

theorem witness_StreamTransfers :
    (let s := streaming fillCtx
     (s.node.ctx 0).isSome = true ∧ (descOf s fillCtx).map (fun d => (s.node.queuedWait 0 fillCtx d, d.kind, d.dloc, d.accw)) =
       some (0, 2, true, false) ∧ s.node.mems.stalled = [] ∧ s.node.job.recorder = []) ∧
    (let w : EWrite := { bit := 8 * 0x20000000008, w := 32, v := 7, poison := false }
     let x := { fillCtx with state := 2, here := true, writes := [w] }
     let s := streaming x
     (descOf s x).map (fun d => (d.dloc, decide (x.arm.epoch = s.node.epochAt (d.side1At x.arm.par)))) = some (true, true) ∧
     s.node.job.red = [] ∧ (touched x.writes).all (fun a => (s.node.stretchEnd a).isSome) = true) := by decide +kernel

theorem witness_VoileOperations : let s := live tile0
    (voiles (.vput site0 15 0 0 true 0 2 0)).isSome = true ∧ (s.node.tile 0).voileSlot = some 0 ∧
    s.node.voileBad site0 true 16 true 0 (0x20000000000 : Word) 0 = none ∧
    (s.node.voileBad site0 true 16 true 0 ((thr s site0).getS 2) 0).isSome = false ∧
    s.node.badAddr 0x20000000000 16 = none := by decide +kernel

theorem witness_TileVerdicts : let s := live { tile0 with thr := [(0, { thread0 with wait := .exited })] }
    let n := { s.node with commit := { s.node.commit with running := true } }
    n.commit.running = true ∧ (n.tile 0).used = true ∧ tileDone { s with node := n } 0 ∧ ¬tileDone (live tile0) 0 :=
  ⟨rfl, by decide, ⟨by decide, by decide, by decide, by decide, by decide, by decide, by decide⟩, fun h => by
    have := h.2.1 (0, thread0) (by decide) rfl; revert this; decide⟩

/-- An attempt runs in which tile 0 and its shadow have both ended; their digests differ. -/
theorem witness_TileVerdicts_shadow : let e := { tile0 with thr := [(0, { thread0 with wait := .exited })] }
    let s := live e
    let n := { s.node with tiles := [(0, e), (4096, { e with digest := 1 })], commit := { s.node.commit with running := true }
                           guard := { s.node.guard with shadows := [(0, 36)] } }
    n.guard.shadows.find? (·.1 == 0) = some (0, 36) ∧ 0 ∉ n.guard.matched ∧ (n.tile 0).tainted = false ∧
    (n.tile 0).digest ≠ (n.tile 4096).digest ∧ 36 ≠ n.physOf 0 ∧ n.guard.chkEvt = 0 ∧ (n.physTile 36).mism = 0 := by decide

/-- An attempt runs at the root of a job of one node; `v` is the verdict of its one tile. -/
def attempt (v : Option Nat) (taint : Bool) : State :=
  let s := live { tile0 with verdict := v }
  { s with node := { s.node with commit := { s.node.commit with running := true, tainted := taint } } }

/-- Commit, Re-execute, and a verdict that cannot be formed yet. -/
theorem witness_ModuleVerdicts : decides (attempt (some 0) false) = some 0 ∧ decides (attempt none true) = some 2 ∧
    decides (attempt none false) = none ∧ (attempt (some 0) false).node.commit.sent = none ∧
    (attempt (some 0) false).node.job.nnodes = 1 ∧ (attempt (some 0) false).node.held = [] ∧
    everyoneExited (attempt (some 0) false) = false := by decide

theorem witness_TaintDecidesFirst : ((got .moduleVerdict (attempt none true)).map fun t => (t.node.commit.last, t.node.commit.now.step)) =
    some (2, 0) ∧ (attempt none true).node.commit.kids = [] ∧ (attempt none true).node.gng.cfg = 0 := by decide +kernel

/-- A record that is due, in a ring of two slots. -/
def dueRec : Due := { outcome := 0, captured := false, job := 1, counts := ⟨0, 0, 0⟩, seed := 0, wmark := 0, node := 0, epoch := 0
                      plan := 0, inputs := [], events := [] }
def recording (x : Tile) : State :=
  { live x with node := { (live x).node with tps := { (live x).node.tps with due := [dueRec], cfg := 0x201 } } }

theorem witness_TapestryWrites : (recording tile0).node.quiet = true ∧ (recording tile0).node.on = true ∧
    (recording tile0).node.tps.due = [dueRec] ∧ (recording tile0).node.badAddr 0 16384 = none ∧
    regionsReady (recording tile0) 0 16384 ∧ Sound (recording tile0) ∧ (recording tile0).tiersUp = true ∧
    State.reset.node.tps.due = [] ∧ State.reset.tiersUp = false :=
  ⟨rfl, rfl, rfl, by decide, regionsReady_below _ _ _ (by decide),
    sound_of _ (fun t => one_tile (P := fun y => y.bad = []) tile0 rfl rfl t) rfl rfl rfl rfl, by decide, rfl, by decide⟩

/-! The network -/

/-- A public key on P-384; its signatures here were made outside Lean. -/
def listKey : Nat := 0xed0d98ec35976fda65fbef654d7cbff4b1acebb26d7fd215b1bfc19797e6f677009ed9dc6510534c999a9e1f3ec09dff2556c3916de5449993f9262bb9371a09798f267e2dc26bbd6dc9bef59ff55185c4b8707ceeb5bb424e4381a526516955

/-- A configuration: node 1 behind sub-port 0, direct; a key with role COMMAND and one with PLAN and OVERLAY; host 99. -/
def cfg0 : BaseCfg where
  node := 0
  nodes := [(1, [{ port := 0, sub := 0, mac := 0x1234, ip := 1 }])]
  modes := [0, 0, 0, 0, 0, 0, 0, 0]
  subs := [(0, { role := .direct, mac := 0x55, ip := 9, vlan := 2, lanes := 8, partner := 1, pport := 0, psub := 0, pcp := [] })]
  udpPort := 48620
  ipv6 := false
  ecn := true
  pfc := true
  shRead := 10
  shWrite := 4
  shRemote := 2
  cxlMembers := []
  cxlLeastRm := 0
  serials := []
  leastBacked := (1152, 1152)
  gngEn := true
  gngPartner := 1
  slotMib := 1
  inbase := 0
  policies := [0, 0, 0, 0, 0, 0, 0]
  topoWaitMs := 3500
  digestBase := 0
  keys := [{ key := 50, command := true, plan := false, overlay := false }, { key := listKey, command := false, plan := true, overlay := true }]
  hosts := [{ addr := 99, launch := true, events := true }, { addr := 98, launch := false, events := false }]
  copper := (0, 0, 0)

/-- A peer that has said HELLO and owes nothing. -/
def peer0 : Peer := { Peer.fresh with session := some 7, reqSeen := [0], repSeen := [0], usable := [0],
                                      limit := (List.range 8).map fun v => (v, 100) }

/-- The node `n` with the configuration, its one sub-port up and the peer as node 1. -/
def joined (n : Node) : Node := { n with cfg := some cfg0, subs := [(0, { Sub.down with up := true, lanes := 8 })],
                                         peers := [(1, peer0)], session := 3, tshCfg := 0xBDEC0002 }

/-- A ready module in that network with tile `x`. -/
def linked (x : Tile) : State := { live x with node := joined (live x).node }

/-- The frames of `from1` pass every test at node `d` of job 9, whose peer 1 has completed HELLO and holds nothing back. -/
def hears (s : State) (d : Nat) : Prop :=
  s.node.quiet = true ∧ portOpen s 0 0 ∧ frameFits s frame1 ∧ linkFits s frame1 ∧ fromListed s (from1 0 0 d) ∧
  s.node.peer 1 = peer0 ∧ s.node.job.loaded = true ∧ 9 = s.node.job.id % 2 ^ 32

/-- So it is in any state with the configuration of `cfg0` under the number `d`. -/
theorem hears_of (s : State) (d : Nat) (hq : s.node.quiet = true) (ho : s.node.on = true)
    (hc : s.node.cfg = some { cfg0 with node := d }) (hs : s.node.subs = [(0, { Sub.down with up := true, lanes := 8 })])
    (hu : fld s.node.tshCfg 16 16 = 48620) (hp : s.node.peer 1 = peer0) (hl : s.node.job.loaded = true)
    (hj : 9 = s.node.job.id % 2 ^ 32) : hears s d := by
  have sub0 : s.node.sub 0 0 = { Sub.down with up := true, lanes := 8 } := by simp [Node.sub, hs, Map.getD, Map.look]
  have cfgsub : s.node.subCfg 0 0 = Map.look cfg0.subs 0 := by simp [Node.subCfg, hc]
  refine ⟨hq, ⟨ho, by rw [sub0], by rw [sub0]; rfl⟩, ⟨rfl, rfl, hu.symm, _, cfgsub, rfl⟩, ?_, ⟨?_, ?_⟩, hp, hl, hj⟩
  · refine ⟨by unfold Node.isDirect; rw [show s.node.subCfg frame1.port frame1.sub = _ from cfgsub]; rfl, ?_, rfl, fun h => Bool.noConfusion h⟩
    rw [show s.node.sub frame1.port frame1.sub = _ from sub0]; rfl
  · refine ⟨{ port := 0, sub := 0, mac := 0x1234, ip := 1 }, ?_, rfl⟩
    simp [Node.routes, hc, cfg0, Map.getD, Map.look, from1]
  · simp [from1, Node.self, hc]

/-- A message of its channel in turn. -/
theorem turn {s : State} {d : Nat} (h : hears s d) (m : Msg) (vc : Nat) (hc : channel m = some vc) :
    inTurn s (from1 vc 0 d) m := by
  obtain ⟨hq, ho, hf, hk, hl, hp, hj, ht⟩ := h
  refine ⟨hq, ⟨⟨vc, hc, ho, hf, hk, ⟨rfl, fun h => Bool.noConfusion h, rfl, Nat.zero_le _⟩, hl⟩, ?_, ?_⟩, rfl, ?_, rfl, rfl, rfl,
    hj, ht, fun h => Bool.noConfusion h, ?_⟩
  · rw [show s.node.peer (from1 vc 0 d).src = _ from hp]; rfl
  · rw [show s.node.peer (from1 vc 0 d).src = _ from hp]; decide
  · unfold expected; rw [show s.node.peer (from1 vc 0 d).src = _ from hp]; rfl
  · rw [show s.node.peer (from1 vc 0 d).src = _ from hp]; rfl

theorem udp : fld (0xBDEC0002 : Word) 16 16 = 48620 := by decide

theorem linked_hears (x : Tile) : hears (linked x) 0 := hears_of _ _ rfl rfl rfl rfl udp rfl rfl rfl

/-- A closed sub-port, a frame of another VLAN, a peer without HELLO; a duplicate and one ahead; another version, an unknown
type, another job, a group that does not list this node. -/
theorem witness_MessagesNotApplied : let h := from1 1 0
    ¬portOpen { linked tile0 with node := { (linked tile0).node with subs := [] } } 0 0 ∧ portOpen (linked tile0) 0 0 ∧
    ¬frameFits (linked tile0) { frame1 with vlan := 3 } ∧ wellMade (linked tile0) h (.start 0 0) ∧
    ¬knows { linked tile0 with node := { (linked tile0).node with peers := [] } } 1 ∧
    wellSent (linked tile0) h (.start 0 0) ∧ ((linked tile0).node.routeFor 1 0).isSome = true ∧
    2 ^ 31 ≤ ((2 ^ 32 - 1) + 2 ^ 32 - expected (linked tile0) 1 1) % 2 ^ 32 ∧
    (1 + 2 ^ 32 - expected (linked tile0) 1 1) % 2 ^ 32 < 2 ^ 31 ∧
    { h with ver := 2 }.ver ≠ 1 ∧ { h with odd := true }.odd = true ∧
    { h with jobtag := 8 }.jobtag ≠ (linked tile0).node.job.id % 2 ^ 32 ∧ (linked tile0).node.inSomeGroup = false := by
  refine ⟨fun h => by revert h; unfold portOpen; decide, (linked_hears _).2.1, fun h => ?_, (turn (linked_hears _) _ _ rfl).2.1.1,
    fun h => by revert h; unfold knows; decide, (turn (linked_hears _) _ _ rfl).2.1, by decide, by decide, by decide, by decide, rfl,
    by decide, by decide⟩
  obtain ⟨_, _, _, c, hc, hv⟩ := h
  cases (show some _ = some c from hc)
  revert hv; decide

/-- Frames in the link sequence, and all that the effect of a message in its turn asks for. -/
theorem witness_MessagesNotApplied_effect : let s := linked tile0
    let h := from1 1 0
    (s.node.linkTake h.frame).1 = true ∧
    (let n := taking (s.node.linkTake h.frame).2 h
     n.job.loaded = true ∧ h.jobtag = n.job.id % 2 ^ 32 ∧ (n.peer h.src).early = [] ∧
     (n.msgEffect s.chip.hwk h (.mready 0 0)).2 = none ∧
     h.seq = expected { s with node := ((s.node.linkTake h.frame).2.takeGrant h.src h.grant).takeMark h } h.src h.vc) := by
  unfold expected; decide

theorem linked_sound (x : Tile) (hx : x.bad = []) : Sound (linked x) :=
  sound_of _ (fun t => one_tile (P := fun y => y.bad = []) x hx rfl t) rfl rfl rfl rfl

theorem linked_tilesSound (x : Tile) (hx : x.bad = [] ∧ x.ibad = [] ∧ x.dbad = []) : tilesSound (linked x) :=
  fun t => one_tile (P := fun y => y.bad = [] ∧ y.ibad = [] ∧ y.dbad = []) x hx ⟨rfl, rfl, rfl⟩ t

/-- Below the CXL tier no region waits to be filled. -/
theorem witness_StreamMessages : inTurn (linked tile0) (from1 4 0) (.streamData 0x100 0 0 7 [1, 2]) ∧
    plain (linked tile0) 0x100 2 ∧ inTurn (linked tile0) (from1 4 0) (.accw 0 [⟨0x200, []⟩]) ∧ plain (linked tile0) 0x200 96 ∧
    inTurn (linked tile0) (from1 2 0) (.doneReq 0x100 0 0 0 true) ∧ inTurn (linked tile0) (from1 3 0) (.done 0x100 0) ∧
    (linked tile0).node.testAt 0x100 0 = .now ∧ (linked tile0).node.commit.epoch = 0 ∧ calm (linked tile0) 0 ∧
    (let s := streaming { fillCtx with asked := [1], todo := [1] }
     s.node.ctx 0 = some { fillCtx with asked := [1], todo := [1] } ∧
     (s.node.ctxDesc { fillCtx with asked := [1], todo := [1] }).isSome = true) :=
  ⟨turn (linked_hears _) _ _ rfl, ⟨by decide, regionsReady_below _ _ _ (by decide), rfl, linked_sound _ rfl⟩,
    turn (linked_hears _) _ _ rfl, ⟨by decide, regionsReady_below _ _ _ (by decide), rfl, linked_sound _ rfl⟩,
    turn (linked_hears _) _ _ rfl, turn (linked_hears _) _ _ rfl, by decide, by decide, ⟨by decide, by decide⟩, by decide +kernel,
    by decide +kernel⟩

/-- `linked tile0` with a bucket of one block (a bundle, 12 R368) and residue mode; this node owns it where `own`. -/
def reducing (own : Bool) : State :=
  let r : RedEnt := { kind := 1, direct := true, transit := 0, nfmt := 0, thin := 1, notok := false, tokLt := 0, tokThr := 0
                      tokCtr := 0, fills := 1, nblk := 1, members := if own then [0, 1] else [1, 2], localB := 0x10000
                      residB := 0x20000, predB := 0x30000, thinB := 0 }
  let n := (linked tile0).node
  { linked tile0 with node := { n with redCfg := 1, job := { n.job with red := [(0, r)] }
                                       cfg := some { cfg0 with node := if own then 0 else 2 } } }

/-- Its number in the base configuration. -/
def place (own : Bool) : Nat := if own then 0 else 2

theorem reducing_hears (own : Bool) : hears (reducing own) (place own) := by
  cases own <;> exact hears_of _ _ rfl rfl rfl rfl udp rfl rfl rfl

theorem reducing_sound (own : Bool) : Sound (reducing own) :=
  sound_of _ (fun t => one_tile (P := fun y => y.bad = []) tile0 rfl rfl t) rfl rfl rfl rfl

theorem witness_ReduceMessages : inTurn (reducing true) (from1 5 0) (.pre 0 0 [0]) ∧
    inTurn (reducing true) (from1 5 0) (.part 0 0 [⟨1, false, 0, 0, 0, []⟩]) ∧
    inTurn (reducing false) (from1 5 0 2) (.grid 0 0 [0]) ∧ inTurn (reducing false) (from1 5 0 2) (.report 0 0 [0]) ∧
    inTurn (reducing false) (from1 5 0 2) (.result 0 0 [⟨0, false, 0, 0, 0, []⟩]) ∧
    ((reducing true).node.redRefused 0 1 1 0 1 = false ∧ (reducing true).node.redRefused 0 3 1 0 1 = false ∧
      (reducing false).node.redRefused 0 2 1 0 1 = false ∧ (reducing false).node.redRefused 0 4 1 0 1 = false ∧
      (reducing false).node.redRefused 0 5 1 0 1 = false) ∧
    ((reducing true).node.redCtx 0).started = false ∧ (reducing true).node.residueMode = true ∧
    (reducing true).node.badAddr 0x10000 6144 = none ∧ (reducing true).node.badAddr 0x20000 8 = none ∧
    (reducing true).node.badAddr 0x30000 2 = none ∧ Sound (reducing true) ∧ Sound (reducing false) :=
  ⟨turn (reducing_hears true) _ _ rfl, turn (reducing_hears true) _ _ rfl, turn (reducing_hears false) _ _ rfl,
    turn (reducing_hears false) _ _ rfl, turn (reducing_hears false) _ _ rfl,
    by decide +kernel, by decide +kernel, by decide +kernel, by decide +kernel, by decide +kernel, by decide +kernel,
    reducing_sound _, reducing_sound _⟩

/-- `linked tile0` as node `k` of a job of two nodes. -/
def ofTwo (k : Nat) (started : Bool) : State :=
  let n := (linked tile0).node
  { linked tile0 with node := { n with job := { n.job with node := k, nnodes := 2, started := started } } }

theorem two_hears (k : Nat) (b : Bool) : hears (ofTwo k b) 0 := hears_of _ _ rfl rfl rfl rfl udp rfl rfl rfl

theorem two_sound (k : Nat) (b : Bool) : Sound (ofTwo k b) ∧ tilesSound (ofTwo k b) :=
  ⟨sound_of _ (fun t => one_tile (P := fun y => y.bad = []) tile0 rfl rfl t) rfl rfl rfl rfl,
    fun t => one_tile (P := fun y => y.bad = [] ∧ y.ibad = [] ∧ y.dbad = []) tile0 ⟨rfl, rfl, rfl⟩ ⟨rfl, rfl, rfl⟩ t⟩

/-- The child of node 0 is node 1; the parent of node 17 is node 1. -/
theorem witness_ControlMessages : inTurn (ofTwo 0 true) (from1 1 0) (.verdict 0 0 true) ∧
    inTurn (ofTwo 17 true) (from1 1 0) (.outcome 0 2) ∧ inTurn (ofTwo 0 false) (from1 1 0) (.mready 0 0) ∧
    inTurn (ofTwo 17 false) (from1 1 0) (.mrelease 0 0) ∧ inTurn (ofTwo 17 false) (from1 1 0) (.start 0 255) ∧
    inTurn (linked tile0) (from1 1 0) (.token 0 0 0 1 0) ∧ inTurn (linked tile0) (from1 1 0) (.retract 0 0 0 false 0) ∧
    ((ofTwo 0 true).node.children.contains 1 = true ∧ (ofTwo 0 true).node.commit.kids = [] ∧ (17 - 1) / 16 = 1 ∧
      (ofTwo 17 true).node.commit.epoch = 0 ∧ everyoneExited (ofTwo 17 true) = false ∧ (ofTwo 17 true).node.commit.released = false ∧
      (ofTwo 0 false).node.asleep = false ∧ ((linked tile0).node.tile 0).used = true ∧ ((linked tile0).node.tile 0).test 0 = .now ∧
      (ofTwo 17 false).node.held = [] ∧ (ofTwo 17 false).node.job.release = []) ∧
    calm (linked tile0) 0 ∧ Sound (ofTwo 17 false) ∧ tilesSound (ofTwo 17 false) :=
  ⟨turn (two_hears _ _) _ _ rfl, turn (two_hears _ _) _ _ rfl, turn (two_hears _ _) _ _ rfl, turn (two_hears _ _) _ _ rfl,
    turn (two_hears _ _) _ _ rfl, turn (linked_hears _) _ _ rfl, turn (linked_hears _) _ _ rfl, by decide, ⟨by decide, by decide⟩,
    (two_sound _ _).1, (two_sound _ _).2⟩

/-- `linked tile0` with slots of 1 MiB for partner node 1 (13 R416). -/
def mirroring (state : Nat) (mirror : List (Nat × Nat × Nat × Nat)) : State :=
  let n := (linked tile0).node
  { linked tile0 with node := { n with gng := { n.gng with cfg := 0x1001001, state := state }
                                       job := { n.job with mirror := mirror, started := false } } }

theorem mirror_hears (k : Nat) (l : List (Nat × Nat × Nat × Nat)) : hears (mirroring k l) 0 :=
  hears_of _ _ rfl rfl rfl rfl udp rfl rfl rfl

theorem mirror_sound (k : Nat) (l : List (Nat × Nat × Nat × Nat)) : Sound (mirroring k l) :=
  sound_of _ (fun t => one_tile (P := fun y => y.bad = []) tile0 rfl rfl t) rfl rfl rfl rfl

/-- The first byte of a slot's data and its last; the slot's seal record. -/
theorem witness_MirrorMessages : inTurn (mirroring 1 []) (from1 6 0) (.mirrorData 0 64 [1]) ∧
    inTurn (mirroring 1 []) (from1 6 0) (.seal 0 ⟨9, 0, 0, 0⟩) ∧ inTurn (mirroring 1 []) (from1 3 0) (.sealAck 0) ∧
    inTurn (mirroring 3 [(0, 0x1000, 2, 0)]) (from1 6 0) (.rdata 0 0 [1, 2]) ∧
    inTurn (mirroring 3 []) (from1 6 0) (.rend 0 ⟨9, 0, 0, 0⟩) ∧ inTurn (mirroring 3 []) (from1 3 0) (.rendAck 0) ∧
    (2 ^ 20 - 1 + 1 ≤ fld (mirroring 1 []).node.gng.cfg 24 20 * 2 ^ 20 ∧ (mirroring 1 []).node.gng.fresh = [] ∧
      fld (mirroring 1 []).node.gng.cfg 12 12 = 1 ∧ (mirroring 1 []).node.gng.slot = 0 ∧
      (mirroring 3 []).node.job.id = 9) ∧ plain (mirroring 1 []) 0 64 ∧ plain (mirroring 3 [(0, 0x1000, 2, 0)]) 0 2 :=
  ⟨turn (mirror_hears _ _) _ _ rfl, turn (mirror_hears _ _) _ _ rfl, turn (mirror_hears _ _) _ _ rfl, turn (mirror_hears _ _) _ _ rfl,
    turn (mirror_hears _ _) _ _ rfl, turn (mirror_hears _ _) _ _ rfl, by decide +kernel,
    ⟨by decide, regionsReady_below _ _ _ (by decide), rfl, mirror_sound _ _⟩,
    ⟨by decide, regionsReady_below _ _ _ (by decide), rfl, mirror_sound _ _⟩⟩

/-- A put of 16 bytes to node 1 under way in slot 15. -/
def putting : Tile := { tile0 with voile := [(15, { put := true, local_ := 0, len := 16, addr := 0x100, node := some 1, thr := 0, ctr := 0
                                                    epoch := 0, by_ := 0, pc := 0, id := 0, data := List.replicate 16 1
                                                    poison := false, arrived := false })] }

theorem witness_VoileMessages : let v : VoileHdr := ⟨16, 0, 0, 0, 0, 15, 0x20000000000⟩
    inTurn (linked putting) (from1 7 0) (.put v [1]) ∧ inTurn (linked putting) (from1 7 0) (.get v) ∧
    inTurn (linked putting) (from1 3 0) (.getData v []) ∧ inTurn (linked putting) (from1 3 0) (.putDone v) ∧
    plain (linked putting) 0x20000000000 1 ∧ (linked putting).node.testAt 0x20000000000 0 = .now ∧ calm (linked putting) 0 ∧
    readable (struck (linked putting) []) noView (wordsOf 0x20000000000 16) ∧
    (Map.look ((linked putting).node.tile 0).voile 15).isSome = true ∧ (linked putting).node.backed 0 = true ∧
    (linked putting).node.flight = [] :=
  ⟨turn (linked_hears _) _ _ rfl, turn (linked_hears _) _ _ rfl, turn (linked_hears _) _ _ rfl, turn (linked_hears _) _ _ rfl,
    ⟨by decide, regionsReady_below _ _ _ (by decide), rfl, linked_sound _ rfl⟩, by decide, ⟨by decide, by decide⟩,
    readable_of (linked_sound putting rfl) _ _, by decide, by decide, by decide⟩

theorem linked_framed (x : Tile) (vc : Nat) : wellFramed (linked x) (from1 vc 0) vc false :=
  have ⟨_, ho, hf, hk, hl, _⟩ := linked_hears x
  ⟨ho, hf, hk, ⟨rfl, fun h => Bool.noConfusion h, rfl, Nat.zero_le _⟩, hl⟩

theorem nothing_waits (x : Tile) : nothingWaits (linked x) :=
  ⟨fun kv h => by simp [linked, joined] at h; subst h; rfl, fun kv h => by simp [linked, joined] at h; subst h; rfl, rfl⟩

theorem witness_SessionsAndAcks : let b : HelloBody := ⟨2, false, true, true, true, 1, 0, 0, 8, 5, 7⟩
    let s := linked tile0
    helloFits s (from1 0 0) b ∧ noneWaits s ∧ nothingWaits s ∧ (s.node.peer 1).session = some b.session ∧
    cameBy s (from1 0 0) = [0] ∧ 7 ≠ { b with session := 8 }.session ∧ s.node.peerEvt = 0 ∧
    { b with vermask := 1 }.vermask.testBit 1 = false ∧ 0 ∉ (s.node.peer 2).repSeen ∧
    ((s.node.routes 1)[0]?).isSome = true ∧ knows s 1 ∧ s.node.ctxs = [] ∧ s.node.job.red = [] ∧
    ((s.node.peer 1).cut = false ∧ 7 ∈ { peer0 with ackDue := [7] }.ackDue ∧ { peer0 with cut := true }.cut = true ∧
      (s.node.routeFor 1 0).isSome = true) ∧ hailable s 1 ∧ refusable s (from1 0 0) 0 :=
  ⟨⟨rfl, linked_framed _ _, rfl, by decide, rfl, rfl, rfl⟩, (fun _ h => by cases h),
    nothing_waits _, rfl, by decide, by decide, by decide, by decide, by decide, by decide,
    ⟨by decide, by decide⟩, rfl, rfl, by decide, by unfold hailable; decide, by unfold refusable; decide⟩

/-- A kept message: its sixteenth transmission is over. -/
def kept : OutMsg := { dst := 1, vc := 4, seq := 5, ctx := 0, mc := false, res := none, msg := .streamData 0 0 0 7 [1], jobtag := 9
                       tries := 16 }

theorem witness_RefusalsAndRetransmission : wellFramed (linked tile0) (from1 4 0) 4 false ∧ let n := (linked tile0).node
    let m := { n with peers := [(1, { peer0 with unacked := [kept] })], ctxs := [(0, { fillCtx with state := 2 })] }
    (m.peer 1).unacked.find? (fun q => q.vc == 4 && q.seq == 5) = some kept ∧ { kept with tries := 15 }.tries < 16 ∧
    m.routeTakes kept = true ∧ (m.peer 1).unreach = false ∧ m.peerEvt = 0 ∧ ((m.routes 1)[0]?).isSome = true ∧ (m.sub 0 0).up = true ∧
    kept.ofCtx kept.ctx = true ∧ (m.tile 0).fault = .clear ∧ (m.tile 0).recur = [] ∧ (m.tile 0).sameIv = false := by
  refine ⟨linked_framed _ _, ?_⟩; decide +kernel

/-- A multicast arming to nodes 0 and 1 (09 R287): 65,536 bytes have gone, four are to go, none of them is acknowledged. -/
theorem witness_RefusalsAndRetransmission_straggler :
    let d : List Word := [0x51, 0x2000] ++ List.replicate 10 0 ++ [0x20000000000, 0, 0, 0, 0, 1] ++ List.replicate 4 0 ++
      [0x100, 0, 0, 0, 0, 1] ++ List.replicate 4 0
    let x := { fillCtx with idx := 5, state := 2, sent := 65536, pieces := [(65540, .streamData 0x100 0 0 7 [0, 0, 0, 0])] }
    let n := (linked { tile0 with descs := [(5, d)] }).node
    let m := { n with ctxs := [(0, x)], job := { n.job with mcast := [(0, [0, 1])] }, timers := setFld n.timers 32 20 2000 }
    m.ctx 0 = some x ∧ (m.ctxDesc x).map (·.mcast) = some true ∧ fld m.timers 32 20 ≠ 0 ∧ x.sent ≠ x.total ∧
    (m.ctxDesc x).map (fun e => (x.sendable true (m.sideNodes (m.armDesc e))).isEmpty) = some true ∧
    ((m.ctxDesc x).bind fun e => (m.sideNodes (m.armDesc e)).find? (fun k => Map.getD x.acked k 0 == x.lag (m.sideNodes (m.armDesc e)))) =
      some 1 := by decide +kernel

theorem witness_LinksAndFrames : let s := linked tile0
    directUp s 0 0 ∧ frameFits s frame1 ∧
    (let e : Nat × Out := (3, .arp 0 0 0 0)
     let n := { s.node with subs := [(0, { Sub.down with up := true, lanes := 8, replay := [e], resends := 7 })] }
     (n.sub 0 0).replay.head? = some e ∧ 7 ≤ (n.sub 0 0).resends ∧ (n.sub 0 0).up = true ∧ frees (n.sub 0 0) true 3 = false ∧
       frees (n.sub 0 0) true 4 = true) ∧
    16777216 % 2 ^ 24 = (s.node.sub 0 0).expect ∧ 1 % 2 ^ 24 ≠ (s.node.sub 0 0).expect ∧ (s.node.sub 0 0).resends < 7 ∧
    (s.node.subCfg 0 0).map (fun c => (c.ip, decide (c.vlan ≠ 0))) = some (9, true) ∧ bit s.node.tshCfg 3 = false ∧
    bit (setFld s.node.tshCfg 3 1 1) 3 = true ∧ bit s.node.tshCfg 1 = true ∧ nothingWaits s ∧
    s.chip.fuses.srcMap = Fuses.shipped.srcMap ∧ s.chip.boot.ready = true ∧ s.chip.chr.stopped = false ∧ s.chip.pins.pstate ≠ 3 :=
  ⟨⟨rfl, (linked_hears tile0).2.1, by decide⟩, (linked_hears tile0).2.2.1, by decide, by decide, by decide, by decide, by decide, by decide,
    by decide, by decide, nothing_waits _, by decide, by decide, by decide, by decide⟩

/-! LAUNCH -/

/-- r and s of the slice below. -/
def launchSig : Nat := 0xced4e56dee1285a6f34fbda6d26fb50edfff23f300d47af172cd3fb71bd8f7d531f1a001c73637da306e8b0b21860e6a3f2641a26fc926d7079a6b9d7abdbffe8180912cfd0c64d5dbba2e6a8dde585d918b9ef8f67e193655e912c4665c86ba

/-- A slice for node 0 of one (03 R68-R70): tile 0 with two instructions of thread 0; its directory, code and entry; then the signature with
`listKey` and the launch record. -/
def image : List Byte :=
  leBytes 1 2 ++ leBytes 0 1 ++ leBytes 1 1 ++ leBytes 2 4 ++ leBytes 9 8 ++ leBytes 0 2 ++ leBytes 1 2 ++ leBytes 0 4 ++
  leBytes 424 8 ++ List.replicate 224 0 ++
  (leBytes 1 2 ++ leBytes 0 2 ++ leBytes 2 4 ++ leBytes 304 8 ++ leBytes 16 8) ++
  (leBytes 2 2 ++ leBytes 0 2 ++ leBytes 1 4 ++ leBytes 320 8 ++ leBytes 2 8) ++
  leBytes 0x0800280000000007 8 ++ leBytes 0xE400000000000000 8 ++ leBytes 0x8000 8 ++ beBytes launchSig 96 ++
  List.replicate 32 0

/-- The whole of it in one fragment, from host 99 by the sub-port of `frame1`. -/
def fragment (data : List Byte) : Fragment :=
  { h := { from1 0 0 with frame := { frame1 with src := 99 } }, offset := 0, last := true, data := data }

/-- A node in that network with no job. -/
def idleNode : State := { linked tile0 with node := { (linked tile0).node with job := .none, tiles := [] } }

/-- A fragment, and the first of more, from a host with the LAUNCH bit. -/
theorem witness_LaunchLoads : firstFragment idleNode (fragment image) ∧ { fragment image with last := false }.last = false ∧
    idleNode.node.job.loaded = false ∧ (sectOf (sectionsOf (image.take (imageNum image 24 8))) 17 0xFFFF).count = 0 ∧
    (cfg0.hosts.find? (·.addr == 97) = none ∧ (cfg0.hosts.find? (·.addr == 98)).map (·.launch) = some false) := by
  have ⟨_, ho, hf, hk, _⟩ := linked_hears tile0
  exact ⟨⟨⟨rfl, ho, hf, hk, rfl, fun h => Bool.noConfusion h, rfl, Nat.zero_le _⟩, rfl, by unfold wayTakes; decide, rfl, rfl, _, rfl, rfl⟩, rfl, rfl,
    by decide +kernel, by decide⟩

/-- Its signature is the key's, and the slice loads; a byte of the signed part changed, it does not. -/
theorem witness_LaunchLoads_signed : launchCode idleNode image = none := by
  unfold launchCode
  decide +kernel

theorem witness_LaunchLoads_refused : launchCode idleNode (image.set 8 8) = some 6 ∧ launchCode (linked tile0) image = some 5 := by
  unfold launchCode
  decide +kernel

/-! Signed commands -/

/-- The header of a management message from host 99 with tag 3 by the sub-port of `frame1`. -/
def asking : Header := { from1 0 0 with ctx := 3, frame := { frame1 with src := 99 } }

/-- A command from host 99 by the network under key 0, whose signature is over opcode `op` and arguments `args`. -/
def envelope (op : Nat) (args : List Byte) (job : Nat := 0) : Envelope :=
  let e : Envelope := { odd := none, path := .weavo, h := asking, version := 1, keyidx := 0, arglen := args.length, resv := 0
                        signer := some 50, digest := 0, serial := 0, session := 0, seq := 1, job := job }
  { e with digest := sha384 (signedBytes e op args) }

/-- A question of that host. -/
def asker : Asker := { odd := false, path := .weavo, h := asking }

theorem linked_heard (size : Nat) (h : wayTakes (linked tile0) asking size) : heard (linked tile0) .weavo asking size :=
  have ⟨_, ho, hf, hk, _⟩ := linked_hears tile0
  ⟨⟨rfl, by decide, by decide, ⟨ho, hf, hk, rfl, fun h => Bool.noConfusion h, rfl, Nat.zero_le _⟩, fun _ => h⟩, fun _ => rfl⟩

theorem way56 : wayTakes (linked tile0) asking 56 := by unfold wayTakes; decide

/-- It passes where it names the loaded job if its opcode does. -/
theorem passes_envelope (op : Nat) (args : List Byte) (job : Nat) (ho : op ≠ 0x0E ∧ op ≠ 0x0F) (hj : job = 0 ∨ (job = 9 ∧ namesJob op))
    (hn : namesJob op → job = 9) : passes (linked tile0) (envelope op args job) op args := by
  have key : (linked tile0).keyOf 0 = some (.list 50 true) := by decide
  have may : signerMay (linked tile0) (envelope op args job) op args = some (true = true ∧ op ≠ 0x0E ∧ op ≠ 0x0F) := by
    simp [signerMay, envelope, key, KeyRef.num, signedBytes]
  have boot : (linked tile0).chip.boot.ready = true ∧ (linked tile0).chip.fuses.serial = 0 ∧ (linked tile0).chip.chr.bkpSession = 0 ∧
      (linked tile0).chip.sec.lastSeq = 0 ∧ (linked tile0).node.job.loaded = true ∧ (linked tile0).node.job.id = 9 :=
    ⟨rfl, rfl, rfl, rfl, rfl, rfl⟩
  refine ⟨linked_heard _ way56, fun k h => ?_⟩
  unfold fails at h
  simp only [may, boot] at h
  rcases hj with rfl | ⟨rfl, h'⟩
  · have : ¬namesJob op := fun h => absurd (hn h) (by decide)
    simp_all [envelope]
  · simp_all [envelope]

theorem linked_passes (op : Nat) (args : List Byte) (ho : op ≠ 0x0E ∧ op ≠ 0x0F) (hn : ¬namesJob op) :
    passes (linked tile0) (envelope op args) op args := passes_envelope _ _ _ ho (.inl rfl) fun h => absurd h hn

theorem linked_passes_job (op : Nat) (args : List Byte) (ho : op ≠ 0x0E ∧ op ≠ 0x0F) (hn : namesJob op) :
    passes (linked tile0) (envelope op args 9) op args := passes_envelope _ _ _ ho (.inr ⟨rfl, hn⟩) fun _ => rfl

/-- Every check of R563 in turn, the path, the sender, and a status of the command's own. -/
theorem witness_CommandsRefused : (linked tile0).served .weavo = true ∧ State.reset.served .weavo = false ∧
    (linked tile0).knows .weavo 97 = false ∧ (linked tile0).knows .weavo 99 = true ∧
    (linked tile0).keyOf 0 = some (.list 50 true) ∧ (linked tile0).keyOf 2 = none ∧ { envelope 4 [] with odd := some 0x99 }.odd ≠ none ∧
    passes (linked tile0) (envelope 0x04 (leBytes 1601 2)) 0x04 (leBytes 1601 2) ∧
    ownStatus (linked tile0) (.setCap (envelope 4 []) 1601) = 8 ∧ ownStatus (linked tile0) (.setCap (envelope 4 []) 1600) = 0 ∧
    (let h := { asking with frame := { asking.frame with link := none, udpLen := 32, vlan := 0 } }
     copperFits (linked tile0) h ∧ ¬copperFits (linked tile0) asking ∧ (linked tile0).served .copper = true ∧
     State.reset.served .copper = false ∧ State.reset.node.on = false) :=
  ⟨by decide, by decide, by decide, by decide, by decide, by decide, by decide, linked_passes _ _ (by decide) (by unfold namesJob; decide),
    by decide, by decide, ⟨by decide, by decide, by decide, by decide, by decide, ⟨rfl, fun h => Bool.noConfusion h, rfl, Nat.zero_le _⟩⟩,
    (fun h => by have := h.2.2.2.2.1; revert this; decide), by decide, by decide, rfl⟩

/-- A REVOKE by owner slot 1 of owner slot 1, and of slot 2. -/
theorem witness_CommandsRefused_revoke :
    let s := { linked tile0 with chip := { (linked tile0).chip with fuses := { Fuses.shipped with
      owners := [(some 5, false), (some 6, false), (some 7, false), (none, false)] } } }
    let by1 (args : List Byte) : Envelope :=
      let e := { envelope 0x0F args with keyidx := 0x11, signer := some 6 }
      { e with digest := sha384 (signedBytes e 0x0F args) }
    (∃ p, signerMay s (by1 (leBytes 1 1)) 0x0F (leBytes 1 1) = some p ∧ ¬p) ∧
    (∃ p, signerMay s (by1 (leBytes 2 1)) 0x0F (leBytes 2 1) = some p ∧ p) := by
  have key (s : State) (h : s.chip.fuses.owners = [(some 5, false), (some 6, false), (some 7, false), (none, false)]) :
      s.keyOf 0x11 = some (.owner 6 false) := by simp [State.keyOf, h]
  constructor
  · exact ⟨_, by simp only [signerMay, key, KeyRef.num, signedBytes]; exact if_pos ⟨trivial, trivial⟩, by decide⟩
  · exact ⟨_, by simp only [signerMay, key, KeyRef.num, signedBytes]; exact if_pos ⟨trivial, trivial⟩, by decide⟩

theorem witness_JobCommands : passes (linked tile0) (envelope 0x01 [] 9) 0x01 [] ∧ passes (linked tile0) (envelope 0x03 [] 9) 0x03 [] ∧
    passes (linked tile0) (envelope 0x0A (leBytes 1 1) 9) 0x0A (leBytes 1 1) ∧ passes (linked tile0) (envelope 0x10 [] 9) 0x10 [] ∧
    (let e := envelope 1 [] 9
     let j (f : Job → Job) : State := { linked tile0 with node := { (linked tile0).node with
       job := f (linked tile0).node.job, gng := { (linked tile0).node.gng with cfg := 0x1001001 } } }
     ownStatus (j fun x => { x with holdNext := true }) (.release e) = 0 ∧
     ownStatus (j fun x => { x with held := true }) (.rollback e) = 0 ∧
     ownStatus (j fun x => { x with held := true }) (.start e) = 0 ∧ ownStatus (j id) (.push e 1) = 0 ∧
     ((j id).node.peer 1).waiting = [] ∧ ((j id).node.peer 1).credit 6 = true ∧
     ({ (j id).node with peers := [] }.peer 1).credit 6 = false ∧
     (j fun x => { x with nnodes := 2, held := true }).node.clear
       (OutMsg.make 1 1 0 false none (.start (j id).node.count32 (j id).node.commit.epoch)) = true) ∧
    roomTo (linked tile0) 1 1 2048 ∧ Sound (linked tile0) ∧ tilesSound (linked tile0) ∧
    (linked tile0).node.job.nnodes = 1 ∧ (linked tile0).node.held = [] ∧ (linked tile0).node.asleep = false :=
  ⟨linked_passes_job _ _ (by decide) (by unfold namesJob; decide), linked_passes_job _ _ (by decide) (by unfold namesJob; decide),
    linked_passes_job _ _ (by decide) (by unfold namesJob; decide), linked_passes_job _ _ (by decide) (by unfold namesJob; decide),
    by decide +kernel, by unfold roomTo; decide +kernel, linked_sound _ rfl, linked_tilesSound _ ⟨rfl, rfl, rfl⟩, rfl, rfl, rfl⟩

theorem no_reset (x : Tile) : noReset (linked x) :=
  ⟨rfl, rfl, rfl, rfl, rfl, (by decide : (0 : Nat) ≠ 3), rfl⟩

theorem may_target (x : Tile) : mayTarget (linked x) := ⟨rfl, rfl, rfl, (by decide : (0 : Nat) ≠ 3), rfl⟩

theorem none_looks : noneLooks (linked tile0) := by
  intro kv h q hq
  cases List.mem_singleton.mp h
  cases List.mem_singleton.mp hq
  exact ⟨by decide, by decide, fun _ h => Wait.noConfusion h⟩

theorem witness_ModuleCommands : (∀ op ∈ [0x04, 0x05, 0x06, 0x07, 0x08], ∀ args, passes (linked tile0) (envelope op args) op args) ∧
    noReset (linked tile0) ∧ mayTarget (linked tile0) ∧ (linked tile0).node.gov.reqs = [] ∧
    (let e := { linked tile0 with node := { (linked tile0).node with job := .none } }
     ownStatus e (.power (envelope 7 []) 1) = 0 ∧ ownStatus e (.power (envelope 7 []) 2) = 0) ∧
    (linked tile0).chip.pins.trans = none ∧ noneLooks (linked tile0) ∧ noneHeld (linked tile0) ∧ noneWaits (linked tile0) :=
  ⟨fun op h args => by
      refine linked_passes _ _ ?_ ?_ <;> revert op
      · decide
      · unfold namesJob; decide,
    no_reset _, may_target _, rfl, by decide +kernel, rfl, none_looks,
    ⟨rfl, fun lt => one_tile (P := fun y => ∀ kv ∈ y.voile, kv.2.arrived = false) tile0 (by decide) (by decide) lt⟩,
    fun _ h => by cases h⟩

/-- A module in Dormant, and a question on its copper port. -/
def dormant : State := { linked tile0 with
  node := { (linked tile0).node with job := .none, on := false }
  chip := { (linked tile0).chip with
    pins := { (linked tile0).chip.pins with pstate := 3, domains := [] }, boot := { (linked tile0).chip.boot with running := false } } }

def byCopper : Envelope :=
  { envelope 7 (leBytes 0 1) with
    path := .copper, h := { asking with frame := { asking.frame with link := none, udpLen := 32, vlan := 0 } } }

/-- POWER 0 by the copper port leaves Dormant. -/
theorem witness_ModuleCommands_dormant : passes dormant byCopper 7 (leBytes 0 1) ∧ ownStatus dormant (.power byCopper 0) = 0 ∧
    dormant.chip.pins.pstate = 3 := by
  have key : dormant.keyOf 0 = some (.list 50 true) := by decide
  have may : signerMay dormant byCopper 7 (leBytes 0 1) = some (true = true ∧ 7 ≠ 0x0E ∧ 7 ≠ 0x0F) := by
    simp [signerMay, byCopper, envelope, key, KeyRef.num, signedBytes]
  have boot : dormant.chip.boot.ready = true ∧ dormant.chip.fuses.serial = 0 ∧ dormant.chip.chr.bkpSession = 0 ∧
      dormant.chip.sec.lastSeq = 0 := ⟨rfl, rfl, rfl, rfl⟩
  have job : ¬namesJob 7 := by unfold namesJob; decide
  refine ⟨⟨⟨⟨by decide, by decide, by decide, ⟨by decide, by decide, by decide, by decide, by decide,
    ⟨rfl, fun h => Bool.noConfusion h, rfl, Nat.zero_le _⟩⟩, fun h => MPath.noConfusion h⟩, fun _ => rfl⟩, fun k h => ?_⟩, by decide +kernel, rfl⟩
  unfold fails at h
  simp only [may, boot] at h
  simp_all [byCopper, envelope]

/-- The end of each transition; a START, and a LAUNCH, that waited. -/
theorem witness_PowerTransitions : let s := linked tile0
    let going (p k : Nat) : State := { s with chip := { s.chip with pins := { s.chip.pins with trans := some k, pstate := p } } }
    (going 1 0).chip.pins.trans = some 0 ∧ (going 1 0).chip.pins.pstate = 1 ∧ (going 2 0).chip.boot.exit_ ≠ 8 ∧
    ({ s.node with later := [] } : Node).quiet = true ∧ s.node.job.red = [] ∧ s.node.job.release = [] ∧
    { s.node.job with held := true }.held = true ∧ noneHeld s ∧ Sound s ∧ tilesSound s ∧ s.node.commit.tainted = false ∧
    s.node.commit.kids = [] ∧ (∀ kv ∈ s.node.tiles, kv.2.tainted = false) ∧
    (let a : Asm := { tag := 9, bytes := [(0, 1)], stop := some 1 }
     a.stop = some [(1 : Byte)].length ∧ a.bytes.map (·.2) = [1]) :=
  ⟨rfl, rfl, by decide, rfl, rfl, rfl, rfl,
    ⟨rfl, fun lt => one_tile (P := fun y => ∀ kv ∈ y.voile, kv.2.arrived = false) tile0 (by decide) (by decide) lt⟩, linked_sound _ rfl,
    linked_tilesSound _ ⟨rfl, rfl, rfl⟩, rfl, rfl, by decide, rfl, rfl⟩

theorem witness_ResetsAndReleases : asserting (.resetN 1000) = some 1 ∧ asserting (.resetN 999) = none ∧
    asserting (.regulatorFault 69) = some 10 ∧ noReset (live tile0) ∧
    (let c (f : Chrys → Chrys) : State := { live tile0 with chip := { (live tile0).chip with chr := f (live tile0).chip.chr } }
     (c fun x => { x with clksel := true }).chip.chr.clksel = true ∧ (live tile0).chip.chr.clksel = false ∧
     (c fun x => { x with stopped := true }).chip.chr.stopped = true ∧ (live tile0).chip.pins.resetN = true ∧
     (live tile0).chip.pins.regBad = [] ∧ relieving (c fun x => { x with minHeld := [1] }) .resetNReturnsHigh = some 1 ∧
     1 ∈ (c fun x => { x with minHeld := [1] }).chip.chr.minHeld ∧ 1 ∉ (live tile0).chip.chr.minHeld ∧
     (c fun x => { x with held := some 1 }).chip.chr.held.isSome = true ∧ (live tile0).chip.chr.asserted = [] ∧
     (c fun x => { x with targets := [(12, 0)] }).chip.chr.targets = (12, 0) :: [] ∧ (live tile0).node.held = []) ∧
    (State.reset.chip.pins.aux = false ∧ (4 : Nat).testBit 2 = true ∧
      State.reset.node.quiet = true) ∧
    (∀ lt, ∀ kv ∈ ((live tile0).node.tile lt).voile, kv.2.arrived = false) ∧
    (∀ k ∈ [1, 2, 3, 10, 15], standing (live tile0) k → ((live tile0).chip.chr.asserted.any fun a => a.1 == k) = true) := by
  refine ⟨rfl, rfl, rfl, ⟨rfl, rfl, rfl, rfl, rfl, (by decide : (0 : Nat) ≠ 3), rfl⟩, by decide, by decide, fun lt => ?_, ?_⟩
  · exact one_tile (P := fun y => ∀ kv ∈ y.voile, kv.2.arrived = false) tile0 (by decide) (by decide) lt
  · intro k hk h
    simp only [List.mem_cons, List.not_mem_nil, or_false] at hk
    rcases hk with rfl | rfl | rfl | rfl | rfl
    · exact absurd (show (live tile0).chip.pins.resetN = false from h) (by decide)
    · exact absurd (show (live tile0).chip.pins.pwrOk = false from h) (by decide)
    · exact absurd (show (live tile0).chip.pins.thermN = false from h) (by decide)
    · exact absurd rfl (show (live tile0).chip.pins.regBad ≠ [] from h)
    · exact absurd (show (live tile0).chip.chr.refOk = false from h) (by decide)

theorem witness_LinkResets : mayTarget (linked tile0) ∧ noReset (linked tile0) ∧ ((linked tile0).node.sub 0 0).up = true ∧
    (let n := (linked tile0).node
     let m := { n with mems := { n.mems with linkUp := [3], stalled := [2] }, subs := [(0, { Sub.down with resetting := true })] }
     3 ∈ m.mems.linkUp ∧ 2 ∈ m.mems.stalled ∧ 3 ∉ m.mems.stalled ∧ m.mems.ue = 0 ∧ (m.sub 0 0).resetting = true ∧
     (m.sub 0 0).fenced = false ∧ (m.subCfg 0 0).map (fun c => (decide (c.role ≠ .unused), c.lanes)) = some (true, 8) ∧
     m.laneWidth 0 = 8) ∧
    lanesRun 0xFF 8 8 ∧ lanesRun 0xF0 8 4 ∧ lanesRun 0x18 8 0 ∧
    (linked tile0).chip.boot.topo = 0 ∧ State.reset.chip.boot.ready = false := by
  have no (m i k j : Nat) (hi : i ≤ j) (hk : j < i + k) (h : m.testBit j = false) : ¬trainedFrom m i k := fun t => by
    rw [t j hi hk] at h; cases h
  have at4 (m g : Nat) (h : ∀ j, j < 4 → m.testBit (4 * g + j) = true) : trainedFrom m (4 * g) 4 := fun j hi hk => by
    have := h (j - 4 * g) (by omega); rwa [show 4 * g + (j - 4 * g) = j by omega] at this
  refine ⟨may_target _, no_reset _, rfl, by decide, ⟨fun _ => rfl, fun h => absurd (fun j _ hj => ?_) h⟩,
    ⟨fun h => absurd h (no 0xF0 0 8 0 (by omega) (by omega) rfl), fun _ =>
      ⟨fun _ => rfl, fun h => absurd ⟨1, by omega, at4 0xF0 1 (by decide)⟩ h⟩⟩,
    ⟨fun h => absurd h (no 0x18 0 8 0 (by omega) (by omega) rfl), fun _ =>
      ⟨fun ⟨g, hg, h⟩ => ?_, fun _ => ⟨fun ⟨g, hg, h⟩ => ?_, fun _ => rfl⟩⟩⟩, rfl, rfl⟩
  · exact (by decide : ∀ j, j < 8 → (0xFF : Nat).testBit j = true) j (by omega)
  · have : g = 0 ∨ g = 1 := by omega
    rcases this with rfl | rfl
    · exact absurd h (no _ _ _ 0 (by omega) (by omega) rfl)
    · exact absurd h (no _ _ _ 7 (by omega) (by omega) rfl)
  · have : g = 0 ∨ g = 1 ∨ g = 2 ∨ g = 3 := by omega
    rcases this with rfl | rfl | rfl | rfl
    · exact absurd h (no _ _ _ 0 (by omega) (by omega) rfl)
    · exact absurd h (no _ _ _ 2 (by omega) (by omega) rfl)
    · exact absurd h (no _ _ _ 5 (by omega) (by omega) rfl)
    · exact absurd h (no _ _ _ 7 (by omega) (by omega) rfl)

/-- A module whose bring-up runs phase `k`. -/
def bringing (k : Nat) : State :=
  let c := (live tile0).chip
  { live tile0 with chip := { c with boot := { Boot.reset with running := true, phase := k }, chr := { c.chr with seqOn := true } } }

theorem witness_BringUp : (∀ k, phaseRuns (bringing k) k) ∧ (bringing 5).node.mismatches = [] ∧
    verifyImages (bringing 2).chip.sec (bringing 2).chip.fuses = none ∧ ¬recovers (bringing 1) ∧
    ((bringing 7).node.physTile 0).state = 0 ∧ (bringing 8).node.on = true ∧ (bringing 4).chip.chr.copyInForce = none := by
  refine ⟨fun k => ⟨rfl, rfl, rfl, rfl, rfl, rfl⟩, by decide, by decide, fun h => ?_, by decide, by decide, by decide⟩
  exact absurd (h.1 rfl) (by decide)

/-- A header of kind `kind` under key index `key` (19 R566), over a body of `len` bytes whose hash is `hash`. -/
def imageHead (kind key svn len hash : Nat) : List Byte :=
  leBytes 1 2 ++ leBytes kind 1 ++ leBytes key 1 ++ leBytes 0 4 ++ leBytes svn 4 ++ leBytes 0 4 ++ leBytes len 8 ++ leBytes 0 8 ++
    beBytes hash 48 ++ List.replicate 48 0

/-- Bytes from offset `i` on, as a slot lists them. -/
def placed : Nat → List Byte → Map Byte
  | _, [] => []
  | i, b :: t => if b = 0 then placed (i + 1) t else (i, b) :: placed (i + 1) t

/-- A slot that holds those bytes. -/
def slotWith (bytes : List Byte) (signer : Option Nat) (body : ImageBody) : Slot :=
  { bytes := placed 0 bytes, signer := signer, body := body, active := true, next := false }

/-- The fourteen tags of a base configuration, their values left out (19 R575, R576); SHA-384 of these bytes is `baseHash`. -/
def baseTags : List Byte := (List.range 14).flatMap fun t => leBytes (t + 1) 8
def baseHash : Nat := 0xa4584c26bf6d39819839ff7ea226babe8053c5b25dc6b57c4727820619fb3aa4cd683761acdd93a6724ce809d9ab8d81
/-- The body of an overlay with the tag of the debug mode alone, and its SHA-384. -/
def overTags : List Byte := leBytes 0x106 4 ++ leBytes 2 4 ++ leBytes 1 8
def overHash : Nat := 0x18110609f0c27c43bfea9004faa7198717ed28369ec70d9852aa73eb916f73a32e62142664b3129c8d62302dc81fc0b8
/-- r and s of `listKey` over the header of that overlay. -/
def overSig : Nat := 0xbd8960d4f3e79bbe8b37f25bb2ca613063898d0247c4da766d431984cb7dddbec5d4d882f44f2c7445be31f2276e72306691d64e73abcf949319698d738607094104d18623b6c254ae488d322a485bfca801b4ad8a39026502747307f746b603
/-- SHA-384 of no bytes. -/
def emptyHash : Nat := 0x38b060a751ac96384cd9327eb1b1e36a21fdb71114be07434c0cc7bf63f6e1da274edebfe76f65fbd51ad2f14898b95b

/-- An overlay that names non-exact mode, nothing else. -/
def over0 : Overlay := ⟨none, none, none, none, none, none, none, none, none, none, none, none, none, none, none, some true, some false⟩

/-- A store with firmware of fuse key 1, the base configuration of owner key 60 and an overlay of `listKey`. -/
def store : Map Slot :=
  [(0, slotWith (imageHead 1 0 0 0 emptyHash) (some 1) .firmware),
   (2, slotWith (imageHead 2 0x10 0 112 baseHash ++ List.replicate 128 0 ++ baseTags) (some 60) (.base cfg0)),
   (4, slotWith (imageHead 3 1 3 16 overHash ++ beBytes overSig 96 ++ List.replicate 32 0 ++ overTags) none (.overlay over0))]

/-- The fuses of an owner with one key. -/
def owned : Fuses := { Fuses.shipped with owners := [(some 60, false)] }

/-- Every image verifies, the overlay by its computed signature; with another owner's fuses the base configuration does not. -/
theorem witness_BringUp_images : (verifyImages { Sec.reset with slots := store } owned).isSome = true := by decide +kernel

theorem witness_BringUp_unsigned : verifyImages { Sec.reset with slots := store } Fuses.shipped = none := by decide +kernel

theorem tiers_run (x : Tile) : tiersRun (live x) := ⟨rfl, rfl, rfl, Nat.zero_le 1⟩

/-- The first CXL region, and the last GDDR7 line. -/
theorem witness_MemoryUpkeep : tiersRun (live tile0) ∧ noReset (linked tile0) ∧ (live tile0).node.mems.ue = 0 ∧
    (let n := (live tile0).node
     let m := { n with mems := { n.mems with filled := some [], linkUp := [0], gPos := gddrLines - 1, gScrub := 1, wbq := [(0, [64])] } }
     m.mems.filled = some [] ∧ m.mems.gPos < gddrLines ∧ fld m.mems.gScrub 0 10 ≠ 0 ∧ Map.getD m.mems.wbq 0 [] = [64]) ∧
    tiersRun (struck (live tile0) []) ∧ lineSound (live tile0) 0 ∧
    (let s := struck (live tile0) [.tier 24 .one]
     tiersRun s ∧ lineFlawed s 0 3 .one) ∧
    (let s := struck (linked tile0) [.tier 24 .three]
     tiersRun s ∧ noReset s ∧ lineFlawed s 0 3 .bad ∧ Map.look s.node.mems.soft 3 = none ∧ s.node.stalledAt 0 = false) :=
  ⟨tiers_run tile0, no_reset _, rfl, by decide +kernel, ⟨rfl, rfl, rfl, Nat.zero_le 1⟩, by unfold lineSound; decide +kernel,
    ⟨⟨rfl, rfl, rfl, Nat.zero_le 1⟩, by unfold lineFlawed; decide +kernel⟩,
    ⟨rfl, rfl, rfl, Nat.zero_le 1⟩, ⟨rfl, rfl, rfl, rfl, rfl, (by decide : (0 : Nat) ≠ 3), rfl⟩, by unfold lineFlawed; decide +kernel,
    by decide +kernel, by decide +kernel⟩

theorem witness_Governor : governs (live tile0) ∧ noneAsks (live tile0) ∧ (live tile0).chip.pins.thermN = true ∧
    limitAt (live tile0).chip.hwk 32 < 106 ∧
    (let g : Gov := { (live tile0).node.gov with reqs := [{ g := 63, phase := some 1, admitted := false, v := 0 }] }
     g.reqs.length = 1 ∧ (live tile0).chip.hwk.evt = 0) ∧
    ((live tile0).node.tg 63).powered = true ∧ (State.reset.node.tg 0).powered = false :=
  ⟨⟨rfl, rfl, by decide⟩, by unfold noneAsks; decide, rfl, by decide, by decide, by decide, by decide⟩

theorem witness_MeterReadings : let m : MeterMeas := { vtest := true, durMs := 10, mainMj := 1, auxMj := 1, range := true, checkOk := true }
    let x := { State.reset.chip.meter with running := true, waitTag := some 9 }
    State.reset.chip.meter.running = false ∧ x.running = true ∧ x.waitTag = some 9 ∧ 10 ≤ m.durMs ∧ x.test = false ∧
    measured m ∧ allDark State.reset ∧ State.reset.chip.pins.aux = false ∧ (live tile0).chip.pins.aux = true ∧
    { x with vtest := true }.vtest = true := by unfold measured allDark; decide

/-- ERM_CHK_CFG; the last byte of the region, a hole, an SPX register. -/
theorem witness_RegisterWrites : (linked tile0).regOn (regAt 0x030008000000) = true ∧ regPlace 0x030008000000 ∧
    regAt 0x0300FFFFFFF8 = .hole ∧ inSpx 0x030003000001 ∧ ¬inSpx 0x030004000000 ∧
    (∀ a v m, passes (linked tile0) (envelope 0x0B (writeArgs a v m)) 0x0B (writeArgs a v m)) ∧
    fixedBits 0x030008000000 &&& 0 = 0 ∧ fixedBits 0x030008000000 &&& allBits ≠ 0 :=
  ⟨by decide +kernel, ⟨by decide, by decide, by decide, by decide +kernel, by unfold inSpx; decide⟩, by decide +kernel, by unfold inSpx; decide,
    by unfold inSpx; decide, fun _ _ _ => linked_passes _ _ (by decide) (by unfold namesJob; decide), by simp, by decide +kernel⟩

theorem witness_RegisterRows : tlcReached (live tile0) 0 ∧ (live tile0).regOn (regAt 0x030008010000) = true ∧
    (readClears (live tile0) (.tshPortRead 7)).isSome = true ∧ fld (live tile0).node.fdbgCtl 1 3 ≠ 1 ∧
    (let n := { (live withArray).node with fdbgCtl := setFld 0 1 3 1 }
     fld n.fdbgCtl 1 3 = 1 ∧ (∀ kv ∈ n.tiles, kv.2.hasFdbg = false) ∧ { n with fdbgAt := some (0, true) }.fdbgAt = some (0, true) ∧
     pickedWell { live withArray with node := n } ∧ ¬pickedWell { live withArray with node := { n with tiles := [] } }) :=
  ⟨⟨rfl, rfl, by decide, by decide, by decide +kernel, by decide +kernel⟩, by decide +kernel, by decide, by decide,
    by decide, by decide, rfl, by unfold pickedWell; decide, by unfold pickedWell; decide⟩

theorem witness_StoreAndReads : passes (linked tile0) (envelope 0x0D (leBytes 3 1)) 0x0D (leBytes 3 1) ∧
    heard (linked tile0) .weavo asking 56 ∧ ((linked tile0).chip.sec.slot 11).next = false ∧
    ((linked tile0).chip.sec.slot 11).active = false ∧ ((linked tile0).chip.sec.slot 10).active = true ∧
    (linked tile0).chip.sec.stored = 0 ∧ ((linked tile0).chip.fuses.owners[0]?) = some (none, false) ∧
    (question (.read asker 0 0)).isSome = true :=
  ⟨linked_passes _ _ (by decide) (by unfold namesJob; decide), linked_heard _ way56, by decide, by decide, by decide, by decide, by decide, rfl⟩

/-- By I3C, and for a module without SPDM's lengths given, by the copper port: neither keeps an answer for want of room. -/
theorem witness_AttestationAndSideband : heard (linked tile0) .i3c asking (40 + Config.spdmBytes 0x7F) ∧ onSideband (linked tile0) ∧
    (attests (linked tile0) (.getMeasurements { asker with path := .i3c } 6 true 1)).isSome = true ∧
    (sidebandAnswer (linked tile0) (.getPdr 68)).isSome = true ∧ (linked tile0).served .i3c = true ∧
    0x30 + (linked tile0).chip.pins.straps = 0x30 ∧ (linked tile0).chip.sec.debug = false ∧ noReset (linked tile0) ∧
    State.reset.served .i3c = false :=
  ⟨⟨⟨rfl, by decide, by decide, trivial, fun h => MPath.noConfusion h⟩, fun h => absurd rfl h⟩, ⟨rfl, by decide⟩, by decide, by decide, by decide,
    by decide, by decide, no_reset _, by decide⟩

theorem witness_AsksAreServed : settledAll State.reset ∧ settledAll (linked tile0) := by unfold settledAll; decide

theorem witness_MemoryStaysCanonical : canonical State.reset ∧ canonical (linked tile0) := by unfold canonical; decide

/-- A step that raises a fuse: a supply glitch is logged. -/
theorem witness_FusesOnlyRise : ((got .supplyGlitch (linked tile0)).map fun t => t.chip.fuses.vlog) = some [2] := by decide +kernel

/-- The worked example of 11 R339, byte for byte. -/
def exampleHeader : WireHdr :=
  { ver := 1, typ := typeOf (.token 40 0 2 1 7), vc := vcOf (.token 40 0 2 1 7) 1, retx := false, mc := false, src := 5, dst := 9
    ctx := 0, len := lenOf (.token 40 0 2 1 7), seq := 1000, grant := some (4, 0x0A40), jobtag := 0x5A170C03
    tspec := (tspecOf (.token 40 0 2 1 7)).toNat, residue := none }

theorem test_header_example : exampleHeader.bytes =
    ([0x01, 0x05, 0x01, 0x00, 0x05, 0x00, 0x09, 0x00, 0x00, 0x00, 0x00, 0x00, 0xE8, 0x03, 0x00, 0x00,
      0x40, 0x0A, 0x0C, 0x00, 0x03, 0x0C, 0x17, 0x5A, 0x01, 0x28, 0x00, 0x05, 0x00, 0x1C, 0x00, 0x00] : List Byte) := by decide +kernel

theorem witness_HeaderRoundTrip : exampleHeader.wf = true ∧ { exampleHeader with residue := some 5 }.wf = true ∧
    WireHdr.ofBytes exampleHeader.bytes = exampleHeader := by decide +kernel
end Sys2Proof.Tests
end

section
/-! PROOFS. Shared laws: reads of a mapped or shortened list, what a read of memory depends on, and the issue of an
instruction whose effect is on its own thread. -/
namespace Sys2Proof.Map

variable {α : Type}

@[simp] theorem look_del_same (m : Map α) (k : Nat) : look (del m k) k = none := by
  induction m with
  | nil => rfl
  | cons x t ih =>
    obtain ⟨a, b⟩ := x
    unfold del
    split
    · exact ih
    · rename_i h
      simp [look, h, ih]

/-- A change of everything listed that keeps the numbers. -/
theorem look_map {β : Type} {g : Nat × α → Nat × β} (hg : ∀ kv, (g kv).1 = kv.1) (m : Map α) (k : Nat) :
    look (m.map g) k = (look m k).map fun v => (g (k, v)).2 := by
  induction m with
  | nil => rfl
  | cons x t ih =>
    obtain ⟨a, b⟩ := x
    have hab : g (a, b) = (a, (g (a, b)).2) := Prod.ext (hg _) rfl
    rw [List.map_cons, hab, look, look]
    split
    · rename_i h
      rw [h]
      rfl
    · exact ih

/-- A change that leaves the default alone shows in every read. -/
theorem getD_map {g : Nat × α → Nat × α} (hg : ∀ kv, (g kv).1 = kv.1) (m : Map α) (k : Nat) (d : α)
    (hd : (g (k, d)).2 = d) : getD (m.map g) k d = (g (k, getD m k d)).2 := by
  rw [getD, getD, look_map hg]
  cases look m k with
  | none => exact hd.symm
  | some v => rfl

end Sys2Proof.Map

namespace Sys2Proof.Machine

/-! ### What a read of memory depends on -/

/-- Where memory lies: the maps, the populated CXL tier, and which of its regions and which ranges are zeroed. -/
def Node.layout (n : Node) : Guard × Word × Option (List Nat) × List (Nat × Nat) :=
  (n.guard, n.mems.cxmCfg, n.mems.filled, n.mems.zero)

/-- The words that are not sound, in every store and in the fetch cache. -/
def Node.codes (n : Node) : (List Nat × Map Bool × List Nat) × Map CSet × (Nat → List Nat × Map Bool) :=
  ((n.mems.bad, n.mems.soft, n.mems.rx), n.fcache, fun u => ((n.tile u).bad, (n.tile u).soft))

/-- The bytes that are listed. -/
def Node.bytes (n : Node) : Map Byte × Map Byte × (Nat → Map Byte) :=
  (n.mems.data, n.fcAlt, fun u => (n.tile u).sram)

/-- What a byte reads as where its word is not poisoned, a byte that nothing has written having its `f`-th free value. -/
def Node.content (n : Node) (f v a : Nat) : Byte :=
  match n.place a with
  | .sram lt off => Map.getD (n.tile (viewKey v lt)).sram off (Config.freeByte f a)
  | .gddr => Map.getD n.fcAlt a (Map.getD n.mems.data a (if n.zeroed a then 0 else Config.freeByte f a))
  | .cxl => if n.cxlFilled a then Map.getD n.mems.data a (if n.zeroed a then 0 else Config.freeByte f a) else 0
  | .reg | .hole => 0

/-- A byte as a reader with view `v` meets it: a byte of a poisoned word has a free value. -/
def Node.reads (n : Node) (f v a : Nat) : Byte :=
  if n.poisoned v (a / 8) then Config.freeByte f a else n.content f v a

section
variable {n m : Node}

theorem Node.place_congr (h : m.layout = n.layout) (a : Nat) : m.place a = n.place a := by
  have hg : m.guard = n.guard := congrArg (·.1) h
  have hc : m.mems.cxmCfg = n.mems.cxmCfg := congrArg (·.2.1) h
  unfold Node.place Node.backed Node.cxlLimit
  rw [hg, hc]

theorem Node.cxlFilled_congr (h : m.layout = n.layout) (a : Nat) : m.cxlFilled a = n.cxlFilled a := by
  have hf : m.mems.filled = n.mems.filled := congrArg (·.2.2.1) h
  unfold Node.cxlFilled
  rw [hf]

theorem Node.zeroed_congr (h : m.layout = n.layout) (a : Nat) : m.zeroed a = n.zeroed a := by
  have hz : m.mems.zero = n.mems.zero := congrArg (·.2.2.2) h
  unfold Node.zeroed
  rw [hz]

theorem Node.lineEcc_congr (h : m.codes = n.codes) (w : Nat) : m.lineEcc w = n.lineEcc w := by
  have hc : m.fcache = n.fcache := congrArg (·.2.1) h
  unfold Node.lineEcc Node.cset
  rw [hc]

theorem Node.storedEcc_congr (hl : m.layout = n.layout) (h : m.codes = n.codes) (v w : Nat) :
    m.storedEcc v w = n.storedEcc v w := by
  have hb : m.mems.bad = n.mems.bad := congrArg (·.1.1) h
  have hs : m.mems.soft = n.mems.soft := congrArg (·.1.2.1) h
  have hr : m.mems.rx = n.mems.rx := congrArg (·.1.2.2) h
  have ht : ∀ u, ((m.tile u).bad, (m.tile u).soft) = ((n.tile u).bad, (n.tile u).soft) := congrFun (congrArg (·.2.2) h)
  unfold Node.storedEcc
  rw [Node.place_congr hl, Node.cxlFilled_congr hl, hb, hs, hr]
  split
  case h_1 lt off _ => exact congrArg (fun c : List Nat × Map Bool => eccOf c.1 c.2 (off / 8)) (ht (viewKey v lt))
  all_goals rfl

theorem Node.poisoned_congr (hl : m.layout = n.layout) (h : m.codes = n.codes) (v w : Nat) :
    m.poisoned v w = n.poisoned v w := by
  unfold Node.poisoned
  rw [Node.storedEcc_congr hl h, Node.lineEcc_congr h]

theorem Node.content_congr (hl : m.layout = n.layout) (h : m.bytes = n.bytes) (f v a : Nat) :
    m.content f v a = n.content f v a := by
  have hd : m.mems.data = n.mems.data := congrArg (·.1) h
  have hf : m.fcAlt = n.fcAlt := congrArg (·.2.1) h
  have ht : ∀ u, (m.tile u).sram = (n.tile u).sram := congrFun (congrArg (·.2.2) h)
  unfold Node.content
  rw [Node.place_congr hl, Node.cxlFilled_congr hl, Node.zeroed_congr hl, hd, hf]
  split
  case h_1 lt off _ => rw [ht]
  all_goals rfl

end

/-- A change of a tile does not show in what it leaves alone of every tile. -/
theorem Node.tiles_setTile {β : Type} (g : Tile → β) (n : Node) (t : Nat) {x : Tile} (hx : g x = g (n.tile t)) :
    (fun u => g ((n.setTile t x).tile u)) = fun u => g (n.tile u) := by
  funext u
  by_cases hu : u = t
  · rw [hu, Node.tile_setTile, hx]
  · rw [Node.tile_setTile_other _ _ _ _ hu]

theorem Node.codes_setTile (n : Node) (t : Nat) {x : Tile}
    (hx : (x.bad, x.soft) = ((n.tile t).bad, (n.tile t).soft)) : (n.setTile t x).codes = n.codes :=
  congrArg (fun c => ((n.mems.bad, n.mems.soft, n.mems.rx), n.fcache, c)) (Node.tiles_setTile (fun y => (y.bad, y.soft)) n t hx)

theorem Node.bytes_setTile (n : Node) (t : Nat) {x : Tile} (hx : x.sram = (n.tile t).sram) :
    (n.setTile t x).bytes = n.bytes :=
  congrArg (fun c => (n.mems.data, n.fcAlt, c)) (Node.tiles_setTile Tile.sram n t hx)

/-- What a tile contributes to memory: its bytes and its unsound words. -/
def Tile.memory (x : Tile) : Map Byte × List Nat × Map Bool := (x.sram, x.bad, x.soft)

/-- `m` holds the memories of `n`: every part that a read of a byte looks at. -/
structure Node.SameMemory (n m : Node) : Prop where
  layout : m.layout = n.layout
  codes : m.codes = n.codes
  bytes : m.bytes = n.bytes

namespace Node.SameMemory

variable {n m k : Node}

theorem refl (n : Node) : n.SameMemory n := ⟨rfl, rfl, rfl⟩

theorem trans (h : n.SameMemory m) (h' : m.SameMemory k) : n.SameMemory k :=
  ⟨h'.layout.trans h.layout, h'.codes.trans h.codes, h'.bytes.trans h.bytes⟩

/-- A tile changed in something else than its memory. -/
theorem setTile (h : n.SameMemory m) (t : Nat) {x : Tile} (hx : x.memory = (m.tile t).memory) :
    n.SameMemory (m.setTile t x) :=
  h.trans ⟨rfl, Node.codes_setTile _ _ (congrArg (·.2) hx), Node.bytes_setTile _ _ (congrArg (·.1) hx)⟩

theorem modTile (h : n.SameMemory m) (t : Nat) {f : Tile → Tile} (hf : ∀ x, (f x).memory = x.memory) :
    n.SameMemory (m.modTile t f) := h.setTile t (hf _)

theorem modThread (h : n.SameMemory m) (t i : Nat) (f : Thread → Thread) : n.SameMemory (m.modThread t i f) :=
  h.setTile t rfl

theorem event (h : n.SameMemory m) (c l : Nat) (d : Word) : n.SameMemory (m.event c l d) := by
  unfold Node.event
  split
  · exact h.trans ⟨rfl, rfl, rfl⟩
  · exact h

theorem noteEvt (h : n.SameMemory m) (c l : Nat) (d e : Word) : n.SameMemory (m.noteEvt c l d e) := by
  unfold Node.noteEvt
  split
  · exact h.trans ⟨rfl, rfl, rfl⟩
  · exact h

theorem reads (h : n.SameMemory m) (f v a : Nat) : m.reads f v a = n.reads f v a := by
  rw [Node.reads, Node.poisoned_congr h.layout h.codes, Node.content_congr h.layout h.bytes, Node.reads]

theorem taint (h : n.SameMemory m) : n.SameMemory m.taint := h.trans ⟨rfl, rfl, rfl⟩

end Node.SameMemory
end Sys2Proof.Machine

namespace Sys2Proof.Slice0
open Machine

theorem byteAt_eq (s : State) (f v a : Nat) : byteAt s f v a = s.node.reads f v a := rfl

theorem keepsMemory_of {s t : State} (h : s.node.SameMemory t.node) : keepsMemory s t := fun f v b => by
  rw [byteAt_eq, byteAt_eq, h.reads]

/-! ### An instruction whose effect is on its own thread -/

/-- A selected instruction that need not wait and is no reserved encoding, whose effect is the change `g` of its thread:
the whole step. -/
theorem lift_issueAt {s : State} {x : Site} (hr : Runs s x) (cost : Nat) {bad : Bool} (hb : bad = false)
    {block : Node → Option Wait} (hw : block s.node = none) {f F : Node → Node} (g : Thread → Thread)
    (hF : F s.node = s.node.issueAt x cost bad block f)
    (hf : f (issued s x cost) = (issued s x cost).modThread x.tile x.thr g) :
    lift F s = .next (after s x cost (g (thr s x))) := by
  obtain ⟨hq, hi, hres, hsel⟩ := hr
  have hgo : F s.node =
      s.node.setTile x.tile (((s.node.tile x.tile).issueMark x.thr cost).setThread x.thr (g (thr s x))) := by
    rw [hF, Node.issueAt_goes hi (by simp [hb, hres]) hsel hw]
    refine hf.trans ?_
    rw [issued, Node.modThread_eq]
    simp [Node.modTile, thr, Node.thread]
  rw [lift_quiet, hgo]
  · rfl
  · rw [hgo]; exact hq

end Sys2Proof.Slice0
end

section
/-! PROOFS. The first fault of a step (03 R104, R105). -/
namespace Sys2Proof.Machine

@[simp] theorem Node.quiet_taint (n : Node) : n.taint.quiet = n.quiet := rfl

@[simp] theorem Node.quiet_event (n : Node) (c l : Nat) (d : Word) : (n.event c l d).quiet = n.quiet := by
  unfold Node.event; split <;> rfl

@[simp] theorem Node.quiet_noteEvt (n : Node) (c l : Nat) (d e : Word) : (n.noteEvt c l d e).quiet = n.quiet := by
  unfold Node.noteEvt; split <;> rfl

@[simp] theorem Node.tile_event (n : Node) (c l u : Nat) (d : Word) : (n.event c l d).tile u = n.tile u := by
  rw [Node.tile, Node.tiles_event, Node.tile]

@[simp] theorem Node.tile_noteEvt (n : Node) (c l u : Nat) (d e : Word) : (n.noteEvt c l d e).tile u = n.tile u := by
  rw [Node.tile, Node.tiles_noteEvt, Node.tile]

@[simp] theorem Node.tile_taint (n : Node) (u : Nat) : n.taint.tile u = n.tile u := rfl

@[simp] theorem Node.quiet_digest (n : Node) (t d : Nat) : (n.digest t d).quiet = n.quiet := by
  unfold Node.digest; split <;> rfl

theorem Node.tile_digest (n : Node) (t d : Nat) : ∃ e, (n.digest t d).tile t = { n.tile t with digest := e } := by
  unfold Node.digest
  split
  · exact ⟨_, Node.tile_modTile n t _⟩
  · exact ⟨_, rfl⟩

theorem Node.tile_digest_other (n : Node) {t u : Nat} (d : Nat) (h : u ≠ t) : (n.digest t d).tile u = n.tile u := by
  unfold Node.digest
  split
  · exact Node.tile_modTile_other n t u _ h
  · rfl

theorem Node.SameMemory.digest {n m : Node} (h : n.SameMemory m) (t d : Nat) : n.SameMemory (m.digest t d) := by
  unfold Node.digest
  split
  · exact h.modTile t fun _ => rfl
  · exact h

/-- A first fault or retraction of the step only counts (R105). -/
theorem Node.recurrence_first {n : Node} {t : Nat} (h : (n.tile t).recur = []) (retract : Bool) (cls i pc : Nat) :
    n.recurrence t retract cls i pc = n.modTile t fun x => { x with
      recur := [{ retract := retract, cls := cls, thr := i, pc := pc, times := 1, epoch := x.epoch }] } := by
  simp [Node.recurrence, h, Node.modTile]

@[simp] theorem Tile.recordFault_thr (x : Tile) (cls i pc : Nat) (detail : BitVec 32) (addr : Nat) :
    (x.recordFault cls i pc detail addr).thr = x.thr := by
  unfold Tile.recordFault; split <;> rfl

@[simp] theorem Tile.recordFault_recur (x : Tile) (cls i pc : Nat) (detail : BitVec 32) (addr : Nat) :
    (x.recordFault cls i pc detail addr).recur = x.recur := by
  unfold Tile.recordFault; split <;> rfl

theorem Tile.recordFault_memory (x : Tile) (cls i pc : Nat) (detail : BitVec 32) (addr : Nat) :
    (x.recordFault cls i pc detail addr).memory = x.memory := by
  unfold Tile.recordFault; split <;> rfl

/-- A tile's verdict turns tainted and its first fault of the step counts. -/
def Tile.counted (x : Tile) (retract : Bool) (cls i pc : Nat) : Tile :=
  { x with
    tainted := true, verdict := some 1
    recur := [{ retract := retract, cls := cls, thr := i, pc := pc, times := 1, epoch := x.epoch }] }

/-- A logical tile taints the step and its first fault counts: its own tile and the module's verdict change. -/
theorem Node.taintTile_recurrence {n : Node} {t : Nat} (ht : t < 4096) (hr : (n.tile t).recur = []) (retract : Bool)
    (cls i pc : Nat) :
    (n.taintTile t).recurrence t retract cls i pc = n.taint.modTile t (·.counted retract cls i pc) := by
  have hs : isShadow t = false := by simpa [isShadow] using ht
  have htaint : n.taintTile t = n.taint.modTile t fun x => { x with tainted := true, verdict := some 1 } := by
    rw [Node.taintTile, hs]; rfl
  rw [htaint, Node.recurrence_first (by rw [Node.tile_modTile]; exact hr), Node.modTile_modTile]
  rfl

/-- A tile whose thread `i` has halted with a fault recorded. -/
def Tile.halted (x : Tile) (i cls pc : Nat) (detail : BitVec 32) (addr : Nat) : Tile :=
  (x.setThread i { x.thread i with wait := .halted }).recordFault cls i pc detail addr

theorem Tile.thread_halted (x : Tile) (i cls pc : Nat) (detail : BitVec 32) (addr : Nat) :
    (x.halted i cls pc detail addr).thread i = { x.thread i with wait := .halted } := by
  rw [Tile.thread, Tile.halted, Tile.recordFault_thr]
  exact Tile.thread_setThread _ _ _

theorem Tile.thread_halted_other (x : Tile) {i j : Nat} (h : j ≠ i) (cls pc : Nat) (detail : BitVec 32) (addr : Nat) :
    (x.halted i cls pc detail addr).thread j = x.thread j := by
  rw [Tile.thread, Tile.halted, Tile.recordFault_thr]
  exact Tile.thread_setThread_other _ _ _ _ h

/-- Where no interval is open, a fault is recorded in a clear register, and else shows as MORE (R110). -/
theorem Tile.fault_halted {x : Tile} (h : x.sameIv = false) (i cls pc : Nat) (detail : BitVec 32) (addr : Nat) :
    (x.halted i cls pc detail addr).fault = if x.fault.valid then { x.fault with more := true } else
      { valid := true, more := x.fault.more, cls := cls, thr := i, pc := pc, detail := detail, addr := addr % 2 ^ 48 } := by
  unfold Tile.halted Tile.recordFault
  cases hv : x.fault.valid <;> simp [h, hv]

/-- A logical tile's first fault of the step: its thread halts with the fault recorded, the step is tainted, and memory, the
other tiles and what is asked of the always-on domain stay. -/
theorem Node.takeFault_first {n m : Node} {t i cls pc addr : Nat} {detail : BitVec 32} (ht : t < 4096)
    (hr : (n.tile t).recur = []) (hm : n.takeFault t i cls pc detail addr = m) :
    (m.tile t).thr = ((n.tile t).halted i cls pc detail addr).thr ∧
      (m.tile t).fault = ((n.tile t).halted i cls pc detail addr).fault ∧ (m.tile t).tainted = true ∧
      (m.tile t).verdict = some 1 ∧ (∀ u, u ≠ t → m.tile u = n.tile u) ∧ m.commit.tainted = true ∧
      m.quiet = n.quiet ∧ n.SameMemory m := by
  have hs : isShadow t = false := by simpa [isShadow] using ht
  have hhalt : (n.modThread t i fun th => { th with wait := .halted }).modTile t
      (·.recordFault cls i pc detail addr) = n.modTile t (·.halted i cls pc detail addr) := by
    rw [Node.modThread_eq, Node.modTile_modTile]; rfl
  have hmem : n.SameMemory (n.modTile t (·.halted i cls pc detail addr)) :=
    (Node.SameMemory.refl n).modTile t fun x => Tile.recordFault_memory _ _ _ _ _ _
  obtain ⟨e, he⟩ := (n.modTile t (·.halted i cls pc detail addr)).tile_digest t (2 ^ 59 + cls * 2 ^ 12 + pc)
  have hother : ∀ u, u ≠ t → ((n.modTile t (·.halted i cls pc detail addr)).digest t (2 ^ 59 + cls * 2 ^ 12 + pc)).tile u =
      n.tile u := fun u hu => by rw [Node.tile_digest_other _ _ hu, Node.tile_modTile_other _ _ _ _ hu]
  have hmem' := hmem.digest t (2 ^ 59 + cls * 2 ^ 12 + pc)
  have hquiet : ((n.modTile t (·.halted i cls pc detail addr)).digest t (2 ^ 59 + cls * 2 ^ 12 + pc)).quiet = n.quiet := by
    rw [Node.quiet_digest]; rfl
  rw [Node.takeFault] at hm
  simp only [hhalt, hs, Bool.false_eq_true, if_false] at hm
  generalize (n.modTile t (·.halted i cls pc detail addr)).digest t (2 ^ 59 + cls * 2 ^ 12 + pc) = k at *
  rw [Node.tile_modTile] at he
  have hrk : (k.tile t).recur = [] := by rw [he]; simpa [Tile.halted] using hr
  rw [Node.taintTile_recurrence ht (by simpa using hrk)] at hm
  generalize (n.tile t).halted i cls pc detail addr = y at he ⊢
  subst hm
  refine ⟨?_, ?_, ?_, ?_, fun u hu => ?_, rfl, ?_, ?_⟩
  iterate 4 rw [Node.tile_modTile, Node.tile_taint, Node.tile_noteEvt, Node.tile_event, he]; rfl
  · rw [Node.tile_modTile_other _ _ _ _ hu, Node.tile_taint, Node.tile_noteEvt, Node.tile_event, hother u hu]
  · rw [Node.quiet_modTile, Node.quiet_taint, Node.quiet_noteEvt, Node.quiet_event, hquiet]
  · exact ((hmem'.event 1 t _).noteEvt 1 t _ _).taint.modTile t fun _ => rfl

end Sys2Proof.Machine
end

section
/-! PROOFS. Token counters and barriers (04 R137-R140). -/
namespace Sys2Proof.Machine

@[simp] theorem Tile.setThread_setThread (x : Tile) (i : Nat) (p q : Thread) :
    (x.setThread i p).setThread i q = x.setThread i q := by
  simp [Tile.setThread]

@[simp] theorem Node.modThread_modThread (n : Node) (t i : Nat) (f g : Thread → Thread) :
    (n.modThread t i f).modThread t i g = n.modThread t i (g ∘ f) := by
  simp only [Node.modThread_eq, Node.modTile_modTile]
  congr 1
  funext x
  simp

theorem Node.advance_setWait (n : Node) (x : Site) (w : Wait) :
    (n.advance x).setWait x w = n.modThread x.tile x.thr fun th => { th.step with wait := w } :=
  Node.modThread_modThread _ _ _ _ _

/-- A barrier is complete once every participant with code has arrived (R139). -/
theorem Tile.barDone_iff (x : Tile) (set : Nat) (there : List Nat) : x.barDone set there = true ↔
    ∀ i, i < 8 → set.testBit i = true → i ∈ there ∨ (x.thread i).hasCode = false := by
  simp only [Tile.barDone, List.all_eq_true, List.mem_range, Bool.or_eq_true, Bool.not_eq_true', List.contains_iff_mem]
  refine forall₂_congr fun i _ => ?_
  cases set.testBit i <;> simp

/-- A thread once barrier `id` is complete. -/
def Thread.released (th : Thread) (id : Nat) : Thread := if th.wait = .barrier id then { th with wait := .ready } else th

/-- A completed barrier makes ready the threads that wait at it, and no other. -/
theorem Tile.thread_releaseBar (x : Tile) (id j : Nat) : (x.releaseBar id).thread j = (x.thread j).released id := by
  have hthr : (x.releaseBar id).thr = x.thr.map fun kv => (kv.1, kv.2.released id) := rfl
  rw [Tile.thread, hthr, Map.getD_map]
  · rfl
  · exact fun _ => rfl
  · rfl

@[simp] theorem Tile.memory_releaseBar (x : Tile) (id : Nat) : (x.releaseBar id).memory = x.memory := rfl

/-- The tile of site `x` with the issuing thread at barrier `id`. -/
def Tile.atBarrier (t : Tile) (x : Site) (id : Fin 4) (b : Barrier) : Tile :=
  { (t.issueMark x.thr 1).setThread x.thr { (t.thread x.thr).step with wait := .barrier id } with
    bars := Map.put t.bars id b }

@[simp] theorem Tile.thread_atBarrier (t : Tile) (x : Site) (id : Fin 4) (b : Barrier) :
    (t.atBarrier x id b).thread x.thr = { (t.thread x.thr).step with wait := .barrier id } :=
  Tile.thread_setThread _ _ _

theorem Tile.thread_atBarrier_other (t : Tile) (x : Site) (id : Fin 4) (b : Barrier) {j : Nat} (h : j ≠ x.thr.val) :
    (t.atBarrier x id b).thread j = t.thread j :=
  Tile.thread_setThread_other _ _ _ _ h

@[simp] theorem Tile.memory_atBarrier (t : Tile) (x : Site) (id : Fin 4) (b : Barrier) :
    (t.atBarrier x id b).memory = t.memory := rfl

theorem Tile.hasCode_atBarrier (t : Tile) (x : Site) (id : Fin 4) (b : Barrier) (j : Nat) :
    ((t.atBarrier x id b).thread j).hasCode = (t.thread j).hasCode := by
  by_cases h : j = x.thr.val
  · rw [h, Tile.thread_atBarrier]; rfl
  · rw [Tile.thread_atBarrier_other _ _ _ _ h]

end Sys2Proof.Machine

namespace Sys2Proof.Slice0
open Machine

/-- Barrier `id` once the thread of site `x` has joined it with `mask`. -/
def joining (s : State) (x : Site) (mask : BitVec 8) (id : Fin 4) : Barrier :=
  { mask := mask.toNat ||| 2 ^ x.thr.val, arrived := arrivals (Map.look (s.node.tile x.tile).bars id) x }

/-- The tile of site `x` with the issuing thread waiting at barrier `id`. -/
def waiting (s : State) (x : Site) (mask : BitVec 8) (id : Fin 4) : Tile :=
  (s.node.tile x.tile).atBarrier x id (joining s x mask id)

/-- The tile of site `x` after its BAR with a participant set that agrees. -/
def afterBar (s : State) (x : Site) (mask : BitVec 8) (id : Fin 4) : Tile :=
  if (waiting s x mask id).barDone (joining s x mask id).mask (joining s x mask id).arrived
  then (waiting s x mask id).releaseBar id else waiting s x mask id

theorem arrivals_eq (old : Option Barrier) (x : Site) (set : Nat) :
    insertNew x.thr (old.getD { mask := set, arrived := [] }).arrived = arrivals old x := by
  cases old <;> simp [arrivals, insertNew]

@[simp] theorem Tile.issueMark_sameIv (x : Tile) (i c : Nat) : (x.issueMark i c).sameIv = false := rfl

/-- What BAR does when it issues: an illegal instruction, or the thread joins the barrier. -/
def barEffect (x : Site) (mask : BitVec 8) (id : Fin 4) (m : Node) : Node :=
  let set := mask.toNat ||| 2 ^ x.thr.val
  let old := (Map.look (m.tile x.tile).bars id).getD { mask := set, arrived := [] }
  if old.mask ≠ set then m.illegal x
  else ((m.advance x).setWait x (.barrier id)).modTile x.tile fun y =>
    let y1 := { y with bars := Map.put y.bars id { mask := set, arrived := insertNew x.thr old.arrived } }
    if y1.barDone set (insertNew x.thr old.arrived) then y1.releaseBar id else y1

/-- A selected BAR has its effect. -/
theorem exec_bar {s : State} {x : Site} (hr : Runs s x) (mask : BitVec 8) (id : Fin 4) :
    exec (.bar x mask id) s = lift (fun _ => barEffect x mask id (issued s x 1)) s := by
  obtain ⟨-, hi, hres, hsel⟩ := hr
  have hgo : s.node.issueAt x 1 false noWait (barEffect x mask id) = barEffect x mask id (issued s x 1) :=
    Node.issueAt_goes hi (by simp [hres]) hsel rfl 1 _
  have h : exec (.bar x mask id) s = lift (fun n => n.issueAt x 1 false noWait (barEffect x mask id)) s := rfl
  rw [h, lift, hgo, lift]

@[simp] theorem tile_issued (s : State) (x : Site) (cost : Nat) :
    (issued s x cost).tile x.tile = (s.node.tile x.tile).issueMark x.thr cost := Node.tile_modTile _ _ _

theorem tile_issued_other (s : State) {x : Site} (cost : Nat) {u : Nat} (h : u ≠ x.tile) :
    (issued s x cost).tile u = s.node.tile u := Node.tile_modTile_other _ _ _ _ h

theorem issued_sameMemory (s : State) (x : Site) (cost : Nat) : s.node.SameMemory (issued s x cost) :=
  (Node.SameMemory.refl _).modTile _ fun _ => rfl

/-- BAR with the participant set of whoever waits there (R139). -/
theorem exec_bar_joins {s : State} {x : Site} (hr : Runs s x) (mask : BitVec 8) (id : Fin 4)
    (h : ∀ b, Map.look (s.node.tile x.tile).bars id = some b → b.mask = mask.toNat ||| 2 ^ x.thr.val) :
    exec (.bar x mask id) s = .next { s with node := s.node.setTile x.tile (afterBar s x mask id) } := by
  have hset : ((Map.look (s.node.tile x.tile).bars id).getD
      { mask := mask.toNat ||| 2 ^ x.thr.val, arrived := [] }).mask = mask.toNat ||| 2 ^ x.thr.val := by
    cases hb : Map.look (s.node.tile x.tile).bars id with
    | none => rfl
    | some b => exact h b hb
  have heff : barEffect x mask id (issued s x 1) = s.node.setTile x.tile (afterBar s x mask id) := by
    simp only [barEffect, tile_issued, Tile.issueMark_bars, hset, ne_eq, not_true_eq_false, if_false, arrivals_eq]
    rw [Node.advance_setWait, issued, Node.modThread_eq, Node.modTile_modTile, Node.modTile_modTile]
    rfl
  rw [exec_bar hr, lift_quiet, heff]
  rw [heff]
  exact hr.1

/-- BAR with another participant set than that of a thread already there (R140). -/
theorem exec_bar_differs {s : State} {x : Site} (hr : Runs s x) (mask : BitVec 8) (id : Fin 4) {b : Barrier}
    (hb : Map.look (s.node.tile x.tile).bars id = some b) (hm : b.mask ≠ mask.toNat ||| 2 ^ x.thr.val) :
    exec (.bar x mask id) s = lift (fun _ => (issued s x 1).illegal x) s := by
  have heff : barEffect x mask id (issued s x 1) = (issued s x 1).illegal x := by
    simp only [barEffect, tile_issued, Tile.issueMark_bars, hb, Option.getD_some, ne_eq, hm, not_false_eq_true, if_true]
  rw [exec_bar hr, heff]

/-- An illegal instruction at its issue, the first fault of its tile in the step. -/
theorem lift_illegal {s : State} {x : Site} (hq : s.node.quiet = true) (ht : x.tile < 4096) (hc : calm s x.tile) :
    ∃ t, lift (fun _ => (issued s x 1).illegal x) s = .next t ∧ faulted s t x := by
  generalize hm : (issued s x 1).illegal x = m
  have hrecur : ((issued s x 1).tile x.tile).recur = [] := by rw [tile_issued]; exact hc.1
  obtain ⟨hthr, hfault, htainted, -, hother, hcommit, hquiet, hmem⟩ := Node.takeFault_first ht hrecur hm
  rw [tile_issued] at hthr hfault
  refine ⟨{ s with node := m }, lift_quiet _ (hquiet.trans hq), ?_, ?_, htainted, hcommit, fun u j huj => ?_, ?_⟩
  · rw [Node.thread, Tile.thread, hthr]
    exact Tile.thread_halted _ _ _ _ _ _
  · rw [hfault, Tile.fault_halted (Tile.issueMark_sameIv _ _ _), Node.thread, tile_issued]
    rfl
  · by_cases hu : u = x.tile
    · rw [hu, Node.thread, Tile.thread, hthr]
      exact Tile.thread_halted_other _ (fun h => huj ⟨hu, h⟩) _ _ _ _
    · rw [Node.thread, hother u hu, tile_issued_other s 1 hu]
      rfl
  · exact keepsMemory_of ((issued_sameMemory s x 1).trans hmem)

theorem twaitCount_eq (th : Thread) (r : Bool) (ra : Fin 32) (count : BitVec 16) :
    twaitCount th r ra count = waited th r ra count := rfl

theorem exec_twait_takes {s : State} {x : Site} (hr : Runs s x) (ctr : Fin 8) (r : Bool) (ra : Fin 32) (count : BitVec 16)
    (hv : reserved (.twait x ctr r ra count) = false) (h : waited (thr s x) r ra count ≤ (thr s x).getK ctr) :
    exec (.twait x ctr r ra count) s =
      .next (after s x 1 ((thr s x).setK ctr ((thr s x).getK ctr - waited (thr s x) r ra count)).step) := by
  have he : exec (.twait x ctr r ra count) s = execTwait x ctr r ra count s := rfl
  have hbad : (if r then count != 0 else ra != 0) = false := by cases r <;> simpa [reserved] using hv
  rw [he, execTwait]
  refine lift_issueAt hr 1 hbad ?_ (fun th => (th.setK ctr (th.getK ctr - waited (thr s x) r ra count)).step) rfl rfl
  exact if_neg (by rw [twaitCount_eq]; exact Nat.not_lt.mpr h)

theorem exec_twait_waits {s : State} {x : Site} (hr : Runs s x) (ctr : Fin 8) (r : Bool) (ra : Fin 32) (count : BitVec 16)
    (hv : reserved (.twait x ctr r ra count) = false) (h : (thr s x).getK ctr < waited (thr s x) r ra count) :
    exec (.twait x ctr r ra count) s =
      .next { s with
        node := s.node.setThread x.tile x.thr { thr s x with wait := .tokens ctr (waited (thr s x) r ra count) } } := by
  obtain ⟨hq, hi, hres, hsel⟩ := hr
  have he : exec (.twait x ctr r ra count) s = execTwait x ctr r ra count s := rfl
  have hbad : (if r then count != 0 else ra != 0) = false := by cases r <;> simpa [reserved] using hv
  rw [he, execTwait, lift_quiet]
  · rw [Node.issueAt_blocks hi (by rw [hbad, hres]; rfl) hsel (if_pos h)]
    rfl
  · rw [Node.issueAt_blocks hi (by rw [hbad, hres]; rfl) hsel (if_pos h)]
    exact hq

theorem exec_tread {s : State} {x : Site} (hr : Runs s x) (ctr : Fin 8) (rd : Fin 32) : exec (.tread x ctr rd) s =
    .next (after s x 1 ((thr s x).setS rd (BitVec.ofNat 64 ((thr s x).getK ctr))).step) := by
  have he : exec (.tread x ctr rd) s = execTread x ctr rd s := rfl
  rw [he, execTread]
  exact lift_issueAt hr 1 rfl rfl (fun th => (th.setS rd (BitVec.ofNat 64 (th.getK ctr))).step) rfl rfl

/-! ### The threads at a barrier -/

theorem barDone_waiting (s : State) (x : Site) (mask : BitVec 8) (id : Fin 4) :
    (waiting s x mask id).barDone (joining s x mask id).mask (joining s x mask id).arrived = true ↔
      allThere s x.tile (joining s x mask id).mask (joining s x mask id).arrived := by
  simp only [Tile.barDone_iff, waiting, Tile.hasCode_atBarrier, allThere, Node.thread]

theorem afterBar_complete {s : State} {x : Site} {mask : BitVec 8} {id : Fin 4}
    (h : allThere s x.tile (joining s x mask id).mask (joining s x mask id).arrived) :
    afterBar s x mask id = (waiting s x mask id).releaseBar id :=
  if_pos ((barDone_waiting s x mask id).mpr h)

theorem afterBar_waits {s : State} {x : Site} {mask : BitVec 8} {id : Fin 4}
    (h : ¬allThere s x.tile (joining s x mask id).mask (joining s x mask id).arrived) :
    afterBar s x mask id = waiting s x mask id :=
  if_neg fun hd => h ((barDone_waiting s x mask id).mp hd)

theorem afterBar_memory (s : State) (x : Site) (mask : BitVec 8) (id : Fin 4) :
    (afterBar s x mask id).memory = (s.node.tile x.tile).memory := by
  unfold afterBar
  split <;> simp [waiting]

/-- Settles O12: each of TWAIT, TREAD and BAR issues by one equation; at a barrier, who is there decides. -/
theorem countersAndBarriers : Obligations.CountersAndBarriers := by
  refine ⟨⟨fun s x ctr r ra count hr hv => ⟨exec_twait_takes hr ctr r ra count hv, exec_twait_waits hr ctr r ra count hv⟩,
    fun s x ctr rd hr => exec_tread hr ctr rd⟩, fun s x mask id hr => ⟨fun b hb hm ht hc => ?_, fun hagree => ?_⟩⟩
  · rw [exec_bar_differs hr mask id hb hm]
    exact lift_illegal hr.1 ht hc
  · have hmem : s.node.SameMemory (s.node.setTile x.tile (afterBar s x mask id)) :=
      (Node.SameMemory.refl _).setTile _ (afterBar_memory _ _ _ _)
    refine ⟨_, exec_bar_joins hr mask id hagree, keepsMemory_of hmem, rfl, fun u j hu => ?_, fun hall => ?_, fun hnot => ?_⟩
    · exact congrArg (Tile.thread · j) (Node.tile_setTile_other _ _ _ _ hu)
    · have hdone : afterBar s x mask id = (waiting s x mask id).releaseBar id := afterBar_complete hall
      simp only [Node.thread, Node.tile_setTile, hdone, Tile.thread_releaseBar, waiting]
      refine ⟨?_, Map.look_del_same _ _, fun j hj => ?_⟩
      · rw [Tile.thread_atBarrier]
        exact if_pos rfl
      · rw [Tile.thread_atBarrier_other _ _ _ _ hj]
        rfl
    · have hwaits : afterBar s x mask id = waiting s x mask id := afterBar_waits hnot
      simp only [Node.thread, Node.tile_setTile, hwaits, waiting]
      exact ⟨Tile.thread_atBarrier _ _ _ _, Map.look_put_same _ _ _, fun j hj => Tile.thread_atBarrier_other _ _ _ _ hj⟩

end Sys2Proof.Slice0
end

section
/-! PROOFS. The codewords that a write makes valid (10 R305, R309): `Node.mend`, with the line of the fetch cache. -/
namespace Sys2Proof.Map

variable {α : Type}

theorem getD_del (m : Map α) (k j : Nat) (d : α) : getD (del m k) j d = if j = k then d else getD m j d := by
  unfold getD
  split
  · rename_i h
    rw [h, look_del_same]
    rfl
  · rename_i h
    rw [look_del_other _ _ _ h]

theorem above_of_mem {lo : Nat} {m : Map α} (h : Above lo m) {kv : Nat × α} (hm : kv ∈ m) : lo < kv.1 := by
  induction m generalizing lo with
  | nil => cases hm
  | cons x t ih =>
    obtain ⟨a, b⟩ := x
    rcases List.mem_cons.mp hm with rfl | hm
    · exact h.1
    · exact Nat.lt_trans h.1 (ih h.2 hm)

/-- In canonical form what is listed is what a read finds. -/
theorem look_of_mem {m : Map α} (h : m.wf = true) {k : Nat} {v : α} (hm : (k, v) ∈ m) : look m k = some v := by
  induction m with
  | nil => cases hm
  | cons x t ih =>
    obtain ⟨a, b⟩ := x
    have ha : Above a t := (wf_cons a b t).mp h
    rcases List.mem_cons.mp hm with heq | hm
    · obtain ⟨rfl, rfl⟩ := Prod.mk.inj heq
      simp [look]
    · have hlt := above_of_mem ha hm
      have ht : wf t = true := by
        cases t with
        | nil => rfl
        | cons y t => exact (wf_cons y.1 y.2 t).mpr ha.2
      rw [look, if_neg (by simpa using Nat.ne_of_gt hlt)]
      exact ih ht hm

/-- A search that passes over number `k` passes over what takes its place. -/
theorem find?_put_other (p : α → Bool) {m : Map α} {k : Nat} {v w : α} (hk : look m k = some v) (hv : p v = false)
    (hw : p w = false) : (put m k w).find? (fun kv => p kv.2) = List.find? (fun kv => p kv.2) m := by
  induction m with
  | nil => cases hk
  | cons x t ih =>
    obtain ⟨a, b⟩ := x
    rw [look] at hk
    unfold put
    split
    · simp [hw]
    · split
      · rename_i heq
        rw [if_pos heq] at hk
        obtain rfl := Option.some.inj hk
        simp [hv, hw]
      · rename_i hne
        rw [if_neg hne] at hk
        rw [List.find?_cons, List.find?_cons, ih hk]

/-- A search that finds number `k` finds what takes its place. -/
theorem find?_put_same (p : α → Bool) {m : Map α} {k : Nat} {v w : α}
    (hk : List.find? (fun kv => p kv.2) m = some (k, v)) (hw : p w = true) :
    (put m k w).find? (fun kv => p kv.2) = some (k, w) := by
  induction m with
  | nil => cases hk
  | cons x t ih =>
    obtain ⟨a, b⟩ := x
    unfold put
    split
    · simp [hw]
    · split
      · simp [hw]
      · rename_i hne
        rw [List.find?_cons] at hk ⊢
        cases hb : p b with
        | true =>
          simp only [hb] at hk
          exact absurd (congrArg Prod.fst (Option.some.inj hk)).symm hne
        | false =>
          simp only [hb] at hk
          exact ih hk

end Sys2Proof.Map

namespace Sys2Proof.Machine

/-! ### The report of a word -/

/-- A word written whole with valid check bits is clean. -/
theorem eccOf_mended (bad : List Nat) (soft : Map Bool) (w : Nat) :
    eccOf (bad.filter (· ≠ w)) (Map.del soft w) w = .clean := by
  simp [eccOf]

theorem eccOf_mended_other (bad : List Nat) (soft : Map Bool) {w x : Nat} (h : x ≠ w) :
    eccOf (bad.filter (· ≠ w)) (Map.del soft w) x = eccOf bad soft x := by
  simp [eccOf, Map.look_del_other _ _ _ h, h]

/-! ### Words and the places that they lie in -/

/-- GDDR7 is what lies below its end (02 R57). -/
theorem Node.place_gddr {n : Node} {a : Nat} : n.place a = .gddr ↔ a < Config.gddrEnd := by
  refine ⟨fun h => ?_, fun h => if_pos h⟩
  by_contra hn
  rw [Node.place, if_neg hn] at h
  dsimp only at h
  repeat' split at h
  all_goals cases h

theorem Node.place_cxl {n : Node} {a : Nat} : n.place a = .cxl ↔ Config.cxlBase ≤ a ∧ a < n.cxlLimit := by
  have hbelow : Config.cxlBase ≤ a → ¬a < Config.gddrEnd ∧
      ¬(Config.sramBase ≤ a ∧ a < Config.sramBase + Config.ltCount * 0x100000) ∧
      ¬(Config.regBase ≤ a ∧ a < Config.regEnd) := by
    simp only [Config.cxlBase, Config.gddrEnd, Config.sramBase, Config.ltCount, Config.regBase, Config.regEnd]
    omega
  constructor
  · intro h
    by_contra hn
    simp only [Node.place, if_neg hn] at h
    repeat' split at h
    all_goals cases h
  · intro h
    obtain ⟨hlow, hsram, hreg⟩ := hbelow h.1
    rw [Node.place, if_neg hlow, if_neg hsram, if_neg hreg]
    exact if_pos h

theorem Node.place_sram {n : Node} {a lt off : Nat} : n.place a = .sram lt off ↔
    lt < Config.ltCount ∧ off < Config.sramBytes ∧ n.backed lt = true ∧ a = sramAddr lt off := by
  constructor
  · intro h
    unfold Node.place at h
    dsimp only at h
    split at h
    · cases h
    split at h
    · rename_i hin
      split at h
      · rename_i hoff
        obtain ⟨rfl, rfl⟩ := Place.sram.inj h
        refine ⟨?_, hoff.1, hoff.2, ?_⟩
        all_goals simp only [Config.sramBase, Config.ltCount, sramAddr] at *; omega
      · cases h
    · repeat' split at h
      all_goals cases h
  · rintro ⟨hlt, hoff, hb, rfl⟩
    simp only [Config.ltCount, Config.sramBytes] at hlt hoff
    have hlow : ¬sramAddr lt off < Config.gddrEnd := by simp only [sramAddr, Config.sramBase, Config.gddrEnd]; omega
    have hin : Config.sramBase ≤ sramAddr lt off ∧
        sramAddr lt off < Config.sramBase + Config.ltCount * 0x100000 := by
      simp only [sramAddr, Config.sramBase, Config.ltCount]; omega
    have hdiv : (sramAddr lt off - Config.sramBase) / 0x100000 = lt := by
      simp only [sramAddr, Config.sramBase]; omega
    have hmod : (sramAddr lt off - Config.sramBase) % 0x100000 = off := by
      simp only [sramAddr, Config.sramBase]; omega
    rw [Node.place, if_neg hlow, if_pos hin]
    simp only [hdiv, hmod]
    exact if_pos ⟨hoff, hb⟩

/-- Two words of GDDR7 in one line and at one place of it are one word. -/
theorem word_of_line {w x : Nat} (hw : w * 8 < Config.gddrEnd) (hx : x * 8 < Config.gddrEnd)
    (hkey : cacheKey (x * 8) = cacheKey (w * 8)) (htag : cacheTag (x * 8) = cacheTag (w * 8))
    (hword : cacheWord (x * 8) = cacheWord (w * 8)) : x = w := by
  simp only [cacheKey, cacheSlice, cacheSet, cacheTag, cacheWord, bits, Nat.shiftRight_eq_div_pow, Nat.reducePow,
    Config.gddrEnd] at *
  have hslice : x * 8 / 256 % 32 = w * 8 / 256 % 32 := by omega
  have hset : x * 8 / 8192 % 512 = w * 8 / 8192 % 512 := by omega
  have hhigh : x * 8 / 4194304 = w * 8 / 4194304 := by omega
  have hrow : x * 8 / 8192 = w * 8 / 8192 := by omega
  have hline : x * 8 / 256 = w * 8 / 256 := by omega
  omega

/-! ### What a write leaves alone -/

/-- What no write of bytes changes: where memory lies, the flaws that travel, what is asked of the always-on domain, and the
threads. -/
def Node.frame (n : Node) :
    (Guard × Word × Option (List Nat) × List (Nat × Nat)) × Map Flaw × Bool × (Nat → Nat → Thread) :=
  (n.layout, n.wire, n.quiet, n.thread)

theorem Node.layout_of_frame {n m : Node} (h : m.frame = n.frame) : m.layout = n.layout := congrArg (·.1) h

theorem Node.wire_of_frame {n m : Node} (h : m.frame = n.frame) : m.wire = n.wire := congrArg (·.2.1) h
theorem Node.quiet_of_frame {n m : Node} (h : m.frame = n.frame) : m.quiet = n.quiet := congrArg (·.2.2.1) h
theorem Node.thread_of_frame {n m : Node} (h : m.frame = n.frame) : m.thread = n.thread := congrArg (·.2.2.2) h

theorem Node.frame_modTile (n : Node) (t : Nat) {f : Tile → Tile} (hf : ∀ x, (f x).thread = x.thread) :
    (n.modTile t f).frame = n.frame :=
  congrArg (fun c => (n.layout, n.wire, n.quiet, c)) (Node.tiles_setTile Tile.thread n t (hf _))

/-- What a change of a tile leaves alone, a change of several does. -/
theorem Node.foldl_modTile {β : Type} (g : Node → β) {f : Tile → Tile} (hf : ∀ n t, g (n.modTile t f) = g n)
    (l : List Nat) :
    ∀ n, g (l.foldl (fun m t => m.modTile t f) n) = g n := by
  induction l with
  | nil => exact fun _ => rfl
  | cons t l ih => exact fun n => (ih _).trans (hf n t)

theorem Node.tile_foldl_modTile {f : Tile → Tile} {l : List Nat} (hl : l.Nodup) (u : Nat) (n : Node) :
    (l.foldl (fun m t => m.modTile t f) n).tile u = if u ∈ l then f (n.tile u) else n.tile u := by
  induction l generalizing n with
  | nil => simp
  | cons t l ih =>
    obtain ⟨ht, hl⟩ := List.nodup_cons.mp hl
    rw [List.foldl_cons, ih hl]
    by_cases hu : u = t
    · simp [hu, ht]
    · simp [hu, Node.tile_modTile_other _ _ _ _ hu]

/-- Whether a write of view `k` at `a` reaches what a reader with view `v` meets there. -/
def Node.writeMeets (n : Node) (k v a : Nat) : Bool :=
  match n.place a with
  | .sram lt _ => (n.writeKeys k lt).contains (viewKey v lt)
  | _ => true

theorem Node.writeMeets_sram {n : Node} {a lt off : Nat} (h : n.place a = .sram lt off) (k v : Nat) :
    n.writeMeets k v a = (n.writeKeys k lt).contains (viewKey v lt) := by
  rw [Node.writeMeets, h]

theorem Node.writeMeets_congr {n m : Node} (h : m.layout = n.layout) (k v a : Nat) : m.writeMeets k v a = n.writeMeets k v a := by
  have hg : m.guard = n.guard := congrArg (·.1) h
  unfold Node.writeMeets Node.writeKeys Node.shadowed
  rw [Node.place_congr h, hg]

theorem Node.writeKeys_nodup (n : Node) (k lt : Nat) : (n.writeKeys k lt).Nodup := by
  unfold Node.writeKeys
  repeat' split
  all_goals simp

/-- A writer reaches tiles of the logical tile that it writes, and a reader meets one of that which it reads. -/
theorem Node.ltOf_writeKeys {n : Node} {k lt u : Nat} (hlt : lt < Config.ltCount) (h : u ∈ n.writeKeys k lt) : ltOf u = lt := by
  simp only [Config.ltCount] at hlt
  unfold Node.writeKeys at h
  split at h
  · rename_i hk
    rw [List.mem_singleton.mp h, hk.1]
  · split at h
    · rcases List.mem_pair.mp h with rfl | rfl <;> simp only [ltOf] <;> omega
    · rw [List.mem_singleton.mp h]; simp only [ltOf]; omega

theorem ltOf_viewKey {v lt : Nat} (hlt : lt < Config.ltCount) : ltOf (viewKey v lt) = lt := by
  simp only [Config.ltCount] at hlt
  unfold viewKey
  split
  · assumption
  · simp only [ltOf]; omega

/-! ### A line of the fetch cache -/

/-- Every set of the fetch cache is listed in canonical form: each way once. -/
def Node.waysWf (n : Node) : Prop := ∀ k, Map.wf (Map.getD n.fcache k .empty).ways = true

/-- Right after reset the fetch cache lists nothing. -/
theorem waysWf_reset : State.reset.node.waysWf := fun _ => rfl

theorem Node.cset_setCset (n : Node) (a b : Nat) (c : CSet) :
    (n.setCset a c).cset b = if cacheKey b = cacheKey a then c else n.cset b := Map.getD_put _ _ _ _ _

theorem Node.modLine_fcache (n : Node) (a : Nat) (f : CLine → CLine) : ∃ c, n.modLine a f = { n with fcache := c } := by
  unfold Node.modLine
  dsimp only
  split
  · exact ⟨_, rfl⟩
  · exact ⟨_, rfl⟩

theorem Node.waysWf_modLine {n : Node} (h : n.waysWf) (a : Nat) (f : CLine → CLine) : (n.modLine a f).waysWf := by
  unfold Node.modLine
  dsimp only
  split
  · exact h
  · intro k
    rw [Node.setCset, Map.getD_put]
    split
    · exact Map.wf_put _ _ (h _)
    · exact h k

/-- What the fetch cache reports of a word of a present line. -/
theorem Node.lineEcc_eq {n : Node} {x : Nat} (hx : x * 8 < Config.gddrEnd) : n.lineEcc x =
    (List.find? (fun kv => kv.2.tag == cacheTag (x * 8)) (n.cset (x * 8)).ways).map
      fun l => eccOf l.2.bad l.2.soft (cacheWord (x * 8)) := if_pos hx

/-- A line with word `i` valid. -/
def CLine.mended (l : CLine) (i : Nat) : CLine := { l with soft := Map.del l.soft i, bad := l.bad.filter (· ≠ i) }

theorem Node.cacheWrite_absent {n : Node} {a : Nat} (h : (n.cset a).find a = none) : n.cacheWrite a = n := by
  rw [Node.cacheWrite, Node.modLine, h]

theorem Node.cacheWrite_present {n : Node} {a i : Nat} {l : CLine} (h : (n.cset a).find a = some (i, l)) :
    n.cacheWrite a =
      n.setCset a { n.cset a with ways := Map.put (n.cset a).ways i (l.mended (cacheWord a)) } := by
  rw [Node.cacheWrite, Node.modLine, h]
  rfl

/-- A whole word of a line is written: it is clean where the line is present, and every other word is as it was. -/
theorem Node.lineEcc_cacheWrite {n : Node} (h : n.waysWf) {w : Nat} (hw : w * 8 < Config.gddrEnd) (x : Nat) :
    (n.cacheWrite (w * 8)).lineEcc x = bif w == x then (n.lineEcc x).map fun _ => .clean else n.lineEcc x := by
  by_cases hx : x * 8 < Config.gddrEnd
  case neg => simp [Node.lineEcc, hx]
  cases hfind : (n.cset (w * 8)).find (w * 8) with
  | none =>
    rw [Node.cacheWrite_absent hfind]
    by_cases hwx : w = x
    · have hnone : n.lineEcc x = none := by rw [← hwx, Node.lineEcc, if_pos hw, hfind]; rfl
      simp [hnone]
    · rw [beq_false_of_ne hwx, cond_false]
  | some il =>
    obtain ⟨i, l⟩ := il
    have hlook : Map.look (n.cset (w * 8)).ways i = some l := Map.look_of_mem (h _) (List.mem_of_find?_eq_some hfind)
    have htag : (l.tag == cacheTag (w * 8)) = true :=
      List.find?_some (p := fun kv : Nat × CLine => kv.2.tag == cacheTag (w * 8)) hfind
    rw [Node.cacheWrite_present hfind, Node.lineEcc_eq hx, Node.cset_setCset, Node.lineEcc_eq hx]
    by_cases hkey : cacheKey (x * 8) = cacheKey (w * 8)
    case neg =>
      have hne : (w == x) = false := beq_false_of_ne fun heq => hkey (by rw [heq])
      rw [if_neg hkey, hne, cond_false]
    have hset : n.cset (x * 8) = n.cset (w * 8) := by rw [Node.cset, hkey, Node.cset]
    rw [if_pos hkey, hset]
    by_cases hsame : cacheTag (x * 8) = cacheTag (w * 8)
    · have hput := Map.find?_put_same (fun l : CLine => l.tag == cacheTag (w * 8)) (w := l.mended (cacheWord (w * 8)))
        hfind htag
      have hfound : List.find? (fun kv => kv.2.tag == cacheTag (w * 8)) (n.cset (w * 8)).ways = some (i, l) := hfind
      rw [hsame, hput, hfound]
      by_cases hword : cacheWord (x * 8) = cacheWord (w * 8)
      · rw [word_of_line hw hx hkey hsame hword, beq_self_eq_true]
        exact congrArg some (eccOf_mended _ _ _)
      · have hne : (w == x) = false := beq_false_of_ne fun heq => hword (by rw [heq])
        rw [hne]
        exact congrArg some (eccOf_mended_other _ _ hword)
    · have hne : (w == x) = false := beq_false_of_ne fun heq => hsame (by rw [heq])
      have hpass : (l.tag == cacheTag (x * 8)) = false := by
        rw [eq_of_beq htag]
        exact beq_false_of_ne (Ne.symm hsame)
      have hput := Map.find?_put_other (fun l : CLine => l.tag == cacheTag (x * 8)) (w := l.mended (cacheWord (w * 8)))
        hlook hpass hpass
      rw [hput, hne, cond_false]

/-! ### A word written whole -/

/-- The tiers with word `w` valid. -/
def Node.tierMended (n : Node) (w : Nat) : Node := { n with mems := { n.mems with
  bad := n.mems.bad.filter (· ≠ w), soft := Map.del n.mems.soft w, rx := n.mems.rx.filter (· ≠ w) } }

/-- A tile with word `i` of its SRAM valid. -/
def Tile.mended (x : Tile) (i : Nat) : Tile :=
  { x with bad := x.bad.filter (· ≠ i), soft := Map.del x.soft i }

theorem Node.mend_sram {n : Node} {k w lt off : Nat} (h : n.place (w * 8) = .sram lt off) :
    n.mend k w = (n.writeKeys k lt).foldl (fun m u => m.modTile u (·.mended (off / 8))) n := by
  rw [Node.mend, h]; rfl

theorem Node.mend_gddr {n : Node} {w : Nat} (h : n.place (w * 8) = .gddr) (k : Nat) :
    n.mend k w = (n.tierMended w).cacheWrite (w * 8) := by
  rw [Node.mend, h]
  exact if_pos (Node.place_gddr.mp h)

theorem Node.mend_cxl {n : Node} {w : Nat} (h : n.place (w * 8) = .cxl) (k : Nat) : n.mend k w = n.tierMended w := by
  have hhigh : ¬w * 8 < Config.gddrEnd := by
    have hlow := (Node.place_cxl.mp h).1
    simp only [Config.cxlBase, Config.gddrEnd] at hlow ⊢
    omega
  rw [Node.mend, h]
  exact if_neg hhigh

/-- No store there: nothing to mend. -/
theorem Node.mend_none {n : Node} {w : Nat} (h : n.place (w * 8) = .reg ∨ n.place (w * 8) = .hole) (k : Nat) :
    n.mend k w = n := by
  rcases h with h | h <;> rw [Node.mend, h]

theorem Node.storedEcc_sram {n : Node} {x lt off : Nat} (h : n.place (x * 8) = .sram lt off) (v : Nat) :
    n.storedEcc v x = eccOf (n.tile (viewKey v lt)).bad (n.tile (viewKey v lt)).soft (off / 8) := by
  rw [Node.storedEcc, h]

theorem Node.storedEcc_none {n : Node} {x : Nat} (h : n.place (x * 8) = .reg ∨ n.place (x * 8) = .hole) (v : Nat) :
    n.storedEcc v x = .clean := by
  rcases h with h | h <;> rw [Node.storedEcc, h]

theorem Node.storedEcc_tierMended {n : Node} {w : Nat} (h : n.place (w * 8) = .gddr ∨ n.place (w * 8) = .cxl) (v x : Nat) :
    (n.tierMended w).storedEcc v x = bif w == x then .clean else n.storedEcc v x := by
  have hplace : ∀ a, (n.tierMended w).place a = n.place a := Node.place_congr rfl
  have hfilled : (n.tierMended w).cxlFilled (x * 8) = n.cxlFilled (x * 8) := Node.cxlFilled_congr rfl _
  by_cases hwx : w = x
  · subst hwx
    rw [beq_self_eq_true, cond_true]
    rcases h with h | h <;> simp only [Node.storedEcc, hplace, h]
    · exact eccOf_mended _ _ _
    · split
      · rfl
      · rw [if_neg (by simp [Node.tierMended])]
        exact eccOf_mended _ _ _
  · rw [beq_false_of_ne hwx, cond_false]
    unfold Node.storedEcc
    rw [hplace, hfilled]
    have hecc : eccOf (n.tierMended w).mems.bad (n.tierMended w).mems.soft x = eccOf n.mems.bad n.mems.soft x :=
      eccOf_mended_other _ _ (Ne.symm hwx)
    have hrx : (n.tierMended w).mems.rx.contains x = n.mems.rx.contains x := by
      simp [Node.tierMended, Ne.symm hwx]
    rw [hecc, hrx]
    rfl

theorem Node.storedEcc_mend (n : Node) (k w v x : Nat) :
    (n.mend k w).storedEcc v x = bif w == x && n.writeMeets k v (w * 8) then .clean else n.storedEcc v x := by
  cases hp : n.place (w * 8) with
  | sram lt off =>
    obtain ⟨hlt, -, -, haddr⟩ := Node.place_sram.mp hp
    rw [Node.mend_sram hp]
    have htile := fun u => Node.tile_foldl_modTile (f := (·.mended (off / 8))) (n.writeKeys_nodup k lt) u n
    have hmems := Node.foldl_modTile Node.mems (f := (·.mended (off / 8))) (fun _ _ => rfl) (n.writeKeys k lt) n
    have hlayout := Node.foldl_modTile Node.layout (f := (·.mended (off / 8))) (fun _ _ => rfl) (n.writeKeys k lt) n
    generalize (n.writeKeys k lt).foldl (fun m u => m.modTile u (·.mended (off / 8))) n = m at htile hmems hlayout ⊢
    cases hx : n.place (x * 8) with
    | sram lt' off' =>
      obtain ⟨hlt', -, -, haddr'⟩ := Node.place_sram.mp hx
      rw [Node.storedEcc_sram ((Node.place_congr hlayout _).trans hx), Node.storedEcc_sram hx,
        Node.writeMeets_sram hp, htile]
      by_cases hwx : w = x
      · subst hwx
        obtain ⟨rfl, rfl⟩ := Place.sram.inj (hp.symm.trans hx)
        rw [beq_self_eq_true, Bool.true_and]
        by_cases hmem : viewKey v lt ∈ n.writeKeys k lt
        · rw [if_pos hmem, List.contains_iff_mem.mpr hmem, cond_true]
          exact eccOf_mended _ _ _
        · rw [if_neg hmem, Bool.eq_false_iff.mpr (mt List.contains_iff_mem.mp hmem), cond_false]
      · rw [beq_false_of_ne hwx, Bool.false_and, cond_false]
        split
        · rename_i hmem
          have heq : lt' = lt := (ltOf_viewKey hlt').symm.trans (Node.ltOf_writeKeys hlt hmem)
          refine eccOf_mended_other _ _ fun h => hwx ?_
          rw [heq] at haddr'
          simp only [sramAddr] at haddr haddr'
          omega
        · rfl
    | _ =>
      have hwx : (w == x) = false := beq_false_of_ne fun h => by rw [h, hx] at hp; cases hp
      rw [hwx, Bool.false_and, cond_false]
      simp only [Node.storedEcc, Node.place_congr hlayout, Node.cxlFilled_congr hlayout, hx, hmems]
  | gddr =>
    obtain ⟨c, hc⟩ := (n.tierMended w).modLine_fcache (w * 8) (·.mended (cacheWord (w * 8)))
    have hmend : n.mend k w = { n.tierMended w with fcache := c } := (Node.mend_gddr hp k).trans hc
    rw [hmend, Node.writeMeets, hp, Bool.and_true]
    exact Node.storedEcc_tierMended (.inl hp) v x
  | cxl =>
    rw [Node.mend_cxl hp, Node.writeMeets, hp, Bool.and_true]
    exact Node.storedEcc_tierMended (.inr hp) v x
  | reg | hole =>
    rw [Node.mend_none (by simp [hp])]
    cases hwx : w == x with
    | false => rfl
    | true =>
      have hclean : n.storedEcc v x = .clean := by
        rw [← eq_of_beq hwx]
        exact Node.storedEcc_none (by simp [hp]) v
      rw [hclean, Bool.cond_self]

theorem Node.fcache_mend {n : Node} {w : Nat} (h : n.place (w * 8) ≠ .gddr) (k : Nat) : (n.mend k w).fcache = n.fcache := by
  cases hp : n.place (w * 8) with
  | gddr => exact absurd hp h
  | sram lt off => rw [Node.mend_sram hp, Node.foldl_modTile Node.fcache fun _ _ => rfl]
  | cxl => rw [Node.mend_cxl hp]; rfl
  | reg | hole => rw [Node.mend_none (by simp [hp])]

theorem Node.lineEcc_mend {n : Node} (h : n.waysWf) (k w x : Nat) :
    (n.mend k w).lineEcc x = bif w == x then (n.lineEcc x).map fun _ => .clean else n.lineEcc x := by
  by_cases hp : n.place (w * 8) = .gddr
  · rw [Node.mend_gddr hp]
    exact Node.lineEcc_cacheWrite (n := n.tierMended w) h (Node.place_gddr.mp hp) x
  · have hsame : (n.mend k w).lineEcc x = n.lineEcc x := by
      unfold Node.lineEcc Node.cset
      rw [Node.fcache_mend hp]
    rw [hsame]
    cases hwx : w == x with
    | false => rfl
    | true =>
      have hnone : n.lineEcc x = none := if_neg (by rw [← eq_of_beq hwx]; exact mt Node.place_gddr.mpr hp)
      rw [hnone, Option.map_none, Bool.cond_self]

theorem Node.waysWf_mend {n : Node} (h : n.waysWf) (k w : Nat) : (n.mend k w).waysWf := by
  by_cases hp : n.place (w * 8) = .gddr
  · rw [Node.mend_gddr hp]
    exact Node.waysWf_modLine (n := n.tierMended w) h _ _
  · rw [Node.waysWf, Node.fcache_mend hp]
    exact h

theorem Node.frame_mend (n : Node) (k w : Nat) : (n.mend k w).frame = n.frame := by
  cases hp : n.place (w * 8) with
  | sram lt off =>
    rw [Node.mend_sram hp]
    exact Node.foldl_modTile Node.frame (fun n u => n.frame_modTile u (f := (·.mended (off / 8))) fun _ => rfl) _ _
  | gddr =>
    obtain ⟨c, hc⟩ := (n.tierMended w).modLine_fcache (w * 8) (·.mended (cacheWord (w * 8)))
    rw [(Node.mend_gddr hp k).trans hc]
    rfl
  | cxl => rw [Node.mend_cxl hp]; rfl
  | reg | hole => rw [Node.mend_none (by simp [hp])]

theorem Node.bytes_mend (n : Node) (k w : Nat) : (n.mend k w).bytes = n.bytes := by
  cases hp : n.place (w * 8) with
  | sram lt off =>
    rw [Node.mend_sram hp]
    exact Node.foldl_modTile Node.bytes (f := (·.mended (off / 8))) (fun n u => n.bytes_setTile u rfl) _ _
  | gddr =>
    obtain ⟨c, hc⟩ := (n.tierMended w).modLine_fcache (w * 8) (·.mended (cacheWord (w * 8)))
    rw [(Node.mend_gddr hp k).trans hc]
    rfl
  | cxl => rw [Node.mend_cxl hp]; rfl
  | reg | hole => rw [Node.mend_none (by simp [hp])]

end Sys2Proof.Machine
end

section
/-! PROOFS. A write of bytes (10 R305, R309): the codewords of its words, then the bytes. -/
namespace Sys2Proof.Machine

/-- Whether one of the writes `l`, each a view and a word, reaches what a reader with view `v` meets of word `x`. -/
def Node.mends (n : Node) (l : List (Nat × Nat)) (v x : Nat) : Bool :=
  l.any fun kw => kw.2 == x && n.writeMeets kw.1 v (kw.2 * 8)

theorem Node.mends_congr {n m : Node} (h : m.layout = n.layout) (l : List (Nat × Nat)) (v x : Nat) :
    m.mends l v x = n.mends l v x := by
  simp only [Node.mends, Node.writeMeets_congr h]

/-- `m` is `n` with the words that the writes `l` reach made valid, and no byte changed. -/
structure Node.Mended (n m : Node) (l : List (Nat × Nat)) : Prop where
  frame : m.frame = n.frame
  bytes : m.bytes = n.bytes
  ways : m.waysWf
  stored : ∀ v x, m.storedEcc v x = bif n.mends l v x then .clean else n.storedEcc v x
  line : ∀ x, m.lineEcc x = bif l.any (·.2 == x) then (n.lineEcc x).map fun _ => .clean else n.lineEcc x

theorem Node.Mended.trans {n m k : Node} {l l' : List (Nat × Nat)} (h : n.Mended m l) (h' : m.Mended k l') :
    n.Mended k (l ++ l') := by
  refine ⟨h'.frame.trans h.frame, h'.bytes.trans h.bytes, h'.ways, fun v x => ?_, fun x => ?_⟩
  · rw [h'.stored, h.stored, Node.mends_congr (Node.layout_of_frame h.frame)]
    simp only [Node.mends, List.any_append]
    cases l.any _ <;> cases l'.any _ <;> rfl
  · rw [h'.line, h.line, List.any_append]
    cases l.any _ <;> cases l'.any _ <;> simp [Function.comp_def]

/-- What records a correction leaves every word as it was. -/
theorem Node.mended_corrected {n : Node} (h : n.waysWf) (two : Bool) (a : Nat) : n.Mended (n.corrected two a) [] := by
  have hsame : (n.corrected two a).frame = n.frame ∧ (n.corrected two a).bytes = n.bytes ∧
      (n.corrected two a).codes = n.codes := by
    unfold Node.corrected
    dsimp only
    split <;> exact ⟨rfl, rfl, rfl⟩
  obtain ⟨hframe, hbytes, hcodes⟩ := hsame
  have hcache : (n.corrected two a).fcache = n.fcache := congrArg (·.2.1) hcodes
  refine ⟨hframe, hbytes, ?_, Node.storedEcc_congr (Node.layout_of_frame hframe) hcodes, Node.lineEcc_congr hcodes⟩
  rw [Node.waysWf, hcache]
  exact h

theorem Node.mended_mend {n : Node} (h : n.waysWf) (k w : Nat) : n.Mended (n.mend k w) [(k, w)] :=
  ⟨n.frame_mend k w, n.bytes_mend k w, Node.waysWf_mend h k w, fun v x => by
    rw [Node.storedEcc_mend, Node.mends, List.any_cons, List.any_nil, Bool.or_false], fun x => by
    rw [Node.lineEcc_mend h, List.any_cons, List.any_nil, Bool.or_false]⟩

/-- A word that is read as it stands: at most a correction is recorded. -/
theorem Node.readStored_sound {n : Node} (hw : n.waysWf) {v w : Nat} (h : n.storedEcc v w ≠ .bad) :
    ∃ m, n.readStored v w = (false, m) ∧ n.Mended m [] := by
  unfold Node.readStored
  split
  case h_4 hb => exact absurd hb h
  case h_1 => exact ⟨n, rfl, rfl, rfl, hw, fun _ _ => rfl, fun _ => rfl⟩
  all_goals exact ⟨_, rfl, Node.mended_corrected hw _ _⟩

/-- Whether word `w` is written whole, or can be read as it stands by everyone. -/
def Node.takes (n : Node) (whole : Bool) (w : Nat) : Prop :=
  whole = true ∨ (∀ v, n.storedEcc v w ≠ .bad) ∧ n.lineEcc w ≠ some .bad

theorem Node.Mended.takes {n m : Node} {l : List (Nat × Nat)} (h : n.Mended m l) {whole : Bool} {w : Nat}
    (ht : n.takes whole w) : m.takes whole w := by
  rcases ht with ht | ⟨hs, hl⟩
  · exact .inl ht
  · refine .inr ⟨fun v => ?_, ?_⟩
    · rw [h.stored]
      cases n.mends l v w
      · exact hs v
      · exact Ecc.noConfusion
    · rw [h.line]
      cases l.any (·.2 == w)
      · exact hl
      · cases n.lineEcc w <;> simp

theorem Node.writeWord_takes {n : Node} (hw : n.waysWf) {whole : Bool} {w : Nat} (h : n.takes whole w) (k : Nat) :
    ∃ m, n.writeWord whole k w = (false, m) ∧ n.Mended m [(k, w)] := by
  cases whole with
  | true => exact ⟨_, rfl, Node.mended_mend hw k w⟩
  | false =>
    obtain ⟨hs, hl⟩ := h.resolve_left Bool.false_ne_true
    obtain ⟨m, hm, hmended⟩ := Node.readStored_sound hw (hs k)
    refine ⟨m.mend k w, ?_, hmended.trans (Node.mended_mend hmended.ways k w)⟩
    simp [Node.writeWord, hl, hm]

/-- The writes of the codewords of the words `ws`, copy by copy: each a view and a word. -/
def Node.wordWrites (n : Node) (v : Nat) (ws : List Nat) : List (Nat × Nat) :=
  ws.flatMap fun w => (n.copies v (w * 8)).map fun k => (k, w)

/-- One step of `Node.writeWords`. -/
def writeStep (whole : Nat → Bool) (r : Option Nat × Node) (kw : Nat × Nat) : Option Nat × Node :=
  let s := r.2.writeWord (whole kw.2) kw.1 kw.2
  (r.1 <|> (if s.1 then some kw.2 else none), s.2)

theorem foldl_writeStep {whole : Nat → Bool} {l : List (Nat × Nat)} {n : Node} (hw : n.waysWf)
    (h : ∀ kw ∈ l, n.takes (whole kw.2) kw.2) : ∃ m, l.foldl (writeStep whole) (none, n) = (none, m) ∧ n.Mended m l := by
  induction l generalizing n with
  | nil => exact ⟨n, rfl, rfl, rfl, hw, fun _ _ => rfl, fun _ => rfl⟩
  | cons kw l ih =>
    obtain ⟨m, hm, hmended⟩ := Node.writeWord_takes hw (h kw List.mem_cons_self) kw.1
    obtain ⟨m', hm', hmended'⟩ := ih hmended.ways fun kw' hkw' => hmended.takes (h kw' (List.mem_cons_of_mem _ hkw'))
    have hstep : writeStep whole (none, n) kw = (none, m) := by simp [writeStep, hm]
    exact ⟨m', by rw [List.foldl_cons, hstep, hm'], hmended.trans hmended'⟩

theorem Node.mem_wordWrites {n : Node} {v : Nat} {ws : List Nat} {kw : Nat × Nat} :
    kw ∈ n.wordWrites v ws ↔ kw.2 ∈ ws ∧ kw.1 ∈ n.copies v (kw.2 * 8) := by
  simp only [Node.wordWrites, List.mem_flatMap, List.mem_map]
  constructor
  · rintro ⟨w, hw, k, hk, rfl⟩
    exact ⟨hw, hk⟩
  · exact fun h => ⟨kw.2, h.1, kw.1, h.2, rfl⟩

/-! ### The bytes -/

/-- What the tiers' bytes read as after a write of one. -/
theorem Node.getD_setByte (n : Node) (a : Nat) (b : Byte) (x : Nat) (d : Byte) :
    Map.getD (n.setByte a b) x (if n.zeroed x then 0 else d) =
      if x = a then b else Map.getD n.mems.data x (if n.zeroed x then 0 else d) := by
  unfold Node.setByte
  split
  · rename_i h
    obtain ⟨hz, hb⟩ := Bool.and_eq_true_iff.mp h
    rw [Map.getD_del]
    split
    · rename_i hx
      rw [hx, if_pos hz, eq_of_beq hb]
    · rfl
  · exact Map.getD_put _ _ _ _ _

/-- A tile with `b` at `off` of its SRAM. -/
def Tile.poked (x : Tile) (off : Nat) (b : Byte) : Tile := { x with sram := Map.put x.sram off b }

theorem Node.poke_sram {n : Node} {a lt off : Nat} (h : n.place a = .sram lt off) (k : Nat) (b : Byte) :
    n.poke k a b = (n.writeKeys k lt).foldl (fun m u => m.modTile u (·.poked off b)) n := by
  rw [Node.poke, h]; rfl

theorem Node.poke_gddr {n : Node} {a : Nat} (h : n.place a = .gddr) (k : Nat) (b : Byte) : n.poke k a b =
    { n with mems := { n.mems with data := n.setByte a b }, fcAlt := Map.del n.fcAlt a } := by
  rw [Node.poke, h]

theorem Node.poke_cxl {n : Node} {a : Nat} (h : n.place a = .cxl) (k : Nat) (b : Byte) : n.poke k a b =
    { n with mems := { n.mems with data := n.setByte a b } } := by
  rw [Node.poke, h]

theorem Node.poke_none {n : Node} {a : Nat} (h : n.place a = .reg ∨ n.place a = .hole) (k : Nat) (b : Byte) :
    n.poke k a b = n := by
  rcases h with h | h <;> rw [Node.poke, h]

theorem Node.frame_poke (n : Node) (k a : Nat) (b : Byte) : (n.poke k a b).frame = n.frame := by
  cases hp : n.place a with
  | sram lt off =>
    rw [Node.poke_sram hp]
    exact Node.foldl_modTile Node.frame (fun n u => n.frame_modTile u (f := (·.poked off b)) fun _ => rfl) _ _
  | gddr => rw [Node.poke_gddr hp]; rfl
  | cxl => rw [Node.poke_cxl hp]; rfl
  | reg | hole => rw [Node.poke_none (by simp [hp])]

theorem Node.codes_poke (n : Node) (k a : Nat) (b : Byte) : (n.poke k a b).codes = n.codes := by
  cases hp : n.place a with
  | sram lt off =>
    rw [Node.poke_sram hp]
    exact Node.foldl_modTile Node.codes (f := (·.poked off b)) (fun n u => n.codes_setTile u rfl) _ _
  | gddr => rw [Node.poke_gddr hp]; rfl
  | cxl => rw [Node.poke_cxl hp]; rfl
  | reg | hole => rw [Node.poke_none (by simp [hp])]

theorem Node.layout_poke (n : Node) (k a : Nat) (b : Byte) : (n.poke k a b).layout = n.layout :=
  Node.layout_of_frame (n.frame_poke k a b)

/-- The SRAM that a reader meets after a write of one byte. -/
theorem Node.sram_poke {n : Node} {a lt off : Nat} (h : n.place a = .sram lt off) (k u : Nat) (b : Byte) :
    ((n.poke k a b).tile u).sram =
      if u ∈ n.writeKeys k lt then Map.put (n.tile u).sram off b else (n.tile u).sram := by
  rw [Node.poke_sram h, Node.tile_foldl_modTile (n.writeKeys_nodup k lt)]
  split <;> rfl

/-- A write of one byte leaves every other. -/
theorem Node.content_poke_other (n : Node) (k : Nat) {a x : Nat} (b : Byte) (h : x ≠ a) (f v : Nat) :
    (n.poke k a b).content f v x = n.content f v x := by
  have hlayout := n.layout_poke k a b
  cases hp : n.place a with
  | sram lt off =>
    obtain ⟨hlt, -, -, haddr⟩ := Node.place_sram.mp hp
    have hmems : (n.poke k a b).mems = n.mems := by
      rw [Node.poke_sram hp]
      exact Node.foldl_modTile Node.mems (f := (·.poked off b)) (fun _ _ => rfl) _ _
    have halt : (n.poke k a b).fcAlt = n.fcAlt := by
      rw [Node.poke_sram hp]
      exact Node.foldl_modTile Node.fcAlt (f := (·.poked off b)) (fun _ _ => rfl) _ _
    unfold Node.content
    rw [Node.place_congr hlayout, Node.cxlFilled_congr hlayout, Node.zeroed_congr hlayout, hmems, halt]
    split
    case h_1 lt' off' hx =>
      obtain ⟨hlt', -, -, haddr'⟩ := Node.place_sram.mp hx
      rw [Node.sram_poke hp]
      split
      · rename_i hmem
        have heq : lt' = lt := (ltOf_viewKey hlt').symm.trans (Node.ltOf_writeKeys hlt hmem)
        refine Map.getD_put_other _ _ _ _ _ fun hoff => h ?_
        rw [haddr, haddr', heq, hoff]
      · rfl
    all_goals rfl
  | gddr =>
    unfold Node.content
    rw [Node.place_congr hlayout, Node.cxlFilled_congr hlayout, Node.zeroed_congr hlayout, Node.poke_gddr hp]
    simp only [Map.getD_del, Node.getD_setByte, if_neg h]
    rfl
  | cxl =>
    unfold Node.content
    rw [Node.place_congr hlayout, Node.cxlFilled_congr hlayout, Node.zeroed_congr hlayout, Node.poke_cxl hp]
    simp only [Node.getD_setByte, if_neg h]
    rfl
  | reg | hole => rw [Node.poke_none (by simp [hp])]

/-- Whether a byte at `a` is kept: `a` is in memory, and in a region of the CXL tier that is initialised. -/
def Node.keeps (n : Node) (a : Nat) : Prop :=
  n.place a ≠ .reg ∧ n.place a ≠ .hole ∧ (n.place a = .cxl → n.cxlFilled a = true)

/-- A byte written is what its reader meets. -/
theorem Node.content_poke_same {n : Node} {k a v : Nat} (h : n.keeps a) (hm : n.writeMeets k v a = true) (b : Byte) (f : Nat) :
    (n.poke k a b).content f v a = b := by
  have hlayout := n.layout_poke k a b
  obtain ⟨hreg, hhole, hfill⟩ := h
  unfold Node.content
  rw [Node.place_congr hlayout, Node.cxlFilled_congr hlayout, Node.zeroed_congr hlayout]
  cases hp : n.place a with
  | sram lt off =>
    rw [Node.writeMeets_sram hp] at hm
    simp only [Node.sram_poke hp, if_pos (List.contains_iff_mem.mp hm), Map.getD_put_same]
  | gddr =>
    rw [Node.poke_gddr hp]
    simp only [Map.getD_del, if_true, Node.getD_setByte]
  | cxl =>
    rw [Node.poke_cxl hp, hfill hp]
    simp only [if_true, Node.getD_setByte]
  | reg => exact absurd hp hreg
  | hole => exact absurd hp hhole

theorem Node.keeps_congr {n m : Node} (h : m.layout = n.layout) {a : Nat} (hk : n.keeps a) : m.keeps a := by
  unfold Node.keeps
  rw [Node.place_congr h, Node.cxlFilled_congr h]
  exact hk

theorem Node.frame_pokes (n : Node) (k a : Nat) (bs : List Byte) : (n.pokes k a bs).frame = n.frame := by
  induction bs generalizing n a with
  | nil => rfl
  | cons b bs ih => exact (ih _ _).trans (n.frame_poke k a b)

theorem Node.codes_pokes (n : Node) (k a : Nat) (bs : List Byte) : (n.pokes k a bs).codes = n.codes := by
  induction bs generalizing n a with
  | nil => rfl
  | cons b bs ih => exact (ih _ _).trans (n.codes_poke k a b)

theorem Node.content_pokes_other (n : Node) (k : Nat) {a x : Nat} {bs : List Byte} (h : x < a ∨ a + bs.length ≤ x) (f v : Nat) :
    (n.pokes k a bs).content f v x = n.content f v x := by
  induction bs generalizing n a with
  | nil => rfl
  | cons b bs ih =>
    rw [List.length_cons] at h
    exact (ih _ (by omega)).trans (n.content_poke_other k b (by omega) f v)

theorem Node.content_pokes_same {n : Node} {k v a : Nat} {bs : List Byte} (h : ∀ i, i < bs.length → n.keeps (a + i))
    (hm : ∀ i, i < bs.length → n.writeMeets k v (a + i) = true) (f : Nat) {i : Nat} (hi : i < bs.length) :
    (n.pokes k a bs).content f v (a + i) = bs[i] := by
  induction bs generalizing n a i with
  | nil => cases hi
  | cons b bs ih =>
    have hlayout := n.layout_poke k a b
    cases i with
    | zero =>
      exact ((n.poke k a b).content_pokes_other k (.inl (Nat.lt_succ_self a)) f v).trans
        (Node.content_poke_same (h 0 hi) (hm 0 hi) b f)
    | succ i =>
      have hshift : ∀ j, a + 1 + j = a + (j + 1) := fun j => by omega
      have := ih (n := n.poke k a b) (a := a + 1)
        (fun j hj => Node.keeps_congr hlayout (hshift j ▸ h (j + 1) (Nat.succ_lt_succ hj)))
        (fun j hj => by rw [Node.writeMeets_congr hlayout, hshift]; exact hm (j + 1) (Nat.succ_lt_succ hj))
        (Nat.lt_of_succ_lt_succ hi)
      rwa [hshift] at this

end Sys2Proof.Machine
end

section
/-! PROOFS. A store of a tile: where its bytes lie, and what it leaves. -/
namespace Sys2Proof.Machine

theorem Node.poisoned_of_sound {n : Node} {v x : Nat} (h : n.storedEcc v x ≠ .bad) : n.poisoned v x = false := by
  rw [Node.poisoned, beq_false_of_ne h, Bool.false_and]

/-- A tile reads back in its own view what it writes: one of the copies that it writes is the one that it meets. -/
theorem Node.exists_copy {n : Node} {v : Nat} (hv : v < 8192) (a : Nat) :
    ∃ k ∈ n.copies v a, n.writeMeets k v a = true := by
  cases hp : n.place a with
  | sram lt off =>
    obtain ⟨hlt, -⟩ := Node.place_sram.mp hp
    have hcopies : n.copies v a = n.writeKeys v lt := by rw [Node.copies, hp]
    simp only [Config.ltCount] at hlt
    have hself : ltOf lt = lt := Nat.mod_eq_of_lt (by omega)
    simp only [hcopies, Node.writeMeets_sram hp, List.contains_iff_mem]
    by_cases hown : ltOf v = lt
    · refine ⟨v, ?_, ?_⟩ <;> simp [Node.writeKeys, viewKey, hown, hv]
    · refine ⟨lt, ?_, ?_⟩
      · simp only [Node.writeKeys, hown, false_and, if_false]
        split <;> simp
      · have hlow : lt < 8192 := by omega
        simp [Node.writeKeys, viewKey, hown, hself, hlow]
  | _ => exact ⟨v, by simp [Node.copies, hp], by rw [Node.writeMeets, hp]⟩

theorem Node.writeMeets_self {n : Node} {v : Nat} (hv : v < 8192) (a : Nat) : n.writeMeets v v a = true := by
  cases hp : n.place a with
  | sram lt off =>
    rw [Node.writeMeets_sram hp, List.contains_iff_mem]
    by_cases hown : ltOf v = lt
    · simp [Node.writeKeys, viewKey, hown, hv]
    · simp only [Node.writeKeys, viewKey, hown, false_and, if_false]
      split <;> simp
  | _ => rw [Node.writeMeets, hp]

theorem mem_wordsOf {a len w : Nat} : w ∈ wordsOf a len ↔ len ≠ 0 ∧ a / 8 ≤ w ∧ w ≤ (a + len - 1) / 8 := by
  unfold wordsOf span
  split
  · simp [*]
  · simp only [List.mem_map, List.mem_range]
    constructor
    · rintro ⟨i, hi, rfl⟩
      omega
    · exact fun ⟨_, hlo, hhi⟩ => ⟨w - a / 8, by omega, by omega⟩

theorem Node.fillFor_ready {n : Node} {a : Nat} (h : n.place a = .cxl → n.cxlFilled a = true) : n.fillFor a = n := by
  cases hp : n.place a with
  | cxl =>
    have hfill := h hp
    rw [Node.fillFor, hp]
    dsimp only
    unfold Node.fillRegion
    unfold Node.cxlFilled at hfill
    split
    · rfl
    · rename_i l hl
      rw [hl] at hfill
      exact if_pos hfill
  | _ => rw [Node.fillFor, hp]

/-- A fold whose every step stays where it is. -/
theorem foldl_stays {α β : Type} {f : α → β → α} {a : α} {l : List β} (h : ∀ b ∈ l, f a b = a) : l.foldl f a = a := by
  induction l with
  | nil => rfl
  | cons b l ih =>
    rw [List.foldl_cons, h b List.mem_cons_self]
    exact ih fun c hc => h c (List.mem_cons_of_mem _ hc)

theorem Node.decodeArrivals_none {n : Node} {ws : List Nat} (h : ∀ w ∈ ws, Map.look n.wire w = none) (v : Nat) :
    n.decodeArrivals v ws = n := by
  unfold Node.decodeArrivals
  split
  · rfl
  · refine foldl_stays fun w hw => ?_
    rw [h w (List.mem_filter.mp hw).1]

/-! ### The store -/

/-- Whether the word numbered `w` lies wholly in `len` bytes from `a`. -/
def covers (a len w : Nat) : Bool := decide (a ≤ w * 8 ∧ w * 8 + 8 ≤ a + len)

/-- `len` bytes can be stored at `a`: each is in memory and in no region that must be filled first, the words that they cover
in part can be read as they stand, and no flaw travels there. -/
structure Node.Storable (n : Node) (a len : Nat) : Prop where
  pos : 0 < len
  keeps : ∀ i, i < len → n.keeps (a + i)
  takes : ∀ w ∈ wordsOf a len, n.takes (covers a len w) w
  wire : ∀ w ∈ wordsOf a len, Map.look n.wire w = none

/-- A store makes its words valid and puts its bytes there. -/
theorem Node.store_eq {n : Node} (hw : n.waysWf) (v : Nat) {a : Nat} {bs : List Byte} (h : n.Storable a bs.length) :
    ∃ m, n.store v a bs = m.pokes v a bs ∧ n.Mended m (n.wordWrites v (wordsOf a bs.length)) := by
  obtain ⟨hpos, hkeeps, htakes, hwire⟩ := h
  have hfill : (n.fillFor a).fillFor (a + bs.length - 1) = n := by
    have hlast : a + bs.length - 1 = a + (bs.length - 1) := by omega
    rw [Node.fillFor_ready (a := a) (hkeeps 0 hpos).2.2, hlast, Node.fillFor_ready (hkeeps _ (by omega)).2.2]
  obtain ⟨m, hm, hmended⟩ := foldl_writeStep hw (whole := covers a bs.length) (l := n.wordWrites v (wordsOf a bs.length))
    fun kw hkw => htakes kw.2 (Node.mem_wordWrites.mp hkw).1
  have hwords : n.writeWords (fun w => decide (a ≤ w * 8 ∧ w * 8 + 8 ≤ a + bs.length)) v (wordsOf a bs.length) =
      (none, m) := hm
  refine ⟨m, ?_, hmended⟩
  have hwire' : ∀ w ∈ wordsOf a bs.length, Map.look (m.pokes v a bs).wire w = none := fun w hw' => by
    rw [Node.wire_of_frame ((m.frame_pokes v a bs).trans hmended.frame)]
    exact hwire w hw'
  rw [Node.store, hfill]
  simp only [hwords, Node.decodeArrivals_none hwire']

/-- What a store leaves alone. -/
theorem Node.frame_store {n : Node} (hw : n.waysWf) (v : Nat) {a : Nat} {bs : List Byte} (h : n.Storable a bs.length) :
    (n.store v a bs).frame = n.frame := by
  obtain ⟨m, hm, hmended⟩ := Node.store_eq hw v h
  rw [hm, Node.frame_pokes, hmended.frame]

/-- The bytes stored are what their writer reads. -/
theorem Node.rd_store_same {n : Node} (hw : n.waysWf) {v : Nat} (hv : v < 8192) {a : Nat} {bs : List Byte}
    (h : n.Storable a bs.length) (f : Nat) {i : Nat} (hi : i < bs.length) :
    (n.store v a bs).reads f v (a + i) = bs[i] := by
  obtain ⟨m, hm, hmended⟩ := Node.store_eq hw v h
  have hlayout := Node.layout_of_frame hmended.frame
  have hword : (a + i) / 8 ∈ wordsOf a bs.length := mem_wordsOf.mpr ⟨by omega, by omega, by omega⟩
  obtain ⟨k, hk, hmeets⟩ := n.exists_copy hv ((a + i) / 8 * 8)
  have hclean : m.storedEcc v ((a + i) / 8) = .clean := by
    have hmends : n.mends (n.wordWrites v (wordsOf a bs.length)) v ((a + i) / 8) = true :=
      List.any_eq_true.mpr ⟨(k, (a + i) / 8), Node.mem_wordWrites.mpr ⟨hword, hk⟩, by simp [hmeets]⟩
    rw [hmended.stored, hmends, cond_true]
  have hsound : (m.pokes v a bs).poisoned v ((a + i) / 8) = false := by
    rw [Node.poisoned_congr (Node.layout_of_frame (m.frame_pokes v a bs)) (m.codes_pokes v a bs)]
    exact Node.poisoned_of_sound (by rw [hclean]; exact Ecc.noConfusion)
  have hcontent : (m.pokes v a bs).content f v (a + i) = bs[i] :=
    Node.content_pokes_same (fun j hj => Node.keeps_congr hlayout (h.keeps j hj))
      (fun j _ => Node.writeMeets_self hv _) f hi
  rw [hm, Node.reads, hsound, if_neg Bool.false_ne_true, hcontent]

/-- Every other byte reads as before, to every reader. -/
theorem Node.rd_store_other {n : Node} (hw : n.waysWf) (v : Nat) {a : Nat} {bs : List Byte} (h : n.Storable a bs.length)
    (f u : Nat) {b : Nat} (hb : b < a ∨ a + bs.length ≤ b) :
    (n.store v a bs).reads f u b = n.reads f u b := by
  obtain ⟨m, hm, hmended⟩ := Node.store_eq hw v h
  have hlayout := Node.layout_of_frame hmended.frame
  have hpoisoned : m.poisoned u (b / 8) = n.poisoned u (b / 8) := by
    by_cases hword : b / 8 ∈ wordsOf a bs.length
    · have hpart : ¬covers a bs.length (b / 8) = true := by
        simp only [covers, decide_eq_true_eq]
        omega
      have htakes := h.takes _ hword
      rw [Node.poisoned_of_sound ((htakes.resolve_left hpart).1 u),
        Node.poisoned_of_sound (((hmended.takes htakes).resolve_left hpart).1 u)]
    · have hmiss : ∀ kw ∈ n.wordWrites v (wordsOf a bs.length), (kw.2 == b / 8) = false := fun kw hkw =>
        beq_false_of_ne fun heq => hword (heq ▸ (Node.mem_wordWrites.mp hkw).1)
      have hmends : n.mends (n.wordWrites v (wordsOf a bs.length)) u (b / 8) = false :=
        List.any_eq_false.mpr fun kw hkw => by simp [hmiss kw hkw]
      have hany : (n.wordWrites v (wordsOf a bs.length)).any (·.2 == b / 8) = false :=
        List.any_eq_false.mpr fun kw hkw => by simp [hmiss kw hkw]
      rw [Node.poisoned, Node.poisoned, hmended.stored, hmended.line, hmends, hany, cond_false, cond_false]
  have hcontent : (m.pokes v a bs).content f u b = n.content f u b :=
    (m.content_pokes_other v hb f u).trans (Node.content_congr hlayout hmended.bytes f u b)
  rw [hm, Node.reads, Node.poisoned_congr (Node.layout_of_frame (m.frame_pokes v a bs)) (m.codes_pokes v a bs), hpoisoned,
    hcontent, Node.reads]

/-! ### Bytes and numbers -/

@[simp] theorem length_leBytes (v len : Nat) : (leBytes v len).length = len := by
  induction len generalizing v with
  | zero => rfl
  | succ len ih => rw [leBytes, List.length_cons, ih]

theorem leNat_leBytes (v len : Nat) : leNat (leBytes v len) = v % 2 ^ (8 * len) := by
  induction len generalizing v with
  | zero => simp [leBytes, leNat, Nat.mod_one]
  | succ len ih =>
    have hpow : 2 ^ (8 * (len + 1)) = 256 * 2 ^ (8 * len) := by rw [Nat.mul_succ, Nat.pow_add]; omega
    rw [leBytes, leNat, ih, BitVec.toNat_ofNat, hpow, Nat.mod_mul]

/-- An access that no hole cuts has each of its bytes in memory. -/
theorem Node.place_of_badAddr {n : Node} {a len : Nat} (h : n.badAddr a len = none) {i : Nat} (hi : i < len) :
    n.place (a + i) ≠ .reg ∧ n.place (a + i) ≠ .hole := by
  have hlen : len ≠ 0 := by omega
  have hend : ∃ e, n.stretchEnd a = some e ∧ a + len ≤ e := by
    rw [Node.badAddr, if_neg hlen] at h
    split at h
    · cases h
    · rename_i e he
      split at h
      · exact ⟨e, he, by assumption⟩
      · cases h
  obtain ⟨e, he, hle⟩ := hend
  rw [Node.stretchEnd] at he
  cases hp : n.place a with
  | gddr =>
    rw [hp] at he
    obtain rfl := Option.some.inj he
    simp [Node.place_gddr.mpr (show a + i < Config.gddrEnd by omega)]
  | sram lt off =>
    rw [hp] at he
    obtain rfl := Option.some.inj he
    obtain ⟨hlt, hoff, hb, haddr⟩ := Node.place_sram.mp hp
    have hat : n.place (a + i) = .sram lt (off + i) := by
      refine Node.place_sram.mpr ⟨hlt, ?_, hb, ?_⟩ <;> simp only [sramAddr] at * <;> omega
    simp [hat]
  | cxl =>
    rw [hp] at he
    obtain rfl := Option.some.inj he
    have hlow := (Node.place_cxl.mp hp).1
    simp [Node.place_cxl.mpr (show Config.cxlBase ≤ a + i ∧ a + i < n.cxlLimit by omega)]
  | reg | hole => rw [hp] at he; cases he

end Sys2Proof.Machine
end

section
/-! PROOFS. Scalar stores, their completion and MFENCE (04 R127, R129). -/
namespace Sys2Proof.Machine

theorem Node.thread_modThread_other (n : Node) {t i u j : Nat} (f : Thread → Thread) (h : ¬(u = t ∧ j = i)) :
    (n.modThread t i f).thread u j = n.thread u j := by
  rw [Node.thread, Node.modThread_eq]
  by_cases hu : u = t
  · rw [hu, Node.tile_modTile]
    exact Tile.thread_setThread_other _ _ _ _ fun hj => h ⟨hu, hj⟩
  · rw [Node.tile_modTile_other _ _ _ _ hu]
    rfl

theorem Node.frame_digest (n : Node) (t d : Nat) : (n.digest t d).frame = n.frame := by
  unfold Node.digest
  split
  · exact n.frame_modTile t fun _ => rfl
  · rfl

/-- A thread that is ready or waits for its stores is as it was after its tile's threads look again. -/
theorem Tile.thread_wake (x : Tile) {i : Nat} (h : (x.thread i).wait = .ready ∨ (x.thread i).wait = .stores) :
    x.wake.thread i = x.thread i := by
  have hwake : x.wake.thread i = Map.getD x.wake.thr i .idle := rfl
  rw [hwake, Tile.wake]
  dsimp only
  rw [Map.getD_map]
  · change _ = x.thread i
    rw [Tile.thread] at h ⊢
    rcases h with h | h <;> rw [h]
  · exact fun _ => rfl
  · rfl

theorem Node.Storable.congr {n m : Node} {a len : Nat} (h : n.Storable a len) (hm : n.SameMemory m) (hw : m.wire = n.wire) :
    m.Storable a len := by
  refine ⟨h.pos, fun i hi => Node.keeps_congr hm.layout (h.keeps i hi), fun w hword => ?_, fun w hword => ?_⟩
  · unfold Node.takes
    simp only [Node.storedEcc_congr hm.layout hm.codes, Node.lineEcc_congr hm.codes]
    exact h.takes w hword
  · rw [hw]
    exact h.wire w hword

/-- A thread whose oldest store is complete. -/
def Thread.storeDone (th : Thread) (busy : Bool) : Thread :=
  { th with
    stores := th.stores.tail
    wait := if th.wait = .stores ∧ th.stores.tail.isEmpty ∧ !busy then .ready else th.wait }

/-- STORE_COMPLETE of a store that no link holds back (10 R317). -/
theorem storeDone_eq {n : Node} {tile : Nat} {i : Fin 8}
    (hstall : ∀ a, (n.thread tile i).stores.head? = some a → n.stalledAt a = false) : storeDone tile i n =
      (n.modThread tile i (·.storeDone ((n.tile tile).readoutOf i))).modTile tile Tile.wake := by
  have hgo : (n.thread tile i).stores.head?.any n.stalledAt = false := by
    cases hh : (n.thread tile i).stores.head? with
    | none => rfl
    | some a => exact hstall a hh
  simp only [storeDone, hgo, Bool.false_eq_true, if_false, List.drop_one]
  rfl

theorem Thread.storeDone_eq {th : Thread} (h : th.wait = .stores) (busy : Bool) : th.storeDone busy = { th with
    stores := th.stores.tail, wait := if th.stores.tail = [] ∧ busy = false then .ready else .stores } := by
  simp [Thread.storeDone, h]

end Sys2Proof.Machine

namespace Sys2Proof.Slice0
open Machine

/-- MFENCE waits for the stores and the readouts of its thread, and only where there are any. -/
theorem exec_mfence {s : State} {x : Site} (hr : Runs s x) :
    exec (.mfence x) s = .next (after s x 1 { (thr s x).step with
      wait := if (thr s x).stores = [] ∧ (s.node.tile x.tile).readoutOf x.thr = false then .ready else .stores }) := by
  have he : exec (.mfence x) s = execMfence x s := rfl
  have hbusy : ((issued s x 1).tile x.tile).readoutOf x.thr = (s.node.tile x.tile).readoutOf x.thr := by
    rw [tile_issued]
    rfl
  rw [he, execMfence, lift_issueAt hr 1 rfl rfl (fun th => { th.step with
    wait := if th.stores.isEmpty && !((issued s x 1).tile x.tile).readoutOf x.thr then .ready else .stores }) rfl rfl, hbusy]
  simp

theorem exec_storeComplete {s : State} {tile : Nat} {i : Fin 8} (hq : s.node.quiet = true)
    (hwait : (s.node.thread tile i).wait = .stores)
    (hstall : ∀ a, (s.node.thread tile i).stores.head? = some a → s.node.stalledAt a = false) :
    ∃ t, exec (.storeComplete tile i) s = .next t ∧
      t.node.thread tile i = { s.node.thread tile i with
        stores := (s.node.thread tile i).stores.tail
        wait := if (s.node.thread tile i).stores.tail = [] ∧ (s.node.tile tile).readoutOf i = false then .ready else .stores } ∧
      keepsMemory s t ∧ t.chip = s.chip := by
  have he : exec (.storeComplete tile i) s = lift (storeDone tile i) s := rfl
  have heq := storeDone_eq hstall
  refine ⟨{ s with node := storeDone tile i s.node }, ?_, ?_, keepsMemory_of ?_, rfl⟩
  · rw [he, lift_quiet]
    rw [heq]
    exact hq
  · have hthread : ((s.node.modThread tile i (·.storeDone ((s.node.tile tile).readoutOf i))).tile tile).thread i = _ :=
      (Node.thread_modThread _ _ _ _).trans (Thread.storeDone_eq hwait _)
    simp only [heq]
    rw [Node.thread, Node.tile_modTile, Tile.thread_wake _ ?_, hthread]
    rw [hthread]
    dsimp only
    split <;> simp
  · simp only [heq]
    exact ((Node.SameMemory.refl _).modThread tile i _).modTile tile (f := Tile.wake) fun _ => rfl

/-- Where a scalar store may land, its bytes can be stored. -/
theorem storable_of {s : State} {a size : Nat} (hpos : 0 < size) (hin : inMemory s a size) (hwr : writable s a size)
    (hreg : regionsReady s a size) : s.node.Storable a size := by
  refine ⟨hpos, fun i hi => ?_, fun w hw => ?_, hwr.2⟩
  · obtain ⟨hreg', hhole⟩ := Node.place_of_badAddr hin.2 hi
    exact ⟨hreg', hhole, hreg i hi⟩
  · by_cases hc : covers a size w = true
    · exact .inl hc
    · refine .inr (hwr.1 w (List.mem_filter.mpr ⟨hw, ?_⟩))
      simp only [covers, decide_eq_true_eq] at hc ⊢
      omega

theorem exec_stores {i : Instr} {x : Site} {rs ra : Fin 32} {off : BitVec 32} {size : Nat}
    (h : stores i = some (x, rs, ra, off, size)) (s : State) : exec i s = lift (storeN x rs ra off size) s ∧ 0 < size := by
  cases i <;> simp only [stores, Option.some.injEq, Prod.mk.injEq, reduceCtorEq] at h
  all_goals
    obtain ⟨rfl, rfl, rfl, rfl, rfl⟩ := h
    exact ⟨rfl, by decide⟩

/-- What a store does when it issues and nothing refuses it. -/
def storeLanded (s : State) (x : Site) (a : Nat) (bs : List Byte) : Node :=
  (((issued s x 1).store x.tile a bs).digest x.tile (writeDigest a bs)).modThread x.tile x.thr fun th =>
    { th.step with stores := th.stores ++ [a] }

/-- A scalar store that no check refuses and no bound holds back. -/
theorem lift_storeN {s : State} {x : Site} (hr : Runs s x) {rs ra : Fin 32} {off : BitVec 32} {size : Nat}
    (hin : inMemory s (effective (thr s x) ra off) size) (hlocal : s.node.localHit (effective (thr s x) ra off) size = none)
    (hfree : ownSram x.tile (effective (thr s x) ra off) size = true ∨
      (s.node.writesOf x.tile < 32 ∧ s.node.tileHolds (effective (thr s x) ra off) = false))
    (hlands : s.node.lands x.tile (effective (thr s x) ra off) = true) :
    lift (storeN x rs ra off size) s = lift (fun _ =>
      storeLanded s x (effective (thr s x) ra off) (leBytes ((thr s x).getS rs).toNat size)) s := by
  obtain ⟨-, hi, hres, hsel⟩ := hr
  have hbad : s.node.storeBad (effective (thr s x) ra off) size = none := by
    rw [Node.storeBad, if_neg (Nat.not_le.mpr hin.1), hin.2, hlocal]
    rfl
  have hbound : ((s.node.storeBad (effective (thr s x) ra off) size).isNone &&
      !ownSram x.tile (effective (thr s x) ra off) size &&
      (decide (32 ≤ s.node.writesOf x.tile) || s.node.tileHolds (effective (thr s x) ra off))) = false := by
    rcases hfree with hown | ⟨hwrites, hholds⟩
    · simp [hown]
    · simp [hholds, hwrites]
  have hgo : storeN x rs ra off size s.node =
      storeLanded s x (effective (thr s x) ra off) (leBytes ((thr s x).getS rs).toNat size) := by
    rw [storeN, Node.issueAt_goes hi (by rw [hres]; rfl) hsel (if_neg (Bool.eq_false_iff.mp hbound))]
    have hstore : (s.node.modTile x.tile (·.issueMark x.thr 1)).storeBad (ea (s.node.thread x.tile x.thr) ra off).toNat size =
      none := hbad
    have hland : (s.node.modTile x.tile (·.issueMark x.thr 1)).lands x.tile (ea (s.node.thread x.tile x.thr) ra off).toNat =
      true := hlands
    simp only [hstore, Node.tileStore, hland, if_true]
    rfl
  rw [lift, hgo, lift]

/-- What a scalar store of the bytes `bs` does, in a state whose fetch cache lists each way once. -/
theorem lift_storeN_lands {s : State} {x : Site} (hr : Runs s x) (hx : x.tile < 8192) (hways : s.node.waysWf) {a : Nat}
    {bs : List Byte} (h : s.node.Storable a bs.length) :
    ∃ t, lift (fun _ => storeLanded s x a bs) s = .next t ∧
      t.node.thread x.tile x.thr = { (thr s x).step with stores := (thr s x).stores ++ [a] } ∧
      (∀ f, (List.range bs.length).map (fun k => byteAt t f x.tile (a + k)) = bs) ∧
      keepsOthers s t a bs.length ∧ keepsThreads s t x ∧ t.chip = s.chip := by
  have hissued := issued_sameMemory s x 1
  have hstorable : (issued s x 1).Storable a bs.length := h.congr hissued rfl
  have hways' : (issued s x 1).waysWf := hways
  have hframe : (((issued s x 1).store x.tile a bs).digest x.tile (writeDigest a bs)).frame = s.node.frame :=
    (Node.frame_digest _ _ _).trans ((Node.frame_store hways' x.tile hstorable).trans
      (s.node.frame_modTile x.tile (f := (·.issueMark x.thr 1)) fun _ => rfl))
  have hmem : ((issued s x 1).store x.tile a bs).SameMemory (storeLanded s x a bs) :=
    ((Node.SameMemory.refl _).digest _ _).modThread _ _ _
  refine ⟨{ s with node := storeLanded s x a bs }, lift_quiet _ ?_, ?_, fun f => ?_, fun f v b hb => ?_, fun u j huj => ?_, rfl⟩
  · exact (Node.quiet_of_frame hframe).trans hr.1
  · dsimp only
    rw [storeLanded, Node.thread_modThread, Node.thread_of_frame hframe]
    rfl
  · refine List.ext_getElem (by simp) fun k _ hk => ?_
    rw [List.getElem_map, List.getElem_range, byteAt_eq, hmem.reads]
    exact Node.rd_store_same hways' hx hstorable f hk
  · rw [byteAt_eq, byteAt_eq, hmem.reads, Node.rd_store_other hways' x.tile hstorable f v hb, hissued.reads]
  · dsimp only
    rw [storeLanded, Node.thread_modThread_other _ _ huj, Node.thread_of_frame hframe]

/-- A scalar store in a state whose fetch cache lists each way of a set once, as `Node.waysWf` says: the clause on stores that
the statement `ScalarStores` makes of every state. -/
theorem exec_store_lands {i : Instr} {s : State} {x : Site} {rs ra : Fin 32} {off : BitVec 32} {size : Nat}
    (hways : s.node.waysWf) (hi : stores i = some (x, rs, ra, off, size)) (hr : Runs s x) (hx : x.wf = true)
    (hin : inMemory s (effective (thr s x) ra off) size) (hlocal : s.node.localHit (effective (thr s x) ra off) size = none)
    (hfree : ownSram x.tile (effective (thr s x) ra off) size = true ∨
      (s.node.writesOf x.tile < 32 ∧ s.node.tileHolds (effective (thr s x) ra off) = false))
    (hwrite : writable s (effective (thr s x) ra off) size) (hready : regionsReady s (effective (thr s x) ra off) size)
    (hlands : s.node.lands x.tile (effective (thr s x) ra off) = true) :
    ∃ t, exec i s = .next t ∧
      t.node.thread x.tile x.thr =
        { (thr s x).step with stores := (thr s x).stores ++ [effective (thr s x) ra off] } ∧
      (∀ f, numberAt t f x.tile (effective (thr s x) ra off) size = ((thr s x).getS rs).toNat % 2 ^ (8 * size)) ∧
      keepsOthers s t (effective (thr s x) ra off) size ∧ keepsThreads s t x ∧ t.chip = s.chip := by
  obtain ⟨hexec, hpos⟩ := exec_stores hi s
  have htile : x.tile < 8192 := by
    simp only [Site.wf, tileKeyWf, decide_eq_true_eq] at hx
    omega
  have hlen : (leBytes ((thr s x).getS rs).toNat size).length = size := length_leBytes _ _
  have hstorable := storable_of hpos hin hwrite hready
  rw [← hlen] at hstorable
  obtain ⟨t, ht, hthread, hbytes, hothers, hthreads, hchip⟩ := lift_storeN_lands hr htile hways hstorable
  rw [hlen] at hbytes hothers
  refine ⟨t, ?_, hthread, fun f => ?_, hothers, hthreads, hchip⟩
  · rw [hexec, lift_storeN hr hin hlocal hfree hlands, ht]
  · rw [numberAt, hbytes, leNat_leBytes]

end Sys2Proof.Slice0
end

section
/-! PROOFS. A cache set that lists a way twice: a whole word stored to GDDR7 changes what a word of another line reads as. -/
namespace Sys2Proof.Slice0
open Machine

/-- A line of the fetch cache without an unsound word. -/
def soundLine (tag : Nat) : CLine := { tag := tag, soft := [], bad := [] }

/-- A used tile whose thread 0 is ready, its registers zero. -/
def readyTile : Tile := { Tile.idle with
  used := true, thr := [(0, { Thread.idle with hasCode := true, wait := .ready })] }

/-- Thread 0 of logical tile 0 may issue. Set 0 of the fetch cache lists way 3 twice, with the lines at 0x400000 and at 0. The
word of GDDR7 at 0x400000 is uncorrectable, so its byte is what the cache holds: not the free value. -/
def wayTwice : State := { State.reset with node := { Node.reset with
  on := true, tiles := [(0, readyTile)], gov := { Gov.reset with tgs := [(0, { Tg.off with powered := true })] }
  fcache := [(0, { ways := [(3, soundLine 1), (3, soundLine 0)], plru := 0 })]
  mems := { Node.reset.mems with bad := [0x80000], data := [(0x400000, Config.freeByte 0 0x400000 + 1)] } } }

/-- Thread 0 of logical tile 0, always selected. -/
def siteZero : Site := { tile := 0, thr := 0, ps := 0, pn := false, res := 0, hi := 0 }

theorem wayTwice_runs : Runs wayTwice siteZero := ⟨by decide, by decide, by decide, by decide⟩

theorem wayTwice_inMemory : inMemory wayTwice 0 8 := ⟨by decide, by decide⟩

theorem wayTwice_writable : writable wayTwice 0 8 :=
  ⟨fun w hw => absurd hw (by rw [show partWords 0 8 = [] by decide]; exact List.not_mem_nil), fun w _ => rfl⟩

theorem wayTwice_regionsReady : regionsReady wayTwice 0 8 := fun _ _ _ => rfl

/-- Before the store the byte at 0x400000 is the cache's. -/
theorem wayTwice_before : byteAt wayTwice 0 0 0x400000 = Config.freeByte 0 0x400000 + 1 := by
  have hpoisoned : wayTwice.node.poisoned 0 (0x400000 / 8) = false := by decide
  have hplace : wayTwice.node.place 0x400000 = .gddr := by decide
  rw [byteAt_eq, Node.reads, hpoisoned, Node.content, hplace]
  rfl

/-- After it the line at 0x400000 is gone, and its uncorrectable word reads as a free value. -/
theorem wayTwice_after {t : State} (h : exec (.st64 siteZero 0 0 0) wayTwice = .next t) :
    byteAt t 0 0 0x400000 = Config.freeByte 0 0x400000 := by
  obtain rfl : settle { wayTwice with node := storeN siteZero 0 0 0 8 wayTwice.node } = t := Host.Outcome.next.inj h
  have hpoisoned : (settle { wayTwice with node := storeN siteZero 0 0 0 8 wayTwice.node }).node.poisoned 0
      (0x400000 / 8) = true := by decide
  rw [byteAt_eq, Node.reads, hpoisoned, if_pos rfl]

/-- Refutes O10: the statement ranges over every state, also one whose cache set lists a way twice, and there a store to the
second line of that way drops the first. Where each way is listed once the clause on stores holds (`exec_store_lands`), and the
clauses on their completion and on MFENCE hold in every state (`exec_storeComplete`, `exec_mfence`). -/
theorem not_scalarStores : ¬ Obligations.ScalarStores := by
  intro h
  obtain ⟨t, hexec, -, -, hothers, -⟩ := h.1 (.st64 siteZero 0 0 0) wayTwice siteZero 0 0 0 8 rfl wayTwice_runs (by decide)
    wayTwice_inMemory (by decide) (.inr ⟨by decide, by decide⟩) wayTwice_writable wayTwice_regionsReady (by decide)
  have hsame := hothers 0 0 0x400000 (.inr (by decide))
  rw [wayTwice_before, wayTwice_after hexec] at hsame
  bv_omega

end Sys2Proof.Slice0
end

section
/-! PROOFS. The meter: what the bytes of a reading spell, what closing an interval leaves, and what each command of the meter
does (16 R486-R499). -/
namespace Sys2Proof.Slice0
open Machine

/-! ### The fields of a reading -/

theorem field_leBytes_append (v len : Nat) (r : List Byte) : field (leBytes v len ++ r) 0 len = v % 256 ^ len := by
  rw [field, List.drop_zero, List.take_left' (length_leBytes v len), leNat_leBytes, Nat.pow_mul]

theorem field_append_of_le {len off : Nat} (h : len ≤ off) (v n : Nat) (r : List Byte) :
    field (leBytes v len ++ r) off n = field r (off - len) n := by
  rw [field, field, List.drop_append, length_leBytes, List.drop_eq_nil_of_le (by rw [length_leBytes]; exact h), List.nil_append]

theorem flags_lt (x : Meter) (tagcut sealcut : Bool) (m : MeterMeas) : x.flags tagcut sealcut m < 256 := by
  have hb : ∀ b : Bool, b2n b ≤ 1 := by decide
  have := hb x.test
  have := hb x.fault
  have := hb tagcut
  have := hb sealcut
  have := hb m.range
  have := hb (x.sealCnt == 65535)
  unfold Meter.flags
  omega

/-- Every field of R492 stands at its offset, whatever the signature. -/
theorem fields_signedReading (x : Meter) (serial tag : Nat) (tagcut sealcut : Bool) (m : MeterMeas) :
    let b := signedReading (readingHead x serial (x.flags tagcut sealcut m) tag m)
    b.length = 224 ∧ field b 0 2 = 1 ∧ field b 2 1 = x.flags tagcut sealcut m ∧ field b 4 4 = x.sealCnt % 2 ^ 32 ∧
    field b 8 8 = x.seq % 2 ^ 64 ∧ field b 16 8 = x.tms % 2 ^ 64 ∧ field b 24 4 = m.durMs % 2 ^ 32 ∧
    field b 32 8 = tag % 2 ^ 64 ∧ field b 40 8 = x.eMain % 2 ^ 64 ∧ field b 48 8 = x.eAux % 2 ^ 64 ∧
    field b 56 4 = m.mainMj * 1000 / m.durMs % 2 ^ 32 ∧ field b 60 4 = m.auxMj * 1000 / m.durMs % 2 ^ 32 ∧
    field b 64 8 = serial % 2 ^ 64 ∧ field b 80 48 = 0 := by
  have hflags : x.flags tagcut sealcut m % 256 = x.flags tagcut sealcut m := Nat.mod_eq_of_lt (flags_lt x tagcut sealcut m)
  simp [signedReading, readingHead, field_append_of_le, field_leBytes_append, hflags]

/-! ### Closing an interval -/

section
variable {m : MeterMeas} (serial : Nat) (x : Meter)

/-- One interval is closed and its reading signed, by itself or by a seal event of kind `cut` (R490, R494, R496). -/
theorem closed_close (hok : m.checkOk = true) (cut : Option Nat) :
    closed serial x (x.close serial cut m) m (if x.test then 0 else x.tag) (b2n cut.isSome) := by
  have hcheck : x.check m.checkOk = x := by rw [hok]; rfl
  unfold closed Meter.close
  rw [hcheck, hok]
  cases cut with
  | none => exact ⟨rfl, rfl, rfl, rfl, rfl, rfl, rfl, rfl, rfl, _, Map.look_put_same _ _ _, fields_signedReading _ _ _ _ _ _⟩
  | some k => exact ⟨rfl, rfl, rfl, rfl, rfl, rfl, rfl, rfl, rfl, _, Map.look_put_same _ _ _, fields_signedReading _ _ _ _ _ _⟩

/-- The tag that waits, or else the one in force, is the tag after an interval of 10 ms or more (R491). -/
theorem tag_close (h : 10 ≤ m.durMs) (cut : Option Nat) : (x.close serial cut m).tag = x.waitTag.getD x.tag ∧
    (x.close serial cut m).waitTag = none := by
  have hcut : (x.waitTag.isSome && decide (10 ≤ m.durMs)) = x.waitTag.isSome := by rw [decide_eq_true h, Bool.and_true]
  unfold Meter.close
  rw [hcut]
  cases x.waitTag with
  | none => exact ⟨rfl, rfl⟩
  | some g => exact ⟨rfl, rfl⟩

/-- The receptacle's pins stay as they are over a close. -/
theorem pins_close (hok : m.checkOk = true) (cut : Option Nat) : (x.close serial cut m).testReq = x.testReq ∧
    (x.close serial cut m).vtest = x.vtest := by
  unfold Meter.close
  rw [hok]
  cases cut with
  | none => exact ⟨rfl, rfl⟩
  | some k => exact ⟨rfl, rfl⟩

/-- A seal event cuts an interval of an allowed length, which carries SEALCUT (R490, R494). -/
theorem closed_cutBy (hm : measured m) (k : Nat) : closed serial x (x.cutBy serial k m) m (if x.test then 0 else x.tag) 1 ∧
    (x.cutBy serial k m).lastSeal = k ∧ (x.cutBy serial k m).testReq = x.testReq ∧ (x.cutBy serial k m).vtest = x.vtest := by
  obtain ⟨hmin, hmax, hok⟩ := hm
  rw [Meter.cutBy, if_pos ⟨hmin, hmax⟩]
  exact ⟨closed_close serial x hok (some k), rfl, pins_close serial x hok (some k)⟩

/-- A second seal event of one moment is counted alone (log entry 108). -/
theorem cutBy_alone (h : m.durMs = 0 ∨ 1000 < m.durMs) (k : Nat) : x.cutBy serial k m = x.sealEvent k :=
  if_neg (by omega)

end

/-! ### The supplies and the domains -/

theorem dark_iff (s : State) : s.dark = true ↔ allDark s := by
  simp [State.dark, allDark]

theorem testDue_iff (s : State) : s.testDue = true ↔ s.chip.meter.running = true ∧ s.chip.meter.test = false ∧
    s.chip.meter.testReq = true ∧ s.chip.meter.vtest = true ∧ allDark s := by
  simp [State.testDue, dark_iff, and_assoc]

/-! ### A start of the meter -/

/-- The meter after a start whose check ends with `ok`, before test mode (R488, R494, R495). -/
def startedMeter (x : Meter) (ok : Bool) : Meter := (x.anew.sealEvent 1).check ok

theorem startedMeter_eq (x : Meter) (ok : Bool) : startedMeter x ok = { x.anew with
    fault := !ok, lastSeal := if ok then 1 else 5, sealCnt := Min.min 65535 (x.sealCnt + if ok then 1 else 2) } := by
  cases ok with
  | true => rfl
  | false =>
    have hcount : Min.min 65535 (Min.min 65535 (x.sealCnt + 1) + 1) = Min.min 65535 (x.sealCnt + 2) := by omega
    exact congrArg (fun c => { x.anew with fault := true, lastSeal := 5, sealCnt := c }) hcount

/-- The seal event of test mode follows those of the start. -/
theorem sealEvent_startedMeter (x : Meter) (ok : Bool) : (startedMeter x ok).sealEvent 3 = { x.anew with
    fault := !ok, lastSeal := 3, sealCnt := Min.min 65535 (x.sealCnt + if ok then 2 else 3) } := by
  have hcount : Min.min 65535 (Min.min 65535 (x.sealCnt + if ok then 1 else 2) + 1) =
      Min.min 65535 (x.sealCnt + if ok then 2 else 3) := by
    cases ok <;> simp <;> omega
  rw [startedMeter_eq, ← hcount]
  rfl

/-- The state after a start, before test mode: the meter's check has taken a free value. -/
def started (s : State) : State := { withMeter s (startedMeter s.chip.meter (Config.meterSound s.node.free)) with
  node := { s.node with free := s.node.free + 1 } }

theorem meter_started (s : State) : (started s).chip.meter =
    let ok := Config.meterSound s.node.free
    { s.chip.meter.anew with
      fault := !ok, lastSeal := if ok then 1 else 5, sealCnt := Min.min 65535 (s.chip.meter.sealCnt + if ok then 1 else 2) } :=
  startedMeter_eq _ _

theorem testDue_started (s : State) : (started s).testDue = true ↔
    s.chip.meter.testReq = true ∧ s.chip.meter.vtest = true ∧ allDark s := by
  rw [testDue_iff, meter_started]
  exact ⟨fun ⟨_, _, h⟩ => h, fun h => ⟨rfl, rfl, h⟩⟩

/-- Test mode at a start signs no reading: no interval has passed. -/
theorem meter_testFrom_started (s : State) : ((started s).testFrom 0).chip.meter =
    let ok := Config.meterSound s.node.free
    { s.chip.meter.anew with
      test := true, fault := !ok, lastSeal := 3, sealCnt := Min.min 65535 (s.chip.meter.sealCnt + if ok then 2 else 3) } :=
  congrArg (fun x : Meter => { x with test := true }) ((cutBy_alone _ _ (.inl rfl) 3).trans (sealEvent_startedMeter _ _))

section
variable {s : State}

theorem exec_meterStart_starts (hoff : s.chip.meter.running = false)
    (h : s.chip.pins.aux = true ∨ s.chip.meter.vtest = true) :
    exec .meterStart s = .next (if (started s).testDue then (started s).testFrom 0 else started s) :=
  congrArg Host.Outcome.next (if_neg (by rcases h with h | h <;> simp [hoff, h]))

/-- Test mode is asked for and domains 0-69 are off: the start enters it at once (R499). -/
theorem exec_meterStart_tests (hoff : s.chip.meter.running = false)
    (h : s.chip.pins.aux = true ∨ s.chip.meter.vtest = true) (hdue : (started s).testDue = true) :
    exec .meterStart s = .next ((started s).testFrom 0) :=
  (exec_meterStart_starts hoff h).trans (congrArg _ (if_pos hdue))

theorem exec_meterStart_measures (hoff : s.chip.meter.running = false)
    (h : s.chip.pins.aux = true ∨ s.chip.meter.vtest = true) (hdue : ¬(started s).testDue = true) :
    exec .meterStart s = .next (started s) :=
  (exec_meterStart_starts hoff h).trans (congrArg _ (if_neg hdue))

theorem exec_meterStart_stays (h : s.chip.meter.running = true ∨ (s.chip.pins.aux = false ∧ s.chip.meter.vtest = false)) :
    exec .meterStart s = .next s :=
  congrArg Host.Outcome.next (if_pos (by rcases h with h | ⟨ha, hv⟩ <;> simp [*]))

/-! ### Intervals -/

theorem onMeter_running (h : s.chip.meter.running = true) (f : Nat → Meter → Meter) :
    onMeter f s = .next (withMeter s (f s.chip.fuses.serial.toNat s.chip.meter)) := by
  rw [onMeter, onChip, if_pos h]
  rfl

theorem onMeter_off (h : s.chip.meter.running = false) (f : Nat → Meter → Meter) : onMeter f s = .next s := by
  rw [onMeter, onChip, if_neg (by simp [h])]

variable {m : MeterMeas}

theorem exec_readingIntervalEnd (s : State) (m : MeterMeas) : exec (.readingIntervalEnd m) s = execReadingIntervalEnd m s := rfl

theorem exec_delayedTag (s : State) (m : MeterMeas) : exec (.delayedTag m) s = execDelayedTag m s := rfl

theorem exec_sealSwitchOpened (s : State) (m : MeterMeas) : exec (.sealSwitchOpened m) s = execSealSwitchOpened m s := rfl

theorem exec_readingIntervalEnd_closes (h : s.chip.meter.running = true) (hdur : m.durMs = 1000) :
    exec (.readingIntervalEnd m) s = .next (withMeter s (s.chip.meter.close s.chip.fuses.serial.toNat none m)) := by
  rw [exec_readingIntervalEnd, execReadingIntervalEnd, onMeter_running h, if_pos hdur]

theorem exec_readingIntervalEnd_stays (h : s.chip.meter.running = true) (hdur : m.durMs ≠ 1000) :
    exec (.readingIntervalEnd m) s = .next s := by
  rw [exec_readingIntervalEnd, execReadingIntervalEnd, onMeter_running h, if_neg hdur]
  rfl

theorem exec_delayedTag_closes (h : s.chip.meter.running = true) {g : Nat} (hg : s.chip.meter.waitTag = some g)
    (hmin : 10 ≤ m.durMs) (hmax : m.durMs ≤ 1000) :
    exec (.delayedTag m) s = .next (withMeter s (s.chip.meter.close s.chip.fuses.serial.toNat none m)) := by
  rw [exec_delayedTag, execDelayedTag, onMeter_running h, if_pos (by simp [hg, hmin, hmax])]

theorem exec_delayedTag_stays (h : s.chip.meter.running = true)
    (hno : s.chip.meter.waitTag = none ∨ m.durMs < 10 ∨ 1000 < m.durMs) : exec (.delayedTag m) s = .next s := by
  have hnot : ¬(s.chip.meter.waitTag.isSome && decide (10 ≤ m.durMs ∧ m.durMs ≤ 1000)) = true := by
    rcases hno with hno | hno
    · simp [hno]
    · rw [decide_eq_false (by omega), Bool.and_false]
      exact Bool.false_ne_true
  rw [exec_delayedTag, execDelayedTag, onMeter_running h, if_neg hnot]
  rfl

theorem exec_sealSwitchOpened_cuts (h : s.chip.meter.running = true) : exec (.sealSwitchOpened m) s =
    .next (withMeter s (s.chip.meter.cutBy s.chip.fuses.serial.toNat 2 m)) :=
  (exec_sealSwitchOpened s m).trans (onMeter_running h _)

/-! ### Test mode -/

/-- The meter with TEST_N and VTEST as the receptacle now has them (R498). -/
def atPins (x : Meter) (req vtest : Bool) : Meter := { x with testReq := req, vtest := vtest }

@[simp] theorem test_atPins (x : Meter) (req vtest : Bool) : (atPins x req vtest).test = x.test := rfl

theorem testDue_atPins : (withMeter s (atPins s.chip.meter true m.vtest)).testDue = true ↔
    s.chip.meter.running = true ∧ s.chip.meter.test = false ∧ m.vtest = true ∧ allDark s := by
  rw [testDue_iff]
  exact ⟨fun ⟨hr, ht, _, h⟩ => ⟨hr, ht, h⟩, fun ⟨hr, ht, h⟩ => ⟨hr, ht, rfl, h⟩⟩

theorem exec_testModeEnter_enters
    (h : s.chip.meter.running = true ∧ s.chip.meter.test = false ∧ m.vtest = true ∧ allDark s) :
    exec (.testModeEnter m) s = .next (withMeter s
      { (atPins s.chip.meter true m.vtest).cutBy s.chip.fuses.serial.toNat 3 m with test := true }) :=
  congrArg Host.Outcome.next (if_pos (testDue_atPins.mpr h))

theorem exec_testModeEnter_waits
    (h : ¬(s.chip.meter.running = true ∧ s.chip.meter.test = false ∧ m.vtest = true ∧ allDark s)) :
    exec (.testModeEnter m) s = .next (withMeter s (atPins s.chip.meter true m.vtest)) :=
  congrArg Host.Outcome.next (if_neg (mt testDue_atPins.mp h))

theorem exec_testModeLeave_leaves (hsupply : s.chip.pins.aux = true ∨ m.vtest = true) (hrun : s.chip.meter.running = true)
    (htest : s.chip.meter.test = true) : exec (.testModeLeave m) s = .next (withMeter s
      { (atPins s.chip.meter false m.vtest).cutBy s.chip.fuses.serial.toNat 4 m with test := false }) :=
  congrArg (Host.Outcome.next ∘ withMeter s)
    ((if_neg (by rcases hsupply with h | h <;> simp [h])).trans (if_pos (by simp [hrun, htest])))

theorem exec_testModeLeave_stops (haux : s.chip.pins.aux = false) (hv : m.vtest = false) : exec (.testModeLeave m) s =
    .next (withMeter s { atPins s.chip.meter false m.vtest with running := false }) :=
  congrArg (Host.Outcome.next ∘ withMeter s) (if_pos (by simp [haux, hv]))

theorem exec_testModeLeave_none (hsupply : s.chip.pins.aux = true ∨ m.vtest = true)
    (h : s.chip.meter.running = false ∨ s.chip.meter.test = false) : exec (.testModeLeave m) s =
    .next (withMeter s (atPins s.chip.meter false m.vtest)) :=
  congrArg (Host.Outcome.next ∘ withMeter s)
    ((if_neg (by rcases hsupply with h | h <;> simp [h])).trans (if_neg (by rcases h with h | h <;> simp [h])))

/-! ### The tap -/

theorem sumOf_eq {α : Type} (f : α → Nat) (l : List α) : sumOf f l = (l.map f).sum := by
  induction l with
  | nil => rfl
  | cons a t ih => rw [sumOf, ih, List.map_cons, List.sum_cons]

theorem tapU_eq_sampleOf (mw cw : Nat) : s.node.tapU mw cw = sampleOf s mw cw := by
  rw [Node.tapU, sampleOf, Node.tilesPower, sumOf_eq, tilesWatts]
  push_cast
  ring

theorem averaged_average (g : Gov) (l : List Rat) : averaged g (g.average l) l := by
  rw [averaged, Gov.average, meanOf, List.sum_eq_foldl]

/-- With no request waiting there is nothing to admit (15 R471). -/
theorem admitFits_of_noneAsks {n : Node} (h : ∀ r ∈ n.gov.reqs, r.admitted = true) (k : Hwk) : n.admitFits k = n := by
  have hnone : n.pendingReqs = [] := by
    rw [Node.pendingReqs, List.filter_eq_nil_iff.mpr fun r hr => by simp [h r hr]]
    rfl
  rw [Node.admitFits, hnone, List.foldl_nil, ite_self]

theorem governed_of_governs (h : governs s) : s.governed = true := by
  obtain ⟨-, hheld, hdomain⟩ := h
  simp [State.governed, hheld, hdomain]

/-- The meter after a tap update (R489, R497). -/
def tapped (x : Meter) (mw cw : Nat) : Meter := { x with pMain := mw, pAux := cw, tick := (x.tick + 1) % 65536 }

theorem exec_tapUpdate (s : State) (mw cw : Nat) : exec (.tapUpdate mw cw) s = execTapUpdate mw cw s := rfl

/-- A command on the whole state after which nothing is asked of the always-on domain. -/
theorem whole_eq {f : State → State} {t : State} (h : f s = t) (hq : t.node.quiet = true) : whole f s = .next t := by
  rw [whole, h, settle_quiet hq]

/-- The state after a tap update of a running meter: where the governor runs, U takes the new sample. -/
def afterTap (s : State) (mw cw : Nat) : State := { withMeter s (tapped s.chip.meter mw cw) with
  node := if s.governed then s.node.setU (tapped s.chip.meter mw cw) true else s.node }

theorem quiet_afterTap (s : State) (mw cw : Nat) : (afterTap s mw cw).node.quiet = s.node.quiet := by
  unfold afterTap
  split <;> rfl

theorem tiles_afterTap (s : State) (mw cw : Nat) : (afterTap s mw cw).node.tiles = s.node.tiles := by
  unfold afterTap
  split <;> rfl

theorem gov_afterTap (h : s.governed = true) (mw cw : Nat) :
    (afterTap s mw cw).node.gov = s.node.gov.average (sampleOf s mw cw :: s.node.gov.samples) := by
  unfold afterTap
  rw [if_pos h, ← tapU_eq_sampleOf]
  rfl

theorem exec_tapUpdate_running (hq : s.node.quiet = true) (hrun : s.chip.meter.running = true) (hasks : noneAsks s)
    (mw cw : Nat) : exec (.tapUpdate mw cw) s = .next (afterTap s mw cw) := by
  rw [exec_tapUpdate, execTapUpdate]
  refine whole_eq ((if_neg (by simp [hrun])).trans ?_) ((quiet_afterTap s mw cw).trans hq)
  unfold afterTap
  by_cases hgov : s.governed = true
  · rw [if_pos hgov]
    exact (if_pos hgov).trans (congrArg (fun n => { withMeter s (tapped s.chip.meter mw cw) with node := n })
      (admitFits_of_noneAsks (n := s.node.setU (tapped s.chip.meter mw cw) true) hasks s.chip.hwk))
  · rw [if_neg hgov]
    exact if_neg hgov

theorem exec_tapUpdate_off (hq : s.node.quiet = true) (hoff : s.chip.meter.running = false) (mw cw : Nat) :
    exec (.tapUpdate mw cw) s = .next s := by
  rw [exec_tapUpdate, execTapUpdate]
  exact whole_eq (if_pos (by simp [hoff])) hq

end

/-! ### The obligation -/

/-- Settles O52: a start by whether test mode is due, the closed intervals by `closed_close` and `closed_cutBy`, the tap by
`exec_tapUpdate_running`, and a meter that does not run by `onMeter_off`. -/
theorem meterReadings : Obligations.MeterReadings := by
  unfold Obligations.MeterReadings
  refine ⟨?starts, ?intervals, ?testMode, ?tap, ?off⟩
  case starts =>
    rintro s ok hoff rfl
    refine ⟨fun hsupply => ?_, fun haux hv => exec_meterStart_stays (.inr ⟨haux, hv⟩)⟩
    by_cases hdue : (started s).testDue = true
    · refine ⟨_, exec_meterStart_tests hoff hsupply hdue, rfl, ?_⟩
      rw [meter_testFrom_started]
      exact ⟨rfl, rfl, rfl, rfl, rfl, rfl, rfl, rfl, rfl, rfl, rfl, fun h => absurd ((testDue_started s).mp hdue) h,
        fun _ _ _ => ⟨rfl, rfl, rfl⟩⟩
    · refine ⟨_, exec_meterStart_measures hoff hsupply hdue, rfl, ?_⟩
      rw [meter_started]
      exact ⟨rfl, rfl, rfl, rfl, rfl, rfl, rfl, rfl, rfl, rfl, rfl, fun _ => ⟨rfl, rfl, rfl, rfl⟩,
        fun hreq hv hdark => absurd ((testDue_started s).mpr ⟨hreq, hv, hdark⟩) hdue⟩
  case intervals =>
    intro s m hrun
    refine ⟨exec_meterStart_stays (.inl hrun), fun hdur hok => ?full, exec_readingIntervalEnd_stays hrun,
      fun g hg hmin hm => ?tag, exec_delayedTag_stays hrun, fun hm => ?switch, fun hdur => ?alone⟩
    case full =>
      exact ⟨_, exec_readingIntervalEnd_closes hrun hdur, rfl, closed_close _ _ hok none, tag_close _ _ (by omega) none⟩
    case tag =>
      obtain ⟨-, hmax, hok⟩ := hm
      obtain ⟨htag, hwait⟩ := tag_close s.chip.fuses.serial.toNat s.chip.meter hmin none
      exact ⟨_, exec_delayedTag_closes hrun hg hmin hmax, rfl, closed_close _ _ hok none,
        htag.trans (by rw [hg, Option.getD_some]), hwait⟩
    case switch =>
      obtain ⟨hclosed, hkind, -⟩ := closed_cutBy s.chip.fuses.serial.toNat s.chip.meter hm 2
      exact ⟨_, exec_sealSwitchOpened_cuts hrun, rfl, hclosed, hkind⟩
    case alone =>
      rw [exec_sealSwitchOpened_cuts hrun, cutBy_alone _ _ hdur]
      rfl
  case testMode =>
    intro s m
    refine ⟨fun hdue hm => ?enter, fun hdue hdur => ?alone, exec_testModeEnter_waits, fun hrun htest hsupply hm => ?leave,
      fun haux hv => ?stop, exec_testModeLeave_none⟩
    case enter =>
      have ⟨_, htest, hv, _⟩ := hdue
      obtain ⟨hclosed, hkind, hreq, hvtest⟩ :=
        closed_cutBy s.chip.fuses.serial.toNat (atPins s.chip.meter true m.vtest) hm 3
      rw [test_atPins, htest] at hclosed
      exact ⟨_, exec_testModeEnter_enters hdue, rfl, hclosed, rfl, hreq, hvtest.trans hv, hkind⟩
    case alone =>
      have ⟨_, _, hv, _⟩ := hdue
      rw [exec_testModeEnter_enters hdue, cutBy_alone _ _ hdur, hv]
      rfl
    case leave =>
      obtain ⟨hclosed, hkind, hreq, hvtest⟩ :=
        closed_cutBy s.chip.fuses.serial.toNat (atPins s.chip.meter false m.vtest) hm 4
      rw [test_atPins, htest] at hclosed
      exact ⟨_, exec_testModeLeave_leaves hsupply hrun htest, rfl, hclosed, rfl, hreq, hvtest, hkind⟩
    case stop =>
      rw [exec_testModeLeave_stops haux hv, hv]
      rfl
  case tap =>
    intro s mw cw hq hrun hasks
    refine ⟨afterTap s mw cw, exec_tapUpdate_running hq hrun hasks mw cw, tiles_afterTap s mw cw, rfl, fun hgov => ?_⟩
    rw [gov_afterTap (governed_of_governs hgov)]
    exact averaged_average _ _
  case off =>
    intro s mw cw m hq hoff
    exact ⟨exec_tapUpdate_off hq hoff mw cw, (exec_readingIntervalEnd s m).trans (onMeter_off hoff _),
      (exec_delayedTag s m).trans (onMeter_off hoff _), (exec_sealSwitchOpened s m).trans (onMeter_off hoff _)⟩

end Sys2Proof.Slice0
end
